-- ==== Sys2Proof/Word.lean ====
section
/-! DEFINITION. The word types of the FRB40 and the units its numbers are counted in (R5; the notation of the scope chapter). -/

namespace Sys2Proof

/-- One byte. -/
abbrev Byte := BitVec 8

/-- A 64-bit scalar register, key, global address or system register. -/
abbrev Word := BitVec 64

/-- One binary32 pattern. -/
abbrev F32 := BitVec 32

/-- Fabric time is counted in units of 0.25 ns (R251): one nanosecond, one microsecond, one millisecond, one second. -/
abbrev nsU : Nat := 4
abbrev usU : Nat := 4000
abbrev msU : Nat := 4000000
abbrev secU : Nat := 4000000000

end Sys2Proof
end

