-- ==== Sys2Proof/Syntax.lean ====
section
/-! DEFINITION. The commands of the FRB40: one constructor of `Instr` for each row of spec/opcode_table.json, with the operands of the row. A row that a strand issues carries the strand's position and its guard; a row that a unit does of itself names the unit and what it observed (a reading, a count of symbols in error, the verdict of a check whose arithmetic is not the model's); a packet row carries the packet's fields; a host-link row carries the command header and its parameters. -/

namespace Sys2Proof

/-- Position of a core: CDd.CLl.Cc (R20). -/
structure CorePos where
  die : Fin 4
  cluster : Fin 12
  core : Fin 16
  deriving DecidableEq, Repr

/-- Position of a strand (R20, R71). -/
structure Pos where
  die : Fin 4
  cluster : Fin 12
  core : Fin 16
  strand : Fin 32
  deriving DecidableEq, Repr

/-- The guard of an instruction: predicate PG, inverted by PN (R75). -/
structure Guard where
  pg : BitVec 3
  pn : Bool
  deriving DecidableEq, Repr

/-- A row of one HBM stack, as R149 names it. -/
structure RowId where
  stack : Fin 16
  pch : Fin 32
  sid : Fin 4
  bank : Fin 48
  row : BitVec 18
  deriving DecidableEq, Repr

/-- The SRAM arrays of R154, with the instance the consequence needs. -/
inductive SramArray where
  | tileStore (c : CorePos)
  | felt (die : Fin 4) (cluster : Fin 12)
  | icache (c : CorePos)
  /-- The queue of one engine of a core (R152). -/
  | engineQueue (c : CorePos) (eng : Fin 4)
  | regFile (p : Pos)
  | outputBuffer (port : Fin 90) (vc : Fin 10) (index : Nat)
  | replayBuffer (port : Fin 64)
  | flowContext (flow : Nat)
  | collStaging (ctx : Fin 4096)
  | deckleTable (index : Nat)
  | routeTable (bank : Fin 2)
  | trustSram
  | stewardSram
  deriving DecidableEq, Repr

/-- The instances of the memory error record (R155). -/
inductive MemErrSel where
  | hbm (stack : Fin 16)
  | cd (die : Fin 4) (pcluster : Fin 13)
  | fd (region : Fin 7)
  deriving DecidableEq, Repr

/-- Coordinates of a module (R267). -/
structure Coord where
  w : Nat
  x : Nat
  y : Nat
  z : Nat
  deriving DecidableEq, Repr

/-- A remote-operation request as it reaches a home (R166, R332). `parts` lists the constituents of a combined reduction-store (R323): source node, flow, sequence. -/
structure Req where
  src : BitVec 20
  flow : BitVec 20
  seq : BitVec 24
  slice : BitVec 16
  opcode : BitVec 8
  addr : Word
  key : Word
  data : List Byte
  comb : Bool
  crowd : Bool
  parts : List (BitVec 20 × BitVec 20 × BitVec 24)
  flags : BitVec 4
  deriving DecidableEq, Repr

/-- A response as it reaches its source (R167). -/
structure Resp where
  opcode : BitVec 8 := 0x80
  flow : BitVec 20
  seq : BitVec 24
  word : Word
  data : List Byte
  crowd : Bool
  deriving DecidableEq, Repr

/-- One read of a gather (R128, R129): a page-table entry, or a line of a page. -/
inductive GatherRead where
  | entry (i : Nat)
  | line (page : Nat) (ln : Nat)
  deriving DecidableEq, Repr

/-- The 12-byte box mask of a multicast packet (R282), with its reserved bits. -/
structure Box where
  epmask : BitVec 16
  zmask : BitVec 16
  ymask : BitVec 16
  xmask : BitVec 16
  wmask : BitVec 16
  stage : BitVec 3
  reserved : BitVec 13
  deriving DecidableEq, Repr

/-- A fabric packet (R332). `size` counts the bytes sent, header included. -/
structure Packet where
  ver : BitVec 2
  cls : BitVec 3
  epoch : BitVec 2
  dst : BitVec 20
  src : BitVec 20
  slice : BitVec 16
  flow : BitVec 20
  seq : BitVec 24
  opcode : BitVec 8
  crowd : Bool
  comb : Bool
  colour : BitVec 2
  grade : BitVec 3
  key : Word
  addr : Word
  reserved : Bool
  box : Option Box
  data : List Byte
  parts : List (BitVec 20 × BitVec 20 × BitVec 24)
  flags : BitVec 4
  deriving DecidableEq, Repr

/-- The prefix of every collective packet (R233). -/
structure CollHdr where
  gid : BitVec 16
  gepoch : BitVec 8
  part : Nat
  opseq : BitVec 32
  chunk : Nat
  paramcrc : BitVec 32
  deriving DecidableEq, Repr

/-- A segment as a port's receiver has it (R329 to R341). -/
structure SegVerdict where
  /-- PAM4 levels received, 0 to 3: of each codeword group that overlaps the segment, for each of the eight lanes, its 425 unit intervals. -/
  groups : List (List (List Nat))
  /-- Place in its frame of the segment's first block, 0 to 3,199, which the receiver counts. -/
  first : Nat
  /-- Blocks from that one to the TAGB that closes the segment. -/
  blocks : Nat
  /-- The 58 payload bits received before it, the latest in bit 0. -/
  before : BitVec 58
  /-- The verdict on its tag. -/
  tagOk : Bool
  deriving DecidableEq, Repr

/-- A protected item of a segment (R330): a packet on its virtual channel, a CREDIT block, or a packet that STOMP voids. -/
inductive SegItem where
  | packet (vc : Fin 10) (p : Packet)
  | stomped (vc : Fin 10) (p : Packet)
  | credit (vc : Fin 10) (count : BitVec 16)
  /-- A command or status packet of the host link, header and payload, void where STOMP follows it (R362, R370). -/
  | host (bytes : List Byte) (void : Bool)
  deriving DecidableEq, Repr

/-- Why a port leaves service (R344, R456, R356). -/
inductive DownCause where
  | lossOfSignal
  | lockLoss
  | syncErrors
  | retryFailure
  | tagFailures
  | errorRatio
  | feedsLost
  | thermal
  deriving DecidableEq, Repr

/-- The header of a command packet as the acceptance checks of R377 read it, with the verdicts of its seal and signature (R374, R375). -/
structure Hdr where
  channel : BitVec 7
  tag : BitVec 16
  slice : BitVec 16
  version : BitVec 4
  length : Nat
  rel : Bool
  isSealed : Bool
  isSigned : Bool
  scount : Word
  sealOk : Bool
  target : Word
  ocount : Word
  sigOk : Bool
  deriving DecidableEq, Repr

/-- The header fields of a command packet that R377 may reject before its opcode is looked at. -/
structure RawHdr where
  kind : BitVec 4
  reserved : Bool
  lengthField : Nat
  lengthSent : Nat
  vc : Nat
  opcode : BitVec 16
  h : Hdr
  deriving DecidableEq, Repr

/-- The payload of SAMPLER_CFG (R505). -/
structure SamplerCfg where
  sampler : Nat
  action : Nat
  set : Nat
  first : Nat
  count : Nat
  mode : Nat
  trigger : Nat
  event : Nat
  period : Nat
  buf : Nat
  die : Nat
  log2size : Nat
  post : Nat
  t : Nat
  deriving DecidableEq, Repr

/-- The payload of WATERMARK_CFG (R514). -/
structure WatermarkCfg where
  unit : Nat
  action : Nat
  tap : Nat
  cluster : Nat
  core : Nat
  gid : Nat
  start : Nat
  length : Nat
  elem : Nat
  anchor : BitVec 10
  closeCtr : Nat
  doneCtr : Nat
  result : Nat
  log2slots : Nat
  ref : Nat
  deriving DecidableEq, Repr

/-- The payload of BKPT_SET (R510). -/
structure BkptCfg where
  die : Nat
  cluster : Nat
  core : Nat
  kind : Nat
  mask32 : BitVec 32
  access : BitVec 8
  scope : Nat
  value : Word
  mask : Word
  deriving DecidableEq, Repr

/-- The payload of DRILL_SCHEDULE (R500). -/
structure DrillCfg where
  t : Nat
  kind : Nat
  port : Nat
  gid : BitVec 16
  die : Nat
  amount : Nat
  id : Word
  deriving DecidableEq, Repr

/-- What the power controller reads at one sample (R449, R458): current in A, voltage in mV and status fault of each rail, and temperatures in degrees C. -/
structure RailRead where
  current : Nat
  voltage : Nat
  fault : Bool
  answered : Bool
  deriving DecidableEq, Repr

/-- What DVFS_STEP raises or lowers (R445). -/
inductive DvfsDir where
  | up
  | down
  deriving DecidableEq, Repr

/-- Why a compute die resets itself (R466). -/
inductive CdResetCause where
  | trip
  | railFault
  | stateError
  | connectionsLost
  deriving DecidableEq, Repr

inductive Instr where
  -- Scalar integer (R78 to R83)
  | add (p : Pos) (g : Guard) (sd sa sb : BitVec 6)
  | sub (p : Pos) (g : Guard) (sd sa sb : BitVec 6)
  | and (p : Pos) (g : Guard) (sd sa sb : BitVec 6)
  | or (p : Pos) (g : Guard) (sd sa sb : BitVec 6)
  | xor (p : Pos) (g : Guard) (sd sa sb : BitVec 6)
  | sll (p : Pos) (g : Guard) (sd sa sb : BitVec 6)
  | srl (p : Pos) (g : Guard) (sd sa sb : BitVec 6)
  | sra (p : Pos) (g : Guard) (sd sa sb : BitVec 6)
  | min (p : Pos) (g : Guard) (sd sa sb : BitVec 6)
  | max (p : Pos) (g : Guard) (sd sa sb : BitVec 6)
  | minu (p : Pos) (g : Guard) (sd sa sb : BitVec 6)
  | maxu (p : Pos) (g : Guard) (sd sa sb : BitVec 6)
  | clz (p : Pos) (g : Guard) (sd sa sb : BitVec 6)
  | popc (p : Pos) (g : Guard) (sd sa sb : BitVec 6)
  | andn (p : Pos) (g : Guard) (sd sa sb : BitVec 6)
  | ctz (p : Pos) (g : Guard) (sd sa sb : BitVec 6)
  | mul (p : Pos) (g : Guard) (sd sa sb : BitVec 6)
  | mulh (p : Pos) (g : Guard) (sd sa sb : BitVec 6)
  | mulhu (p : Pos) (g : Guard) (sd sa sb : BitVec 6)
  | div (p : Pos) (g : Guard) (sd sa sb : BitVec 6)
  | divu (p : Pos) (g : Guard) (sd sa sb : BitVec 6)
  | rem (p : Pos) (g : Guard) (sd sa sb : BitVec 6)
  | remu (p : Pos) (g : Guard) (sd sa sb : BitVec 6)
  | cmp (p : Pos) (g : Guard) (cond pd : BitVec 3) (sa sb : BitVec 6) (fn : BitVec 4)
  | cmpi (p : Pos) (g : Guard) (cond pd : BitVec 3) (sa : BitVec 6) (imm : BitVec 10)
  | pand (p : Pos) (g : Guard) (pd pa pb : BitVec 3)
  | por (p : Pos) (g : Guard) (pd pa pb : BitVec 3)
  | pxor (p : Pos) (g : Guard) (pd pa pb : BitVec 3)
  | pandn (p : Pos) (g : Guard) (pd pa pb : BitVec 3)
  | pnot (p : Pos) (g : Guard) (pd pa : BitVec 3)
  | pget (p : Pos) (g : Guard) (sd : BitVec 6)
  | pset (p : Pos) (g : Guard) (sa : BitVec 6)
  | addi (p : Pos) (g : Guard) (sd sa : BitVec 6) (imm : BitVec 10)
  | andi (p : Pos) (g : Guard) (sd sa : BitVec 6) (imm : BitVec 10)
  | ori (p : Pos) (g : Guard) (sd sa : BitVec 6) (imm : BitVec 10)
  | xori (p : Pos) (g : Guard) (sd sa : BitVec 6) (imm : BitVec 10)
  | shi (p : Pos) (g : Guard) (sd sa : BitVec 6) (imm : BitVec 10)
  | li (p : Pos) (g : Guard) (sd : BitVec 6) (imm : BitVec 16)
  | ins16 (p : Pos) (g : Guard) (sd : BitVec 6) (imm : BitVec 16)
  | ins32 (p : Pos) (g : Guard) (sd : BitVec 6) (imm : BitVec 16)
  | ins48 (p : Pos) (g : Guard) (sd : BitVec 6) (imm : BitVec 16)
  -- Branches (R84)
  | br (p : Pos) (g : Guard) (disp : BitVec 22)
  | call (p : Pos) (g : Guard) (disp : BitVec 22)
  | jr (p : Pos) (g : Guard) (sd sa : BitVec 6)
  -- Local memory (R85)
  | ldlB (p : Pos) (g : Guard) (sd sa : BitVec 6) (imm : BitVec 10)
  | ldlH (p : Pos) (g : Guard) (sd sa : BitVec 6) (imm : BitVec 10)
  | ldlW (p : Pos) (g : Guard) (sd sa : BitVec 6) (imm : BitVec 10)
  | ldlWs (p : Pos) (g : Guard) (sd sa : BitVec 6) (imm : BitVec 10)
  | ldlD (p : Pos) (g : Guard) (sd sa : BitVec 6) (imm : BitVec 10)
  | stlB (p : Pos) (g : Guard) (sd sa : BitVec 6) (imm : BitVec 10)
  | stlH (p : Pos) (g : Guard) (sd sa : BitVec 6) (imm : BitVec 10)
  | stlW (p : Pos) (g : Guard) (sd sa : BitVec 6) (imm : BitVec 10)
  | stlD (p : Pos) (g : Guard) (sd sa : BitVec 6) (imm : BitVec 10)
  -- Global operations (R87 to R90)
  | gld (p : Pos) (g : Guard) (sd sa sb : BitVec 6) (ks w : BitVec 2)
  | gst (p : Pos) (g : Guard) (sd sa sb : BitVec 6) (ks w : BitVec 2)
  | gather (p : Pos) (g : Guard) (sa sb : BitVec 6)
  | aadd (p : Pos) (g : Guard) (sd sa sb : BitVec 6) (ks w : BitVec 2)
  | aand (p : Pos) (g : Guard) (sd sa sb : BitVec 6) (ks w : BitVec 2)
  | aor (p : Pos) (g : Guard) (sd sa sb : BitVec 6) (ks w : BitVec 2)
  | axor (p : Pos) (g : Guard) (sd sa sb : BitVec 6) (ks w : BitVec 2)
  | amin (p : Pos) (g : Guard) (sd sa sb : BitVec 6) (ks w : BitVec 2)
  | amax (p : Pos) (g : Guard) (sd sa sb : BitVec 6) (ks w : BitVec 2)
  | aminu (p : Pos) (g : Guard) (sd sa sb : BitVec 6) (ks w : BitVec 2)
  | amaxu (p : Pos) (g : Guard) (sd sa sb : BitVec 6) (ks w : BitVec 2)
  | aswap (p : Pos) (g : Guard) (sd sa sb : BitVec 6) (ks w : BitVec 2)
  | acas (p : Pos) (g : Guard) (sd sa sb : BitVec 6) (ks w : BitVec 2)
  | reds (p : Pos) (g : Guard) (fmt : BitVec 4) (sa sb : BitVec 6) (ks form : BitVec 2)
  -- Tile and vector (R91 to R96)
  | tmma (p : Pos) (g : Guard) (eng : BitVec 2) (td : BitVec 4) (sa sb : BitVec 6) (init final : Bool)
  | tld (p : Pos) (g : Guard) (td : BitVec 4) (sa : BitVec 6)
  | tst (p : Pos) (g : Guard) (td : BitVec 4) (sa : BitVec 6)
  | vadd (p : Pos) (g : Guard) (sd sa sb : BitVec 6)
  | vsub (p : Pos) (g : Guard) (sd sa sb : BitVec 6)
  | vmul (p : Pos) (g : Guard) (sd sa sb : BitVec 6)
  | vfma (p : Pos) (g : Guard) (sd sa sb : BitVec 6)
  | vmax (p : Pos) (g : Guard) (sd sa sb : BitVec 6)
  | vmin (p : Pos) (g : Guard) (sd sa sb : BitVec 6)
  | vadds (p : Pos) (g : Guard) (sd sa sb : BitVec 6)
  | vmuls (p : Pos) (g : Guard) (sd sa sb : BitVec 6)
  | vrsum (p : Pos) (g : Guard) (sd sa : BitVec 6)
  | vrmax (p : Pos) (g : Guard) (sd sa : BitVec 6)
  | exp2 (p : Pos) (g : Guard) (sd sa : BitVec 6)
  | log2 (p : Pos) (g : Guard) (sd sa : BitVec 6)
  | rcp (p : Pos) (g : Guard) (sd sa : BitVec 6)
  | rsqrt (p : Pos) (g : Guard) (sd sa : BitVec 6)
  | sqrt (p : Pos) (g : Guard) (sd sa : BitVec 6)
  | tanh (p : Pos) (g : Guard) (sd sa : BitVec 6)
  | logistic (p : Pos) (g : Guard) (sd sa : BitVec 6)
  | erf (p : Pos) (g : Guard) (sd sa : BitVec 6)
  | vcvt (p : Pos) (g : Guard) (sd sa sb : BitVec 6)
  -- Synchronisation (R97 to R101)
  | fenceAcq (p : Pos) (g : Guard)
  | fenceRel (p : Pos) (g : Guard)
  | fenceFull (p : Pos) (g : Guard)
  | twait (p : Pos) (g : Guard)
  | waitc (p : Pos) (g : Guard) (pd : BitVec 3) (sa sb : BitVec 6)
  | rdc (p : Pos) (g : Guard) (sd sa : BitVec 6)
  | bar (p : Pos) (g : Guard) (sa sb : BitVec 6)
  -- System (R70, R102)
  | rsr (p : Pos) (g : Guard) (sd : BitVec 6) (imm : BitVec 10)
  | wsr (p : Pos) (g : Guard) (sa : BitVec 6) (imm : BitVec 10)
  | stopI (p : Pos) (g : Guard)
  | yieldI (p : Pos) (g : Guard)
  | spawn (p : Pos) (g : Guard) (pd : BitVec 3) (sa sb : BitVec 6)
  | trap (p : Pos) (g : Guard) (sa : BitVec 6)
  | rett (p : Pos) (g : Guard)
  | icinv (p : Pos) (g : Guard)
  | bkpt (p : Pos) (g : Guard)
  -- Events of strands, cores and engines
  | strandWake (p : Pos)
  | waitcTimeout (p : Pos)
  | coreGate (c : CorePos)
  | coreWake (c : CorePos)
  | globalResponse (die : Fin 4) (id : Nat)
  | poisonedFetch (p : Pos)
  | tmmaStart (c : CorePos) (eng : Fin 4)
  | tmmaComplete (c : CorePos) (eng : Fin 4)
  | engineGate (c : CorePos) (eng : Fin 4)
  | engineWake (c : CorePos) (eng : Fin 4)
  | engineResidueFail (c : CorePos) (eng : Fin 4)
  | vectorResidueFail (p : Pos)
  | gatherLineResponse (die : Fin 4) (cluster : Fin 12) (slot : Fin 32) (rd : GatherRead)
  | spareSubstitute (die : Fin 4) (cluster : Fin 12)
  | clusterRenumber (die : Fin 4)
  | d2dFailover (link : Fin 4)
  | d2dReturn (link : Fin 4)
  -- HBM and SRAM
  | patrolRead (die : Fin 4) (sector : Nat) (symbols : Nat) (row : RowId)
  | patrolPassComplete (die : Fin 4)
  | hbmRefresh (stack : Fin 16)
  | hbmTempSample (stack : Fin 16) (temp : BitVec 8)
  | rowRepair (row : RowId)
  | repairRecordAppend
  | granuleScrubStart (die : Fin 4) (g : Fin 16)
  | granuleZeroed (die : Fin 4) (g : Fin 16)
  | stackFail (stack : Fin 16)
  | sramScrub (a : SramArray) (word : Nat) (bitsWrong : Nat)
  | firstValidRearm (sel : MemErrSel) (value : Word)
  | periodHWrite (die : Fin 4) (value : Word)
  -- Remote operations
  | homeRequest (die : Fin 4) (r : Req)
  | homeUpdate (die : Fin 4) (src : BitVec 20) (flow : BitVec 20) (seq : BitVec 24) (symbols : Nat) (row : RowId)
  | responseArrive (die : Fin 4) (r : Resp)
  | responseTimeout (die : Fin 4) (flow : BitVec 20) (seq : BitVec 24)
  | replayEntryExpire (die : Fin 4) (src : BitVec 20) (flow : BitVec 20) (seq : BitVec 24)
  -- Couch
  | ringWake (ring : Fin 4096)
  | descriptorStart (ring : Fin 4096)
  | descriptorRetire (ring : Fin 4096)
  | copyDelegate (issuer : BitVec 20) (ring : Nat) (slot : Nat) (slice : BitVec 16) (desc : List Byte)
  | copyStart (src : BitVec 20) (slice : BitVec 16) (tag : BitVec 16) (op : BitVec 4) (dst dkey : Word) (dctr : BitVec 14) (dcen : Bool) (cunit : Nat) (length : Nat) (mkh : Nat)
  | bulkData (src : BitVec 20) (flow : BitVec 20) (seq : BitVec 24) (tag : BitVec 16) (offset : Nat) (data : List Byte) (crc : BitVec 32) (bad : List Nat)
  | bulkAck (flow : BitVec 20) (cum : BitVec 24) (map : BitVec 256)
  | bulkAckTimer (src : BitVec 20) (flow : BitVec 20)
  | retransmissionTimer (flow : BitVec 20)
  | bulkFlowFail (flow : BitVec 20)
  | copyEnd (toIssuer : Bool) (tag : BitVec 16) (status : BitVec 16) (counted : Nat)
  | flowOpen (src : BitVec 20) (dst : BitVec 20) (flow : BitVec 20) (bulk : Bool) (slice : BitVec 16) (seq0 : BitVec 24)
  | flowOpenAck (flow : BitVec 20) (recv : BitVec 20)
  | flowOpenNak (flow : BitVec 20) (status : BitVec 16)
  | flowOpenRetry (flow : BitVec 20)
  | flowClose (src : BitVec 20) (flow : BitVec 20)
  | flowIdleClose (flow : BitVec 20)
  | couchC4Resend (id : Nat)
  | flowContextError (flow : BitVec 20)
  -- Collectives
  | quireWake (ctx : Fin 4096)
  | entryStart (ctx : Fin 4096)
  | groupJoin (src : BitVec 20) (gid : BitVec 16) (gepoch : BitVec 8) (mapcrc : BitVec 32)
  | groupReady (gid : BitVec 16) (gepoch : BitVec 8)
  | joinTimeout (ctx : Fin 4096)
  | chunkUp (src : BitVec 20) (h : CollHdr) (data : List Byte) (flags : BitVec 4) (last crcOk crowd : Bool)
  | chunkDown (src : BitVec 20) (h : CollHdr) (data : List Byte) (flags : BitVec 4) (last crcOk crowd : Bool)
  | chunkAck (src : BitVec 20) (h : CollHdr) (cum : Nat) (crowd : Bool)
  | chunkRereq (src : BitVec 20) (h : CollHdr)
  | chunkMissingTimer (ctx : Fin 4096) (peer : BitVec 20) (chunk : Nat)
  | arrive (src : BitVec 20) (h : CollHdr) (node : BitVec 20) (verdict : Bool)
  | release (h : CollHdr) (t : Word) (node : BitVec 20)
  | barrierPrewake (ctx : Fin 4096)
  | barrierRelease (ctx : Fin 4096)
  | digest (src : BitVec 20) (h : CollHdr) (rank : Nat) (bytes : List Byte)
  | abortReq (src : BitVec 20) (h : CollHdr) (cause : BitVec 16) (drill : Bool)
  | abortI (h : CollHdr) (code cause : BitVec 16) (drill : Bool)
  | doneI (h : CollHdr) (code : BitVec 16) (flags : BitVec 4) (t : Word)
  | refuse (src : BitVec 20) (h : CollHdr) (status : BitVec 16)
  | outcomeQuery (src : BitVec 20) (h : CollHdr)
  | outcomeReply (src : BitVec 20) (h : CollHdr) (seen : Nat) (code : BitVec 16) (flags : BitVec 4) (t : Word)
  | operationTimeout (ctx : Fin 4096)
  | collC4Resend (id : Nat)
  | laneResidueFail (lane : Fin 64)
  | lendRequest
  | lendWithdraw
  -- Time base
  | fabricTimeTick
  | announceSend
  | announce (port : Fin 64) (gm : BitVec 20) (prio : BitVec 8) (hops : Nat) (state : BitVec 3)
  | syncReqSend
  | syncReq (port : Fin 64) (t1 : Word)
  | syncResp (port : Fin 64) (t1 t2 t3 : Word) (afterResume : Bool)
  | parentLost
  | parentSelect
  | ppsInEdge
  | ppsLoss
  | secondBoundary
  | ppsOutFall
  | tbCtrlWrite (value : Word)
  -- Switch core and routing
  | packetArrive (port : Fin 90) (vc : Fin 10) (p : Packet)
  | packetLink (port : Fin 90) (vc : Fin 10)
  | residueWrite (port : Fin 90) (slot : Fin 4) (out : Fin 90)
  | waleEscape (port : Fin 90) (cls : Fin 5) (cycles : Nat)
  | unroutableDiscard (port : Fin 90) (vc : Fin 10)
  | outputSend (port : Fin 90)
  | credit (port : Fin 90) (vc : Fin 10) (count : BitVec 16)
  | cellError (port : Fin 90) (vc : Fin 10) (index : Nat)
  | waleWaitWrite (value : Word)
  | swMeterWrite (slot : Fin 64) (value : Word)
  | swDropProfileWrite (index : Fin 720) (value : Word)
  | swPortCtrlWrite (port : Fin 90) (value : Word)
  | groupDown (oe : Fin 16)
  | probe (port : Fin 64) (detector target : BitVec 20) (relays : List (BitVec 20))
  | probeReply (port : Fin 64) (target detector : BitVec 20)
  | probeTimeout (oe : Fin 16)
  | nodeLost (port : Fin 64) (lost : Coord) (t : Nat)
  | linkLost (port : Fin 64) (a b : Coord) (t : Nat)
  | nodeBack (port : Fin 64) (back : Coord) (epoch : BitVec 2)
  | oldBankRetire
  -- Links
  | segmentReceive (port : Fin 65) (sseq : Nat) (kph : Bool) (v : SegVerdict) (items : List SegItem)
  | ack (port : Fin 65) (sseq : BitVec 24)
  | ackTimer (port : Fin 65)
  | nak (port : Fin 65) (sseq : BitVec 24)
  | nakResendTimer (port : Fin 65)
  | resume (port : Fin 65) (sseq : BitVec 24)
  | portDown (port : Fin 65) (cause : DownCause)
  | portLight (port : Fin 65)
  | lockAcquired (port : Fin 65)
  | lockTimeout (port : Fin 65)
  | eqComplete (port : Fin 65) (clean : List (BitVec 25))
  | deskewComplete (port : Fin 65) (peerLevel : BitVec 4) (lanesInOrder : Bool)
  | lkKeyx (port : Fin 65) (chainOk sigOk : Bool) (opDigest : Word) (notBefore : Nat)
  | identCheck (port : Fin 64) (peer : Coord) (oe : Fin 16) (index : Fin 4)
  | trainingRetry (port : Fin 65)
  | rekeyStart (port : Fin 65)
  | lkRekey (port : Fin 65) (chainOk sigOk : Bool) (opDigest : Word) (notBefore : Nat)
  | feedMeasure (oe : Fin 16) (powerA powerB : Int)
  | lkLaneWrite (index : Fin 512) (value : Word)
  -- Host-link commands (R389)
  | nop (h : Hdr)
  | identify (h : Hdr)
  | regRead (h : Hdr) (sel : Word) (n : Nat)
  | regWrite (h : Hdr) (sel : Word) (value : Word)
  | resultRead (h : Hdr) (tag : BitVec 16) (part : Nat)
  | resultRelease (h : Hdr) (tag : BitVec 16)
  | abortCommand (h : Hdr) (tag : BitVec 16)
  | timeSet (h : Hdr) (seconds : Word)
  | domainReset (h : Hdr) (domain : BitVec 8)
  | txnOpen (h : Hdr)
  | txnCheck (h : Hdr) (handle : BitVec 16)
  | txnCommitAt (h : Hdr) (handle : BitVec 16) (t : Word)
  | txnCommitFire (handle : BitVec 16)
  | txnDiscard (h : Hdr) (handle : BitVec 16)
  | txnExpire (handle : BitVec 16)
  | sliceStage (h : Hdr) (handle : BitVec 16) (desc : List Byte)
  | sliceRepulp (h : Hdr) (slice : BitVec 16)
  | sliceStatus (h : Hdr)
  | sliceLaunch (h : Hdr) (offset arg : Word)
  | strandCtrl (h : Hdr) (die cluster core strand action : Nat) (offset : Word)
  | jobStop (h : Hdr)
  | jobRestart (h : Hdr)
  | memWrite (h : Hdr) (addr : Word) (data : List Byte)
  | memRead (h : Hdr) (addr : Word) (len : Nat)
  | counterAdd (h : Hdr) (die counter : Nat) (value : Word)
  | ringDefine (h : Hdr) (ring die log2n weight : Nat) (base pi ci : Word)
  | ringReset (h : Hdr) (ring : Nat)
  | ringDelete (h : Hdr) (ring : Nat)
  | deckleDefine (h : Hdr) (endpoint log2size : Nat) (perm : BitVec 4) (sameSlice : Bool) (base : Word)
  | deckleRevoke (h : Hdr) (index : Nat)
  | deckleRead (h : Hdr) (index : Nat)
  | mouldKeyLoad (h : Hdr) (mkh : Nat) (keyId : BitVec 32) (unwrapOk : Bool)
  | mouldKeyDrop (h : Hdr) (mkh : Nat)
  | coordSet (h : Hdr) (w x y z : Nat)
  | routeStage (h : Hdr) (handle : BitVec 16) (bank : List Byte)
  | linkRetrain (h : Hdr) (port : Nat)
  | groupStage (h : Hdr) (handle : BitVec 16) (desc : List Byte)
  | groupDeleteStage (h : Hdr) (handle : BitVec 16) (gid : BitVec 16)
  | groupAbort (h : Hdr) (gid : BitVec 16) (opseq : BitVec 32)
  | groupStatus (h : Hdr) (gid : BitVec 16)
  | attest (h : Hdr) (nonce : List Byte)
  | certRead (h : Hdr) (index : Nat)
  | sessionOpen (h : Hdr) (payload : List Byte) (pointOk sigVerdict : Bool)
  | sessionClose (h : Hdr)
  | usageRead (h : Hdr) (nonce : List Byte)
  | opkeyRotate (h : Hdr) (newKey : List Byte) (proofOk : Bool)
  | pwrCapSet (h : Hdr) (cap : BitVec 32)
  | pwrStatus (h : Hdr)
  | bkptSet (h : Hdr) (b : BkptCfg)
  | bkptClear (h : Hdr) (number : Nat)
  | strandHalt (h : Hdr) (die cluster core strand : Nat)
  | strandResume (h : Hdr) (die cluster core strand : Nat)
  | samplerCfg (h : Hdr) (c : SamplerCfg)
  | watermarkCfg (h : Hdr) (c : WatermarkCfg)
  | eventFreeze (h : Hdr) (source : BitVec 16) (action kind : Nat)
  | blackboxRead (h : Hdr) (start : Word) (n : Nat) (kind : Nat)
  | drillSchedule (h : Hdr) (d : DrillCfg)
  | testUnlock (h : Hdr) (imageDigest : List Byte)
  | fwStageBegin (h : Hdr) (slot kind length : Nat)
  | fwStageData (h : Hdr) (offset : Nat) (data : List Byte)
  | fwStageEnd (h : Hdr) (signaturesOk : Bool)
  | fwActivate (h : Hdr) (slot : Nat)
  | fwStatus (h : Hdr)
  -- Residency and trust events
  | sliceSwitchOut (slot : Fin 64)
  | switchOutDrained (slot : Fin 64)
  | sliceSwitchIn (slot : Fin 64)
  | evidenceBatch
  | aklRenew
  | usageSnapshot
  -- Power and thermal events
  | powerSample (rails : List RailRead) (dieTemps : List Nat) (stackTemps : List Nat) (oeTemps : List Nat) (fdTemp : Nat)
  | dvfsStep (die : Fin 4) (dir : DvfsDir)
  | throttleNAssert
  | throttleNRelease
  | rackCapWrite (lo hi : Option Byte)
  | entdaa (addr : BitVec 7)
  | thermalSample (dieTemps : List Nat) (oeTemps : List Nat) (fdTemp : Nat)
  | clusterPllGate (die : Fin 4) (cluster : Fin 12)
  | diePowerGate (die : Fin 4)
  -- Reset and bring-up events
  | resetNAssert (pwrOk : Bool)
  | resetNRelease (straps : List (Option (BitVec 4)))
  | startUpStep (ok : Bool) (unitsOk : BitVec 16) (diesOk : BitVec 4) (deviceIdOk : Bool)
  | railUp (rail : Fin 6) (inRegulation : Bool)
  | refclkLoss
  | autonomousCdReset (die : Fin 4) (cause : CdResetCause)
  | stewardHeartbeatTimeout
  | fwConfirm
  | resetComplete (domain : BitVec 4)
  -- Faults and fleet events
  | stopNotice (port : Fin 64) (job : BitVec 32) (origin : BitVec 20) (serial : BitVec 32) (status : BitVec 16) (t : Nat)
  | blackboxWrite
  | stormSummary (source : BitVec 16)
  | stormExit (source : BitVec 16)
  | drillNote (port : Fin 64)
  | drillFire (id : Word)
  -- Observability events
  | samplerSample (unit : Fin 256) (writeStatus : BitVec 16)
  | samplerTrigger (unit : Fin 256) (event : Nat)
  | haltDrained (p : Pos)
  | watermarkClose (unit : Fin 256) (faultStatus : BitVec 16)
  -- The rows after the observability events
  | refclkValid
  | illegalOp (p : Pos) (word : BitVec 32)
  | fetchFault (p : Pos)
  | commandRejected (r : RawHdr)
  | stormEnter (source : BitVec 16)
  | drillNoteSend (id : Word)
  | tck (tms tdi trstN : Bool) (pins : Nat)
  deriving DecidableEq, Repr

end Sys2Proof
end

