-- ==== Sys2Proof/Config.lean ====
section
/-! DEFINITION. The values the spec leaves open, as constants with no body. Those applied to a counter give a fresh value at each use of State.freeCtr; those applied to operands give the same value for the same operands. Log entries 3 to 8 name each. -/

namespace Sys2Proof

/-- A free value of one word, at each use of the counter (log entry 3). -/
opaque Config.freeWord : Nat → Word

/-- A free byte at a place of an array, at each use of the counter: output bits that R93, R101 and R113 call unpredictable (log entry 3). -/
opaque Config.freeByte : Nat → Nat → Byte

/-- R95 gives EXP2 an accuracy, not a value; the same input gives the same bits (log entry 4). -/
opaque Config.exp2 : F32 → F32

/-- R95, LOG2 (log entry 4). -/
opaque Config.log2 : F32 → F32

/-- R95, RSQRT (log entry 4). -/
opaque Config.rsqrt : F32 → F32

/-- R95, TANH (log entry 4). -/
opaque Config.tanh : F32 → F32

/-- R95, LOGISTIC (log entry 4). -/
opaque Config.logistic : F32 → F32

/-- R95, ERF (log entry 4). -/
opaque Config.erf : F32 → F32

/-- Length and bytes of the certificate of an index, of the making with a number: the spec gives its contents and not its bytes (R418; log entry 5). -/
opaque Config.certLen : Nat → Nat → Nat
opaque Config.certByte : Nat → Nat → Nat → Byte

/-- Byte `i` of the digest of a record the module runs with: of the trust ROM (0), the steward image (1), the trust patch (2), the configuration record (3) or the repair record (4), of the body last activated, empty for the one it left Tentikor with, and of the entries appended since (R428; log entry 6). -/
opaque Config.recordDigest : Nat → List Byte → List Word → Nat → Byte

/-- Field `i` of a CONFIG or OPCONFIG body, whose layout the spec does not give (R471; log entry 7). -/
opaque Config.recordField : List Byte → Nat → Nat

/-- The factory entries of a REPAIR body, whose layout the spec does not give (R471; log entry 7). -/
opaque Config.repairEntries : List Byte → List Word

/-- Soft repairs that bank `b` of a stack has left after the training that drew a number (R148; log entry 3). -/
opaque Config.bankRepairs : Nat → Nat → Nat

/-- Bits of the instruction register and of the boundary register of the test port, and what an instruction code other than all ones selects: 0 BYPASS, 1 SAMPLE and PRELOAD, 2 EXTEST, any other a factory instruction (R538; log entry 8). -/
opaque Config.tapIrBits : Nat
opaque Config.tapCells : Nat
opaque Config.tapCode : List Bool → Nat

end Sys2Proof
end

