-- ==== Sys2Proof/Machine/Mem.lean ====
section
/-! DEFINITION. Bytes, bit fields, byte order, CRC-32C, SHA-384 and the operations on a memory held as a list of cells in one canonical form. A byte that is not listed reads zero (log entry 10). -/

namespace Sys2Proof.Machine

/-! ## Fields and byte order (R5) -/

/-- Bits [lo + n - 1 : lo] of a number. -/
def fieldN (x lo n : Nat) : Nat := (x >>> lo) % 2 ^ n

/-- A field placed at a bit position, cut to its width. -/
def putN (x lo n : Nat) : Nat := (x % 2 ^ n) <<< lo

/-- Little-endian bytes of a number. -/
def leBytes : Nat → Nat → List Byte
  | 0, _ => []
  | n + 1, x => BitVec.ofNat 8 x :: leBytes n (x / 256)

/-- The number that little-endian bytes hold. -/
def leNat : List Byte → Nat
  | [] => 0
  | b :: t => b.toNat + 256 * leNat t

/-- Bytes [off, off + n) of a byte string as a number. -/
def leAt (bs : List Byte) (off n : Nat) : Nat := leNat ((bs.drop off).take n)

/-- A byte string cut or padded with zeros to a length. -/
def padTo (n : Nat) (bs : List Byte) : List Byte := (bs.take n) ++ List.replicate (n - bs.length) 0

/-- Saturating addition below a bound. -/
def satUp (x k bound : Nat) : Nat := min (x + k) bound

/-- Sign extension of a field to 64 bits. -/
def sext {w : Nat} (x : BitVec w) : Word := x.signExtend 64

/-! ## CRC-32C (Castagnoli, reflected, all ones in and out) -/

def crcBit : Nat → BitVec 32 → BitVec 32
  | 0, c => c
  | n + 1, c => crcBit n (if c.getLsbD 0 then (c >>> 1) ^^^ 0x82F63B78#32 else c >>> 1)

def crcStep (c : BitVec 32) (b : Byte) : BitVec 32 := crcBit 8 (c ^^^ b.setWidth 32)

/-- CRC-32C of a byte string. -/
def crc32c (bs : List Byte) : BitVec 32 := ~~~ (bs.foldl crcStep 0xFFFFFFFF#32)

/-! ## SHA-384 (FIPS 180-4); its constants are the fractional bits of roots of primes -/

def hasDivisor (n : Nat) : Nat → Bool
  | 0 => false
  | d + 1 => (d + 1 ≥ 2 && n % (d + 1) == 0) || hasDivisor n d

/-- The primes below a bound, in order. -/
def primesBelow (n : Nat) : List Nat := (List.range n).filter (fun p => p ≥ 2 && !hasDivisor p (p / 2))

/-- The largest r below 2^b with f r at most n, by bisection. -/
def rootGo (f : Nat → Nat) (n : Nat) : Nat → Nat → Nat
  | 0, r => r
  | b + 1, r => rootGo f n b (if f (r + 2 ^ b) ≤ n then r + 2 ^ b else r)

def cubeFrac (p : Nat) : Word := BitVec.ofNat 64 (rootGo (fun r => r * r * r) (p * 2 ^ 192) 68 0)
def sqrtFrac (p : Nat) : Word := BitVec.ofNat 64 (rootGo (fun r => r * r) (p * 2 ^ 128) 69 0)

def sha512K : List Word := (primesBelow 410).map cubeFrac
def sha384Init : List Word := ((primesBelow 54).drop 8).map sqrtFrac

def shaBig0 (x : Word) : Word := x.rotateRight 28 ^^^ x.rotateRight 34 ^^^ x.rotateRight 39
def shaBig1 (x : Word) : Word := x.rotateRight 14 ^^^ x.rotateRight 18 ^^^ x.rotateRight 41
def shaSm0 (x : Word) : Word := x.rotateRight 1 ^^^ x.rotateRight 8 ^^^ (x >>> 7)
def shaSm1 (x : Word) : Word := x.rotateRight 19 ^^^ x.rotateRight 61 ^^^ (x >>> 6)

/-- The message schedule, newest word first. -/
def shaSchedule : Nat → List Word → List Word
  | 0, w => w
  | n + 1, w => shaSchedule n ((shaSm1 (w.getD 1 0) + w.getD 6 0 + shaSm0 (w.getD 14 0) + w.getD 15 0) :: w)

structure ShaRegs where
  a : Word
  b : Word
  c : Word
  d : Word
  e : Word
  f : Word
  g : Word
  h : Word
  deriving DecidableEq, Repr

def shaRound (r : ShaRegs) (kw : Word × Word) : ShaRegs :=
  let t1 := r.h + shaBig1 r.e + ((r.e &&& r.f) ^^^ (~~~ r.e &&& r.g)) + kw.1 + kw.2
  let t2 := shaBig0 r.a + ((r.a &&& r.b) ^^^ (r.a &&& r.c) ^^^ (r.b &&& r.c))
  ⟨t1 + t2, r.a, r.b, r.c, r.d + t1, r.e, r.f, r.g⟩

def shaRegsOf (l : List Word) : ShaRegs :=
  ⟨l.getD 0 0, l.getD 1 0, l.getD 2 0, l.getD 3 0, l.getD 4 0, l.getD 5 0, l.getD 6 0, l.getD 7 0⟩

def shaAdd (x y : ShaRegs) : ShaRegs :=
  ⟨x.a + y.a, x.b + y.b, x.c + y.c, x.d + y.d, x.e + y.e, x.f + y.f, x.g + y.g, x.h + y.h⟩

/-- A big-endian word. -/
def beWord (bs : List Byte) : Word := BitVec.ofNat 64 (leNat bs.reverse)

/-- One block of 128 bytes. -/
def shaBlock (r : ShaRegs) (blk : List Byte) : ShaRegs :=
  let w0 := (List.range 16).map (fun i => beWord ((blk.drop (8 * i)).take 8))
  let w := (shaSchedule 64 w0.reverse).reverse
  shaAdd r ((sha512K.zip w).foldl shaRound r)

def shaBlocks : Nat → ShaRegs → List Byte → ShaRegs
  | 0, r, _ => r
  | n + 1, r, bs => shaBlocks n (shaBlock r (bs.take 128)) (bs.drop 128)

/-- The message with its padding. -/
def shaPad (bs : List Byte) : List Byte :=
  let z := (128 - (bs.length + 17) % 128) % 128
  bs ++ [0x80#8] ++ List.replicate z 0#8 ++ (leBytes 16 (8 * bs.length)).reverse

/-- SHA-384: 48 bytes. -/
def sha384 (bs : List Byte) : List Byte :=
  let p := shaPad bs
  let r := shaBlocks (p.length / 128) (shaRegsOf sha384Init) p
  ([r.a, r.b, r.c, r.d, r.e, r.f].map (fun w => (leBytes 8 w.toNat).reverse)).flatten

/-- The first 8 bytes of a key's digest, as TR_OPKEY, IDENTIFY and a credential name it (R419, R439). -/
def keyDigest (k : List Byte) : Word := BitVec.ofNat 64 (leNat ((sha384 k).take 8))

/-! ## Memory -/

/-- The byte at an address; an unlisted byte reads zero. -/
def memByte : List Host.Cell → Nat → Byte
  | [], _ => 0
  | (k, b) :: t, a => if k = a then b else if a < k then 0 else memByte t a

/-- Write one byte, keeping the canonical form. -/
def memPut : List Host.Cell → Nat → Byte → List Host.Cell
  | [], a, v => if v = 0 then [] else [(a, v)]
  | (k, b) :: t, a, v =>
    if a < k then (if v = 0 then (k, b) :: t else (a, v) :: (k, b) :: t)
    else if a = k then (if v = 0 then t else (a, v) :: t)
    else (k, b) :: memPut t a v

/-- Read `n` bytes from an address upward. -/
def memRead (m : List Host.Cell) (a n : Nat) : List Byte := (List.range n).map (fun i => memByte m (a + i))

/-- Write bytes from an address upward. -/
def memWrite : List Host.Cell → Nat → List Byte → List Host.Cell
  | m, _, [] => m
  | m, a, b :: t => memWrite (memPut m a b) (a + 1) t

/-- Zero every byte of [lo, hi). -/
def memZero (m : List Host.Cell) (lo hi : Nat) : List Host.Cell := m.filter (fun c => !(lo ≤ c.1 && c.1 < hi))

/-- Replace the bytes of [dst, dst + n) by those of [src, src + n), read before any is written. -/
def memCopy (m : List Host.Cell) (src dst n : Nat) : List Host.Cell :=
  let moved := (m.filter (fun c => src ≤ c.1 && c.1 < src + n)).map (fun c => (c.1 - src + dst, c.2))
  moved.foldl (fun m c => memPut m c.1 c.2) (memZero m dst (dst + n))

/-- The canonical form: addresses strictly rising, and no entry equal to what an unlisted address reads as. -/
abbrev Memory.wf (m : List Host.Cell) : Prop := (m.map Prod.fst).Pairwise (· < ·) ∧ ∀ c ∈ m, c.2 ≠ 0

end Sys2Proof.Machine
end

