-- ==== Sys2Proof/Machine/Tab.lean ====
section
/-! DEFINITION. A finite table keyed by number, held in one canonical form: keys strictly rising. It holds the machine's register files and record arrays sparsely; a key that is not listed reads as the default its reader gives. -/

namespace Sys2Proof.Machine

/-- A sparse table: (index, value) pairs with strictly rising indexes. -/
abbrev Tab (α : Type) := List (Nat × α)

/-- The entry at an index, if listed. -/
def Tab.find {α : Type} : Tab α → Nat → Option α
  | [], _ => none
  | (k, v) :: t, i => if k = i then some v else Tab.find t i

/-- The entry at an index, or the default. -/
def Tab.getD {α : Type} (t : Tab α) (i : Nat) (d : α) : α := (Tab.find t i).getD d

/-- Write an entry, keeping the indexes strictly rising. -/
def Tab.set {α : Type} : Tab α → Nat → α → Tab α
  | [], i, v => [(i, v)]
  | (k, w) :: t, i, v =>
    if i < k then (i, v) :: (k, w) :: t
    else if i = k then (i, v) :: t
    else (k, w) :: Tab.set t i v

/-- Drop an entry. -/
def Tab.erase {α : Type} (t : Tab α) (i : Nat) : Tab α := t.filter (fun e => e.1 != i)

/-- Change one entry, the default standing for an unlisted one. -/
def Tab.upd {α : Type} (t : Tab α) (i : Nat) (d : α) (f : α → α) : Tab α := Tab.set t i (f (Tab.getD t i d))

/-- Change every listed entry. -/
def Tab.mapVals {α : Type} (t : Tab α) (f : Nat → α → α) : Tab α := t.map (fun e => (e.1, f e.1 e.2))

/-- The listed values. -/
def Tab.vals {α : Type} (t : Tab α) : List α := t.map Prod.snd

/-- The indexes are strictly rising: the canonical form. -/
abbrev Tab.wf {α : Type} (t : Tab α) : Prop := (t.map Prod.fst).Pairwise (· < ·)

/-- The least index below `n` that the table does not list: one of the first `length + 1` is free. -/
def Tab.freeIndex {α : Type} (t : Tab α) (n : Nat) : Option Nat :=
  (List.range (min n (t.length + 1))).find? (fun i => (Tab.find t i).isNone)

/-- A free index of the unit's own choosing: the wish, taken modulo `n`, where it is free, else the least free one. -/
def Tab.pickFree {α : Type} (t : Tab α) (n wish : Nat) : Option Nat :=
  if n = 0 then none
  else if (Tab.find t (wish % n)).isNone then some (wish % n) else Tab.freeIndex t n

end Sys2Proof.Machine
end

