-- ==== Sys2Proof/Machine/State.lean ====
section
/-! DEFINITION. The state of the FRB40: every register, table, queue, engine and pin that the spec gives the module, as plain data, and the queue of commands that wait. A default value in a structure is the value of the Reset column (R6), or the value the assumption log names. -/

namespace Sys2Proof.Machine

/-- Names of the ways a step stops with a fault. The model raises none of its own accord: every command the spec gives an effect has it, and an event whose condition does not hold has not occurred and leaves the state as it is (log entry 2). -/
inductive Fault where
  /-- Raised by no meaning; it stands so that the type is inhabited by a name. Safe: no behaviour of the part is replaced by it. -/
  | none
  deriving DecidableEq, Repr

/-- Names of the ways a command is refused. -/
inductive Refusal where
  /-- A command whose meaning the model does not yet give, raised only by an arm of exec. Safe: the run stops. -/
  | notModelled (mnemonic : String)
  /-- A TAP instruction of SCOPE bit 1, whose effect R538 says the manual makes no statement about. Raised by TCK. Safe: the run stops. -/
  | factoryInstruction
  deriving DecidableEq, Repr

/-! ## Strands and cores -/

/-- R62. -/
inductive StrandSt where
  | free | ready | wait | trapped | frozen | stopped | halted
  deriving DecidableEq, Repr

/-- The condition of R64 that holds a strand in WAIT. -/
inductive WaitFor where
  | nothing
  /-- Registers one of which has a global load or atomic outstanding. -/
  | register (regs : List (BitVec 6))
  /-- 16 of its own, or 512 of its core, global loads and atomics outstanding. -/
  | loadLimit
  /-- The target engine's queue of 8 is full (R117, R120). -/
  | engineQueue (eng : Nat)
  /-- No request credit, or the flow not open (R64, R171, R187, R203, R314): the flow, if a context could be taken, and the waiting request's address. -/
  | credit (flow : Option Nat) (addr : Word)
  /-- No slot of the cluster's gather unit is free (R125). -/
  | gatherSlot
  /-- WAITC on a counter with a threshold, writing the predicate (R98). -/
  | waitc (counter : Nat) (threshold : Word) (pd : BitVec 3)
  /-- BAR with count n at a barrier (R99). -/
  | barrier (bar : Nat) (n : Nat)
  | twait
  | fenceAcq
  | fenceRel
  | fenceFull
  /-- A TMMA or vector instruction on a failed core (R120). -/
  | failedCore
  /-- A TMMA or vector instruction while the module is held at the floor (R453). -/
  | floor
  deriving DecidableEq, Repr

/-- The breakpoint that halted a strand (R512): a PC comparator's, by its number, or the BKPT instruction. -/
inductive BkptRef where
  | pc (number : Nat)
  | instr
  deriving DecidableEq, Repr

/-- One strand: its registers, system registers and what it has outstanding (R61, R69 to R73). -/
structure Strand where
  st : StrandSt := .free
  pc : Word := 0
  regs : Tab Word := []
  /-- Registers whose word of the register file holds an uncorrectable error (R152, R154). -/
  badRegs : List Nat := []
  preds : BitVec 8 := 1
  tds : Tab (BitVec 256) := []
  flags : BitVec 4 := 0
  keys : Tab Word := []
  wto : BitVec 32 := 0
  tvec : Word := 0
  epc : Word := 0
  inHandler : Bool := false
  async : Bool := false
  code : BitVec 8 := 0
  tval : Word := 0
  wait : WaitFor := .nothing
  /-- Fabric time at which the WAITC timeout expires while the slice is resident (R98). -/
  deadline : Option Nat := none
  /-- WAITC timeout that remained at a halt or a switch-out, in units of fabric time (R107, R511). -/
  remain : Option Nat := none
  tmmas : Nat := 0
  loads : Nat := 0
  /-- Posted stores and reduction-stores not yet acknowledged (R101). -/
  posted : Nat := 0
  /-- The program the strand runs, counted at every start (R104): the model's own field. -/
  gen : Nat := 0
  /-- It has executed YIELD and no search has passed it over since (R63); a search that went past it marks it in `Core.passed`. -/
  yielded : Bool := false
  /-- The strand was in WAIT when it was halted (R511). -/
  haltWait : Bool := false
  /-- The PC match or BKPT that halted it (R512). -/
  haltBk : Option BkptRef := none
  /-- The breakpoints that its next instruction is executed without matching again (R512). -/
  skipBkpt : List BkptRef := []
  /-- The halt has drained and its dump is written (R513). -/
  drained : Bool := true
  /-- The halt has SCOPE 0x01: the core's engine queues and vector unit must empty too (R513). -/
  haltScope : Bool := false
  deriving DecidableEq, Repr

/-- A TMMA captured at issue (R92, R117). `execs` counts its executions on the present engine, `prior` those on engines it was moved from (R115). -/
structure Tmma where
  p : Pos
  gen : Nat
  pc : Word
  td : BitVec 256
  sa : Word
  sb : Word
  init : Bool
  final : Bool
  execs : Nat := 1
  prior : Nat := 0
  /-- An operand was written by a strand while the TMMA was queued or executing, or C is shared between engines: the output bits are unpredictable (R93, R101, R113). -/
  spoiled : Bool := false
  deriving DecidableEq, Repr

/-- One engine (R117): its queue, the TMMA in execution and its clock. -/
structure Engine where
  queue : List Tmma := []
  running : Option Tmma := none
  /-- The output rows of the TMMA in execution, from the initial value and operands read at its start (R114), and the OR of their flags. -/
  rows : List (List Byte) := []
  flags : BitVec 4 := 0
  deriving DecidableEq, Repr

/-- One core barrier (R99): the count the first arrival fixed, and the strands that have arrived. -/
structure Barrier where
  n : Nat := 0
  arrived : List Nat := []
  deriving DecidableEq, Repr

/-- A breakpoint comparator of a core (R510). -/
structure Bkpt where
  number : Nat
  slice : BitVec 16
  kind : Nat
  mask32 : BitVec 32
  access : BitVec 8
  scope : Nat
  value : Word
  mask : Word
  deriving DecidableEq, Repr

/-- A vector instruction that a residue check has failed and that the unit executes again (R119, R120): its strand, the strand's program and program counter, and its failed executions. -/
structure VecPin where
  strand : Fin 32
  gen : Nat
  pc : Word
  fails : Nat
  deriving DecidableEq, Repr

/-- One core, less its strands (R61, R66, R121). -/
structure Core where
  /-- Where the search for an instruction starts (R63). -/
  rr : Nat := 0
  /-- Strands whose YIELD a search has honoured by passing them over, while their mark stands (R63). -/
  passed : List Nat := []
  /-- Cycles its clock has run (R70, R266), in parts of 1/125 of a cycle, and the place in its die's count (`Compute.cyc`) up to which they are counted. -/
  cycle : Nat := 0
  cycAt : Nat := 0
  gated : Bool := false
  barriers : Tab Barrier := []
  engines : Tab Engine := []
  /-- Completed TMMAs, with their engines, that no TWAIT of their strand has followed (R93). -/
  doneC : List (Nat × Tmma) := []
  vecPin : Option VecPin := none
  /-- Lines of the instruction cache, by HBM line number, newest first (R68); the row names the instruction, so their bytes are not held. -/
  icache : List Nat := []
  /-- The core's set of R504, saved with the slice's image. -/
  ctrs : Tab Word := []
  bkpts : List Bkpt := []
  engRecomp : Nat := 0
  vecRecomp : Nat := 0
  failed : Bool := false
  engGated : BitVec 4 := 15
  fenced : BitVec 4 := 0
  deriving DecidableEq, Repr

/-- A gather in a slot of a cluster's gather unit (R125 to R131). -/
structure GatherSlot where
  p : Pos
  gen : Nat
  pc : Word
  slice : BitVec 16
  counter : Nat
  desc : BitVec 512
  /-- Page-table entries read so far, by page. -/
  entries : Tab Word := []
  /-- Lines of each page that have been written, by page. -/
  linesDone : Tab (List Nat) := []
  /-- Pages counted. -/
  counted : Nat := 0
  stopped : Bool := false
  deriving DecidableEq, Repr

/-- A cluster, less its cores: gather slots and clock (R125, R446). -/
structure Cluster where
  slots : Tab GatherSlot := []
  /-- The slot at which the gather unit's round-robin goes on (R125). -/
  gatherTurn : Nat := 0
  pllDown : Bool := false
  idleSince : Nat := 0
  /-- The cluster's set of R504, saved with the slice's image. -/
  ctrs : Tab Word := []
  deriving DecidableEq, Repr

/-! ## Memory system -/

/-- A memory error record (R155). -/
structure MemErr where
  ce : Nat := 0
  ue : Nat := 0
  firstValid : Bool := false
  firstUe : Bool := false
  firstLoc : Nat := 0
  /-- Fabric time of the capture (R156). -/
  firstAt : Nat := 0
  deriving DecidableEq, Repr

/-- R144. -/
inductive GranSt where
  | free | owned | scrubbing | retired | absent
  deriving DecidableEq, Repr

structure Granule where
  st : GranSt := .scrubbing
  owner : BitVec 16 := 0
  /-- Zeroing has begun (R146). -/
  zeroing : Bool := false
  deriving DecidableEq, Repr

/-- One HBM stack (R147, R157). -/
structure Stack where
  temp : BitVec 8 := 0
  therm : Nat := 0
  /-- The draw of the soft repairs its banks had left when it was trained, and the repairs made in each bank since; untrained, none are known. -/
  soft : Option Nat := none
  softUsed : Tab Nat := []
  repairs : Nat := 0
  link : Nat := 0
  deriving DecidableEq, Repr

/-- Errors of one row (R148, R150): fabric times of its corrected errors, and occasions with an uncorrectable error. -/
structure RowErr where
  row : RowId
  ceTimes : List Nat := []
  occasions : Nat := 0
  repairDue : Bool := false
  /-- The repair that is due was decided for an uncorrectable error (R148, R149). -/
  dueUe : Bool := false
  granule : Nat := 0
  deriving DecidableEq, Repr

/-- HBM control of one die (R157, R158). -/
structure HbmDie where
  periodH : Nat := 0x18
  periodInForce : Nat := 0x18
  inUse : BitVec 4 := 0
  passes : Nat := 0
  patrolOn : Bool := false
  deriving DecidableEq, Repr

/-! ## Remote operations -/

/-- Who issued a request (R171). -/
inductive Master where
  | strand (p : Pos) (gen : Nat) (pc : Word)
  | gather (die cluster slot : Nat) (rd : GatherRead)
  deriving DecidableEq, Repr

/-- What a returned value is written to. -/
inductive RespDest where
  | reg (sd : BitVec 6) (bytes : Nat)
  | line (addr : Nat)
  | posted
  | gather
  deriving DecidableEq, Repr

/-- A request awaiting a response at its source endpoint (R171, R180). -/
structure Outst where
  id : Nat
  dst : BitVec 20
  req : Req
  master : Master
  dest : RespDest
  isLoad : Bool
  sent : Nat
  resends : Nat := 0
  deriving DecidableEq, Repr

/-- A completed request whose completion is not yet delivered to its master (R104). -/
structure Completion where
  id : Nat
  master : Master
  dest : RespDest
  isLoad : Bool
  addr : Word
  status : BitVec 4
  data : List Byte
  deriving DecidableEq, Repr

/-- A replay-table entry (R179). -/
structure Replay where
  src : BitVec 20
  flow : BitVec 20
  seq : BitVec 24
  status : BitVec 4
  flags : BitVec 4
  isAtomic : Bool
  data : List Byte
  made : Nat
  slice : BitVec 16
  deriving DecidableEq, Repr

/-- A request flow at its home (R172, R324). -/
structure HomeFlow where
  src : BitVec 20
  flow : BitVec 20
  slice : BitVec 16
  recv : BitVec 20
  n : BitVec 24
  window : List Req := []
  admitted : List Req := []
  doneAhead : List (BitVec 24) := []
  /-- Closed with requests already admitted, which are performed and answered to no one (R182, R183). -/
  closed : Bool := false
  deriving DecidableEq, Repr

/-- Who a monitor entry wakes (R190). -/
inductive MonTarget where
  | ring (r : Nat)
  | quire (ctx : Nat)
  deriving DecidableEq, Repr

/-- One compute endpoint (R162, R186, R187, R190). -/
structure Endpoint where
  outst : List Outst := []
  completed : List Completion := []
  homeFlows : List HomeFlow := []
  combined : List Req := []
  /-- Admitted requests not yet performed, in the order of their admission across flows (R172, R185): line, source, flow and sequence. -/
  order : List (Nat × BitVec 20 × BitVec 20 × BitVec 24) := []
  replay : List Replay := []
  replayHigh : Nat := 0
  resends : Nat := 0
  timeouts : Nat := 0
  indeterminate : Nat := 0
  violSrc : Nat := 0
  violHome : Nat := 0
  counters : Tab Word := []
  counterOwner : Tab (BitVec 16) := []
  monitors : List (Nat × MonTarget) := []
  deriving DecidableEq, Repr

/-- A deckle entry (R174). -/
structure Deckle where
  secret : BitVec 46 := 0
  owner : BitVec 16 := 0
  log2size : Nat := 0
  base : BitVec 26 := 0
  endpoint : Nat := 0
  sameSlice : Bool := false
  perm : BitVec 4 := 0
  flags : BitVec 4 := 0
  valid : Bool := false
  vcount : Nat := 0
  vfirst : BitVec 20 := 0
  changed : Nat := 0
  /-- An uncorrectable error struck the entry (R154). -/
  spoiled : Bool := false
  deriving DecidableEq, Repr

/-! ## Flows and the couch engine -/

inductive FlowSt where
  | opening | opened | busy
  deriving DecidableEq, Repr

/-- A BULK_DATA packet outstanding on a bulk flow (R206). -/
structure BulkOut where
  seq : BitVec 24
  tag : BitVec 16
  offset : Nat
  len : Nat
  deriving DecidableEq, Repr

/-- A send context (R202, R203, R206, R314). -/
structure Flow where
  bulk : Bool
  slice : BitVec 16
  src : BitVec 20
  dst : BitVec 20
  st : FlowSt
  seqNext : BitVec 24
  recv : BitVec 20 := 0
  since : Nat := 0
  lastUse : Nat := 0
  cw : Nat := 1024
  cwSince : Nat := 1024
  cwRun : Nat := 0
  cum : BitVec 24 := 0
  window : Nat := 64
  ackedInWindow : Nat := 0
  sentSinceHalve : Nat := 256
  out : List BulkOut := []
  rto : Nat := 80000
  timerFrom : Nat := 0
  progress : Nat := 0
  deriving DecidableEq, Repr

/-- A receive context of a bulk flow (R206). -/
structure RecvFlow where
  src : BitVec 20
  flow : BitVec 20
  slice : BitVec 16
  recv : BitVec 20
  cum : BitVec 24
  arrived : List (BitVec 24) := []
  uncovered : Nat := 0
  uncoveredSince : Nat := 0
  deriving DecidableEq, Repr

/-- R195. -/
inductive RingSt where
  | undefined | active | frozen | error | stopped
  deriving DecidableEq, Repr

/-- A descriptor in progress (R193): its count index, its 64 bytes and, once it has ended, its status. -/
structure DescProg where
  index : Nat
  desc : BitVec 512
  read : Bool := true
  passed : Bool := true
  counted : Nat := 0
  code : Option (BitVec 16) := none
  deriving DecidableEq, Repr

/-- A couch ring (R188 to R195). -/
structure Ring where
  st : RingSt := .undefined
  owner : BitVec 16 := 0
  die : Nat := 0
  base : Nat := 0
  log2n : Nat := 0
  piLine : Nat := 0
  ciLine : Nat := 0
  weight : Nat := 0
  cause : BitVec 16 := 0
  ci : Nat := 0
  lastPi : Nat := 0
  next : Nat := 0
  pendingBit : Bool := false
  granted : Nat := 0
  prog : List DescProg := []
  deriving DecidableEq, Repr

/-- A copy at the module of its source, or at the module of its destination (R207): sender and receiver halves are kept apart by `atDest`. -/
structure Copy where
  tag : BitVec 16
  atDest : Bool
  peer : BitVec 20
  /-- Issuing ring and descriptor index, and the issuer's node when it was delegated. -/
  issuer : BitVec 20
  ring : Nat
  slot : Nat
  slice : BitVec 16
  op : BitVec 4
  src : Word
  dst : Word
  skey : Word
  dkey : Word
  dctr : BitVec 14
  dcen : Bool
  cunit : Nat
  length : Nat
  mkh : Nat
  flow : Option (BitVec 20) := none
  sent : Nat := 0
  /-- Offsets of the packets written, and bytes of the units counted. -/
  got : List (Nat × Nat) := []
  units : Nat := 0
  /-- MOULD at the destination: the container's bytes received and not yet decrypted, by offset (R209). -/
  stash : List (Nat × List Byte) := []
  /-- MOULD at the destination: the container's header once it has passed (R431). -/
  header : List Byte := []
  ended : Option (BitVec 16) := none
  /-- Fabric time of the end; an ended half is remembered while its C4 packets may still be resent. -/
  endedAt : Nat := 0
  deriving DecidableEq, Repr

/-- A couch or collective C4 packet that is resent until its reply arrives (R205, R232). -/
structure C4Out where
  id : Nat
  dst : BitVec 20
  opcode : BitVec 8
  slice : BitVec 16 := 0xFFFF
  key : Nat := 0
  hdr : Option CollHdr := none
  /-- A multicast, with its box (R220, R232). -/
  box : Option Box := none
  data : List Byte := []
  sent : Nat := 0
  resends : Nat := 0
  deriving DecidableEq, Repr

/-- A mould key slot (R432). -/
structure MouldKey where
  slice : BitVec 16
  keyId : BitVec 32
  /-- The 32 bytes that the unwrap gives, which the model leaves free. -/
  key : List Byte := List.replicate 32 0
  deriving DecidableEq, Repr

/-! ## Groups and collectives -/

/-- R223. -/
inductive GroupSt where
  | undefined | joining | ready | frozen | stopped | error
  deriving DecidableEq, Repr

/-- A member module of a group, as the tree of R218 places it: its node (FD endpoint), its ranks, lead rank, level at which it is a child (4 for the root) and parent. -/
structure Member where
  node : BitVec 20
  lead : Nat
  ranks : List Nat
  level : Nat
  parent : BitVec 20
  deriving DecidableEq, Repr

/-- A chunk a module retains, or collects from the children (R234, R235). -/
structure ChunkAcc where
  chunk : Nat
  /-- Children already added, in ascending lead rank. -/
  added : List (BitVec 20) := []
  /-- Bytes held from each child not yet added: (child, bytes, flags). -/
  held : List (BitVec 20 × List Byte × BitVec 4) := []
  sum : List Byte := []
  flags : BitVec 4 := 0
  /-- The local contribution has been read and begun. -/
  own : Bool := false
  sentUp : Bool := false
  deriving DecidableEq, Repr

/-- A chunk part being collected from one sender (R233). -/
structure PartBuf where
  src : BitVec 20
  chunk : Nat
  down : Bool
  bytes : List Byte
  parts : Nat
  deriving DecidableEq, Repr

/-- The operation a context has in progress (R225 to R242). -/
structure CollOp where
  index : Nat
  opseq : BitVec 32
  entry : BitVec 512
  paramcrc : BitVec 32
  started : Nat
  accs : List ChunkAcc := []
  parts : List PartBuf := []
  /-- Result chunks verified, written and counted at this module. -/
  counted : List Nat := []
  flags : BitVec 4 := 0
  /-- Result chunks retained at the root. -/
  retained : List (Nat × List Byte) := []
  /-- Cumulative acknowledgement of each child subtree. -/
  acks : List (BitVec 20 × Nat) := []
  rereqs : List (BitVec 20 × Nat × Nat) := []
  arrived : List (BitVec 20) := []
  lastNode : BitVec 20 := 0
  verdictBad : Bool := false
  /-- ARRIVE has gone up, or the root has decided. -/
  ownArrived : Bool := false
  t : Option Nat := none
  digests : List (Nat × List Byte) := []
  decided : Bool := false
  /-- The module's own entry has begun: its early packets are behind it. -/
  begun : Bool := false
  /-- This module refused the operation or met a fault in it: it sends nothing more. -/
  refused : Bool := false
  /-- Chunks whose local contribution is in, and chunks sent on (up, down, or to their receivers), in order. -/
  formed : Nat := 0
  sentN : Nat := 0
  sentAt : Nat := 0
  /-- The cumulative acknowledgement last sent to the parent. -/
  ackSent : Nat := 0
  /-- When each subtree's acknowledgement last advanced. -/
  ackAt : List (BitVec 20 × Nat) := []
  /-- Chunks accepted: sender, chunk and time of the first arrival. -/
  heard : List (BitVec 20 × Nat × Nat) := []
  /-- A drill holds this module's ARRIVE until this time (R500). -/
  barHeld : Option Nat := none
  /-- This module is the stand-in and has asked for the outcome (R245). -/
  querying : Bool := false
  /-- CROWD set on a C2 packet received and not yet returned, by sender (R315). -/
  crowdFrom : List (BitVec 20) := []
  /-- Window of chunks towards each neighbour, and the run acknowledged without CROWD (R315). -/
  cwin : List (BitVec 20 × Nat × Nat) := []
  replies : List (BitVec 20 × Nat × BitVec 16 × BitVec 4 × Nat) := []
  /-- Blocks of an ALLTOALL received before every member module is known to have passed its checks (R230). -/
  blocks : List (Nat × List Byte) := []
  /-- RELEASE has been received (R240). -/
  released : Bool := false
  deriving DecidableEq, Repr

/-- The outcome of an operation that a context retired, for a query or a resent request (R232, R244, R245). -/
structure LastOut where
  opseq : BitVec 32
  paramcrc : BitVec 32
  code : BitVec 16
  cause : BitVec 16
  flags : BitVec 4
  drill : Bool
  t : Nat
  /-- A BARRIER whose RELEASE had not come when DONE released it (R240). -/
  unreleased : Bool := false
  deriving DecidableEq, Repr

/-- A group context (R214 to R225). -/
structure Group where
  st : GroupSt := .undefined
  gid : BitVec 16 := 0
  epoch : BitVec 8 := 0
  cause : BitVec 16 := 0
  lastBar : Nat := 0
  desc : BitVec 512 := 0
  members : List Member := []
  /-- Rank of each compute endpoint: (rank, node). -/
  map : List (BitVec 20) := []
  joined : List (BitVec 20) := []
  committed : Nat := 0
  opseq : Nat := 0
  ci : Nat := 0
  lastPi : Nat := 0
  next : Nat := 0
  pendingBit : Bool := false
  op : Option CollOp := none
  /-- A re-form waiting for the old operation to retire (R247). -/
  reform : Option (BitVec 512 × List Member × List (BitVec 20)) := none
  /-- Fabric times of soft expulsions of member modules (R499). -/
  expulsions : List Nat := []
  /-- Packets of operations this module has not started yet. -/
  early : List Instr := []
  /-- Outcomes of the epoch's retired operations, the latest first. -/
  outcomes : List LastOut := []
  drillAbort : Bool := false
  /-- GROUP_ABORT commands that wait for the operation's outcome: channel and tag. -/
  aborters : List (Nat × BitVec 16) := []
  holdArrive : Option Nat := none
  /-- Collective-set counters of R504 for this context. -/
  counters : Tab Word := []
  deriving DecidableEq, Repr

/-- The collective engine (R250). -/
structure CollEngine where
  rereq : Nat := 0
  aborts : Nat := 0
  ruRecomp : Nat := 0
  fencedLanes : List Nat := []
  laneFails : Tab Nat := []
  late : Nat := 0
  discards : Nat := 0
  deriving DecidableEq, Repr

/-! ## Fabric time -/

/-- R257. -/
inductive TbSt where
  | free | acquire | synced | holdover | grandmaster
  deriving DecidableEq, Repr

/-- What a neighbour last announced (R254, R255). -/
structure Heard where
  gm : BitVec 20
  prio : BitVec 8
  hops : Nat
  state : BitVec 3
  at_ : Nat
  deriving DecidableEq, Repr

/-- The time base (R251 to R261). `time` counts units of 0.25 ns; `frac` and `inc` are in units of 2^-32 of one such unit per always-on cycle. -/
structure TimeBase where
  time : Nat := 0
  /-- The count at the start of the present always-on cycle, from which `time` is interpolated. -/
  base : Nat := 0
  frac : Nat := 0
  inc : Nat := 549755813888
  st : TbSt := .free
  gmNode : BitVec 20 := 0
  gmPrio : BitVec 8 := 0
  hops : Nat := 0
  parent : Nat := 0
  offset : BitVec 16 := 0
  ppsLock : Bool := false
  prio : BitVec 8 := 0
  prioInForce : BitVec 8 := 0
  ppsOutEn : Bool := true
  ppsInEn : Bool := false
  heard : Tab Heard := []
  /-- t1 of the SYNC_REQ outstanding towards the parent. -/
  syncT1 : Option Nat := none
  goodRun : Nat := 0
  /-- The module has held over: it never steps again (R252, R258). -/
  slewOnly : Bool := false
  lastAnnounce : Nat := 0
  lastSync : Nat := 0
  lostAt : Nat := 0
  ppsOut : Bool := false
  ppsRise : Nat := 0
  lastPpsIn : Option Nat := none
  tod : Option Nat := none
  deriving DecidableEq, Repr

/-! ## Routes and the switch -/

/-- A route bank (R286, R287). -/
structure Bank where
  nw : Nat
  nx : Nat
  ny : Nat
  nz : Nat
  expBudget : BitVec 16
  portEn : BitVec 64
  epoch : BitVec 2
  entries : List (BitVec 16)
  faulty : Bool := false
  deriving DecidableEq, Repr

/-- R272. -/
inductive LinkGrpSt where
  | unused | down | up | miswired | lost
  deriving DecidableEq, Repr

/-- A link group (R271) and its probe of R294. -/
structure LinkGrp where
  st : LinkGrpSt := .unused
  losses : Nat := 0
  probeSent : Option Nat := none
  deriving DecidableEq, Repr

/-- Routing state of the module (R273 to R300). A coordinate of 0xF is one no source supplies (R529). -/
structure Route where
  w : Nat := 0xF
  x : Nat := 0xF
  y : Nat := 0xF
  z : Nat := 0xF
  source : BitVec 2 := 0
  joined : Bool := false
  cur : Option Bank := none
  old : Option Bank := none
  oldLive : Bool := false
  oldPkts : Nat := 0
  lastOld : Nat := 0
  groups : Tab LinkGrp := []
  lost : List Coord := []
  /-- Notices seen: kind, subject, and when (R296). -/
  notices : List (BitVec 8 × List Nat × Nat) := []
  waleWait : Nat := 0x0100
  waleEntries : Nat := 0
  unroutable : Nat := 0
  mcastDrops : Nat := 0
  boxRefused : Nat := 0
  noticesMade : Nat := 0
  /-- The module has left reset and floods NODE_BACK when it first commits a bank that lists it in service or as a shadow (R297). -/
  backDue : Bool := true
  deriving DecidableEq, Repr

/-- A drop profile (R318). -/
structure DropProfile where
  wexp : Nat := 9
  rMax : Nat := 0x20
  rMin : Nat := 0x08
  rMaxp : Nat := 15
  yMax : Nat := 0x40
  yMin : Nat := 0x20
  yMaxp : Nat := 7
  gMax : Nat := 0x60
  gMin : Nat := 0x30
  gMaxp : Nat := 3
  deriving DecidableEq, Repr

/-- A packet linked to an output queue, with the input and channel whose credited cells hold it; `none` for a multicast copy held in the replication pool. -/
structure Linked where
  p : Packet
  origin : Option (Nat × Nat)
  ext : Bool := false
  deriving DecidableEq, Repr

/-- A packet in an input's staging queue: the virtual channel whose credit it came on, and whether it has waited for room at its output (R307, R312). -/
structure Arrived where
  p : Packet
  vc : Nat
  waited : Bool := false
  deriving DecidableEq, Repr

/-- A packet in a residue slot of an input (R320). -/
structure Residue where
  p : Packet
  vc : Nat
  outs : List (Nat × BitVec 3)
  deriving DecidableEq, Repr

/-- A port of the switch core: its input and output halves (R301 to R327). -/
structure SwPort where
  staging : Tab (List Arrived) := []
  /-- Fabric time since which the head of each staging queue has had no route (R280). -/
  stuckSince : Tab Nat := []
  /-- WALE_WAIT of a staging queue's head that stood there when SW_ROUTE_CTRL was last written (R281). -/
  heldWait : Tab Nat := []
  residue : Tab Residue := []
  queues : Tab (List Linked) := []
  /-- Credits held towards the next module, by virtual channel, less those spent (R305, R306). -/
  spent : Tab Nat := []
  creditSeen : Tab (BitVec 16) := []
  /-- Cells returned to the sender, by virtual channel (R306). -/
  returned : Tab (BitVec 16) := []
  /-- The count each channel's last CREDIT block named. -/
  creditSent : Tab (BitVec 16) := []
  deficits : Tab Int := []
  /-- Visits of the round-robin of R308: four make a round. -/
  turn : Nat := 0
  /-- The weights of the round in which SW_PORT_CTRL was last written, with its number (R326). -/
  heldW : Option (Nat × List Nat) := none
  avg : Rat := 0
  profiles : Tab DropProfile := []
  crowdKb : Option Nat := none
  w3 : Nat := 1
  w2 : Nat := 3
  w1 : Nat := 2
  w0 : Nat := 2
  c3Drops : Nat := 0
  crowdMarks : Nat := 0
  combines : Nat := 0
  bufLost : Nat := 0
  peak : Nat := 0
  deriving DecidableEq, Repr

/-- A slice's marker (R316, R317): its register fields, and its two token buckets in bytes. -/
structure Meter where
  pbs : Nat := 0
  cbs : Nat := 0
  pir : Nat := 0
  cir : Nat := 0
  en : Bool := false
  grade : Nat := 0
  tp : Nat := 0
  tc : Nat := 0
  lastFill : Nat := 0
  deriving DecidableEq, Repr

/-! ## Links -/

/-- R347. -/
inductive PortSt where
  | off | light | lock | eq | deskew | keying | ident | active | miswired | authFailed | levelFailed
  deriving DecidableEq, Repr

/-- A segment in a replay buffer (R342). -/
structure Seg where
  sseq : Nat
  kph : Bool
  /-- Protected blocks in it (R339). -/
  blocks : Nat
  items : List SegItem
  deriving DecidableEq, Repr

/-- What a port's cipher slots hold: the key and the salt of each direction (R339, R352, R363). -/
structure LinkKeys where
  txKey : List Byte := []
  rxKey : List Byte := []
  txSalt : List Byte := []
  rxSalt : List Byte := []
  deriving DecidableEq, Repr

/-- A link port: 0 to 63 external, 64 the host link (R339 to R353, R359, R365). -/
structure LinkPort where
  st : PortSt := .off
  cwCorr : Nat := 0
  cwUncorr : Nat := 0
  naks : Nat := 0
  tagFails : Nat := 0
  malformed : Nat := 0
  losses : Nat := 0
  level : Nat := 0
  peerPort : Nat := 0
  txSseq : Nat := 0
  replay : List Seg := []
  resumed : Option (Nat × Nat) := none
  kph : Bool := false
  rxSseq : Nat := 0
  rxKph : Bool := false
  unacked : Nat := 0
  unackedSince : Nat := 0
  waiting : Option Nat := none
  naksSent : Nat := 0
  lastNak : Nat := 0
  /-- The segment accepted last followed a RESUME (R343). -/
  afterResume : Bool := false
  resumeAt : Option Nat := none
  /-- Fabric time before which training is not tried again (R347, R348). -/
  retryAt : Nat := 0
  tagTimes : List Nat := []
  keyed : Bool := false
  keyedAt : Nat := 0
  rekeying : Bool := false
  newKeys : Bool := false
  since : Nat := 0
  keys : LinkKeys := {}
  /-- The keys before a rekey, while a segment under them may still come or be resent (R353). -/
  oldKeys : Option LinkKeys := none
  /-- The random value this end sent in the exchange that runs (R352). -/
  ownRandom : List Byte := []
  /-- A LINK_DROP drill waits for the last acknowledgement (R500). -/
  dropping : Bool := false
  deriving DecidableEq, Repr

/-- A lane (R360, R366). -/
structure Lane where
  rxPwr : BitVec 8 := 0x80
  berExp : BitVec 8 := 0
  auto : Bool := true
  cdrLock : Bool := false
  peak : Nat := 0
  deriving DecidableEq, Repr

/-- An optical engine (R356, R361). -/
structure Optic where
  feedA : BitVec 8 := 0x80
  feedB : BitVec 8 := 0x80
  temp : BitVec 8 := 0
  mode : Nat := 0
  switchovers : Nat := 0
  lit : BitVec 4 := 0
  lowA : Nat := 0
  lowB : Nat := 0
  deriving DecidableEq, Repr

/-! ## Host link -/

/-- A tag in use on a channel (R368, R379 to R382). -/
structure Tag where
  tag : BitVec 16
  opcode : BitVec 16
  slice : BitVec 16
  version : BitVec 4
  status : Option (BitVec 16) := none
  reply : List Byte := []
  delivered : List Nat := []
  /-- Phase and SSEQ of the segment that ends the completion notice, until an ACK covers it (R380). -/
  notice : Option (Bool × Nat) := none
  reserve : Nat := 0
  rel : Bool := false
  isSealed : Bool := false
  deriving DecidableEq, Repr

/-- A command channel (R367 to R369). -/
structure Channel where
  slice : BitVec 16 := 0xFFFF
  tags : List Tag := []
  busy : Nat := 0
  deriving DecidableEq, Repr

/-- A status packet on its way: its bytes, and the channel and tag whose completion notice it is (R379). -/
structure HostPkt where
  bytes : List Byte
  notice : Option (Nat × BitVec 16) := none
  deriving DecidableEq, Repr

/-- The host link's counts (R365), the cells returned on its virtual channel 0 and those of the last CREDIT sent (R362), and the status packets that wait for the replay buffer (R343). -/
structure HostLink where
  cells : BitVec 16 := 0
  cellsSent : BitVec 16 := 0
  outbox : List HostPkt := []
  accepted : Nat := 0
  rejected : Nat := 0
  sealFails : Nat := 0
  sigFails : Nat := 0
  deriving DecidableEq, Repr

/-- A staged item of a transaction (R385). -/
inductive Item where
  | slice (desc : List Byte)
  | route (bank : List Byte)
  /-- The rank map is read once, at CHECK (R216). -/
  | group (desc : List Byte) (map : Option (List Byte))
  | groupDelete (gid : BitVec 16)
  deriving DecidableEq, Repr

/-- A configuration transaction (R385 to R388). -/
structure Txn where
  handle : BitVec 16
  channel : Nat
  items : List Item := []
  checked : Bool := false
  lastCmd : Nat := 0
  /-- A pending TXN_COMMIT_AT: fabric time T and its tag. -/
  commit : Option (Nat × BitVec 16) := none
  deriving DecidableEq, Repr

/-! ## Slices and trust -/

/-- R403. -/
inductive SliceSt where
  | resident | out | switching | scrubbing
  deriving DecidableEq, Repr

/-- Usage counters (R434). -/
structure Usage where
  time : Nat := 0
  clusterUs : Nat := 0
  granuleMs : Nat := 0
  fabricBytes : Nat := 0
  hostBytes : Nat := 0
  collOps : Nat := 0
  switches : Nat := 0
  /-- Fabric time up to which CLUSTER_US and GRANULE_MS have been summed. -/
  lastSum : Nat := 0
  deriving DecidableEq, Repr

/-- A tenant session (R422 to R425). -/
structure Session where
  th : List Byte
  releaseKey : List Byte
  /-- Keys and salts of the two directions (R423). -/
  keyIn : List Byte := []
  keyOut : List Byte := []
  saltIn : List Byte := []
  saltOut : List Byte := []
  scountIn : Nat := 0
  scountOut : Nat := 0
  deriving DecidableEq, Repr

/-- A slice's event ring, less the entries, which lie in its memory (R507, R509). `kinds` counts the events of each KIND, which start and stop samplers (R505). -/
structure EvRing where
  made : Nat := 0
  lost : Nat := 0
  frozen : Bool := false
  armed : Option Nat := none
  kinds : Tab Nat := []
  deriving DecidableEq, Repr

/-- A defined slice (R397 to R410). -/
structure Slice where
  id : BitVec 16
  desc : List Byte
  exact : Bool
  timesliced : Bool
  debugOk : Bool
  quantum : Nat
  job : BitVec 32
  maxFlows : Nat
  maxRings : Nat
  maxGroups : Nat
  maxDeckles : Nat
  clusters : List (Nat × Nat)
  st : SliceSt := .out
  changed : Nat := 0
  since : Nat := 0
  switches : Nat := 0
  everIn : Bool := false
  session : Option Session := none
  usage : Usage := {}
  snapshots : List Usage := []
  evRing : EvRing := {}
  /-- Strands, cores and clusters of the private part of the images (R406), while OUT. -/
  savedStrands : List (Nat × Strand) := []
  savedCores : List (Nat × Core) := []
  savedClusters : List (Nat × Cluster) := []
  /-- The draw of the bytes that the private parts of its images were written as (R406). -/
  imageDraw : Nat := 0
  lastRestart : Nat := 0
  flowCtrs : Tab Word := []
  deriving DecidableEq, Repr

/-- A usage record kept after repulp (R435). -/
structure OldUsage where
  id : BitVec 16
  job : BitVec 32
  desc : List Byte
  usage : Usage
  snapshots : List Usage
  deriving DecidableEq, Repr

/-- The fabric credential: its making, its subject, the digest of the operator key, and the time-of-day when it was made, if known (R419). -/
structure Credential where
  made : Nat := 0
  subject : Word := 0
  opDigest : List Byte := []
  notBefore : Option Nat := none
  deriving DecidableEq, Repr

/-- What LK_KEYX and LK_REKEY carry: a random value, an ephemeral public key, the credential and a signature (R352, R363). -/
structure KeyMsg where
  random : List Byte
  pub : List Byte
  cred : Credential
  sig : List Byte
  deriving DecidableEq, Repr

/-- A record waiting for a batch (R427): its channel, tag and body. -/
structure EvidenceReq where
  channel : Nat
  tag : BitVec 16
  body : List Byte
  deriving DecidableEq, Repr

/-- The trust core's own state (R415, R427, R437 to R439). -/
structure Trust where
  /-- Which AK-E, AK-L and FC are in use, as numbers drawn when they are made, and the AK-L that the next batch takes (R416, R417). -/
  ake : Nat := 0
  akl : Option Nat := none
  aklNext : Nat := 0
  fc : Credential := {}
  attLeft : Nat := 0x100000
  idLeft : Nat := 0x100000
  batch : List EvidenceReq := []
  lastBatch : Option Nat := none
  opKey : List Byte := []
  ocount : Nat := 0
  identity : Word := 0
  testUnlocked : Bool := false
  recovery : Bool := false
  /-- No usable identity: ATTEST ends CHECK_FAILED (R469). -/
  noIdentity : Bool := false
  /-- AKL_RENEW has made the key that the next batch takes (R438). -/
  aklReady : Bool := false
  scopeBits : BitVec 16 := 0
  unlockSerial : Nat := 0
  deriving DecidableEq, Repr

/-! ## Power -/

/-- A rail (R441, R462). -/
structure Rail where
  current : Nat := 0
  voltage : Nat := 0
  target : Nat := 0
  faults : Nat := 0
  st : Nat := 0
  deviatesSince : Option Nat := none
  deriving DecidableEq, Repr

/-- Power state of a compute die (R445, R450, R451, R456, R463): what FREQ, DUTY and BUDGET read follows from it. -/
structure PwDie where
  temp : Nat := 0
  /-- Operating point of R445, in MHz. -/
  point : Nat := 1600
  /-- Duty of R451 while THROTTLE_N acts. -/
  thrDuty : Option Nat := none
  /-- Budget in W after the cuts of R456, and the time of the last cut. -/
  cutW : Nat := 780
  cutAt : Nat := 0
  /-- W lent to the reduction lanes (R454). -/
  lendW : Nat := 0
  pwr : Nat := 0
  idleSince : Nat := 0
  warn : Bool := false
  tripped : Bool := false
  /-- Gated by a fault of its VCD rail (R443). -/
  railLost : Bool := false
  deriving DecidableEq, Repr

/-- The caps (R447, R461). -/
structure Caps where
  rack : Nat := 4400
  host : Nat := 4400
  rackLow : Bool := false
  hostLow : Bool := false
  inForce : Nat := 4400
  deriving DecidableEq, Repr

/-- The power controller (R448 to R460). -/
structure Power where
  power : Nat := 0
  power10 : Nat := 0
  windowSum : Nat := 0
  windowCount : Nat := 0
  lastSample : Nat := 0
  lastWindow : Nat := 0
  selfBrakes : Nat := 0
  throttles : Nat := 0
  throttle : Bool := false
  selfBrake : Nat := 16
  capHist : List (Nat × Nat) := []
  fdWarn : Bool := false
  oeWarn : BitVec 16 := 0
  fdTemp : Nat := 0
  stackTemp : Nat := 0
  oeTemp : Nat := 0
  lent : Bool := false
  i3cIndex : Nat := 0
  i3cDyn : Option (BitVec 7) := none
  i3cWrites : Nat := 0
  lastRaise : Nat := 0
  fdLimit : Bool := false
  deriving DecidableEq, Repr

/-! ## Reset, records and firmware -/

/-- The configuration record and the operator record of MRAM (R471), as the trust core reads them at start-up. -/
structure Records where
  variant : BitVec 4 := 1
  stepping : BitVec 8 := 1
  /-- VCD voltage in mV of each operating point, 1.6 GHz first (R445). -/
  points : List Nat := [850, 820, 790, 760, 735, 710, 685, 660, 640]
  vfd : Nat := 700
  vhbm : Nat := 1100
  vopt : Nat := 900
  vaon : Nat := 800
  peak : Nat := 0
  asym : Tab Int := []
  coords : List (Option Nat) := [none, none, none, none]
  prio : BitVec 8 := 0
  /-- Entries of R149 and R472. -/
  repair : List Word := []
  /-- Entries of `repair` that are the record's factory part, which stand first. -/
  factory : Nat := 0
  repairDropped : Nat := 0
  /-- Bodies of the activated CONFIG, REPAIR and OPCONFIG images in effect, by kind; none is the record the module left Tentikor with. -/
  bodies : Tab (List Byte) := []
  /-- Bodies written by FW_ACTIVATE that take effect at the next MODULE reset (R476). -/
  written : Tab (List Byte) := []
  minSvn : Tab Nat := []
  deriving DecidableEq, Repr

/-- A firmware slot (R476). -/
structure FwSlot where
  st : Nat := 0
  confirmed : Bool := false
  svn : Nat := 0
  /-- SHA-384 of the body, and of the whole image; none for the image the module left Tentikor with. -/
  digest : List Byte := []
  measured : List Byte := []
  changed : Nat := 0
  deriving DecidableEq, Repr

/-- The staged image (R475). -/
structure Staged where
  kind : Nat
  slot : Nat
  length : Nat
  bytes : List Byte := []
  opened : Bool := true
  verified : Bool := false
  svn : Nat := 0
  deriving DecidableEq, Repr

/-- Firmware (R475, R476). -/
structure Firmware where
  slotA : FwSlot := { st := 2, confirmed := true }
  slotB : FwSlot := {}
  /-- The third block of FW_STATUS: the staged image of another kind. -/
  other : FwSlot := {}
  active : Nat := 0
  previous : Nat := 0
  staged : Option Staged := none
  activatedAt : Option Nat := none
  patchDigest : List Byte := []
  deriving DecidableEq, Repr

/-- Reset sequencing (R464 to R470, R529, R533). Domain codes are those of R464. -/
structure Reset where
  /-- Resets in progress: domain code and start. -/
  busy : List (Nat × Nat) := []
  step : Nat := 0
  stopped : Bool := false
  resetN : Bool := false
  pwrOk : Bool := true
  refclk : Bool := true
  rails : Nat := 0
  straps : List (Option (BitVec 4)) := [none, none, none, none, none]
  dieUp : BitVec 4 := 0
  dieOut : BitVec 4 := 0
  hbmOk : BitVec 16 := 0
  oeOk : BitVec 16 := 0
  spareUsed : BitVec 4 := 0
  variant : BitVec 4 := 0
  stepping : BitVec 8 := 0
  boot : Nat := 0
  deriving DecidableEq, Repr

/-- The map of one die's clusters (R132, R133). -/
structure ClMap where
  spare : Nat := 0xF
  map : Tab Nat := []
  substituting : Option Nat := none
  failedCl : List Nat := []
  deriving DecidableEq, Repr

/-! ## Faults and records -/

/-- An error source (R488, R491, R493). -/
structure Source where
  count : Nat := 0
  held : Bool := false
  event : BitVec 8 := 0
  status : BitVec 16 := 0
  time : Nat := 0
  location : Word := 0
  aux : Word := 0
  seq : Nat := 0
  lastSeq : Nat := 0
  storm : Bool := false
  suppressed : Nat := 0
  lastRec : Option Nat := none
  lastErr : Nat := 0
  stormRec : Nat := 0
  sinceRec : Nat := 0
  enterDue : Bool := false
  /-- Records of the source are marked as a drill's from the first time until the second (R501). -/
  drillFrom : Nat := 0
  drillUntil : Nat := 0
  deriving DecidableEq, Repr

/-- A black-box record (R489). -/
structure BbRec where
  seq : Nat := 0
  time : Nat
  cycle : Word := 0
  source : BitVec 16
  event : BitVec 8
  drill : Bool := false
  summary : Bool := false
  status : BitVec 16
  boot : Nat := 0
  count : Nat := 0
  job : BitVec 32 := 0
  slice : BitVec 16 := 0xFFFF
  location : Word := 0
  aux : Word := 0
  /-- Bytes 28 to 59 of a CONTINUATION record. -/
  more : List Byte := []
  deriving DecidableEq, Repr

/-- A unit event ring entry (R520). -/
structure UnitEv where
  time : Nat
  cycle : Word
  slice : BitVec 16
  status : BitVec 16
  event : BitVec 8
  location : Word
  deriving DecidableEq, Repr

/-- A unit event ring (R509). -/
structure UnitRing where
  made : Nat := 0
  evs : Tab UnitEv := []
  lost : Nat := 0
  frozen : Bool := false
  armed : Option Nat := none
  deriving DecidableEq, Repr

/-- The black box and fleet evidence (R480, R488 to R499). -/
structure Fleet where
  sources : Tab Source := []
  rings : Tab UnitRing := []
  accepted : List BbRec := []
  records : List BbRec := []
  nextSeq : Nat := 1
  recent : List Nat := []
  serial : Nat := 0
  stops : List (BitVec 20 × BitVec 32 × Nat) := []
  shadow : Nat := 0
  diverged : Bool := false
  window : List (Bool × Nat) := []
  suspect : Bool := false
  suspectAt : Nat := 0
  drillLate : Nat := 0
  refusedExp : Nat := 0
  drills : List DrillCfg := []
  noted : List Word := []
  deriving DecidableEq, Repr

/-! ## Instruments -/

/-- A sampler (R505, R506, R520). -/
structure Sampler where
  owner : BitVec 16 := 0xFFFF
  cfg : Option SamplerCfg := none
  st : Nat := 0
  k : Nat := 0
  missed : Nat := 0
  dropped : Nat := 0
  postLeft : Nat := 0
  trig : Bool := false
  lastAt : Nat := 0
  /-- Events of its KIND that its slice had had when it was enabled. -/
  base : Nat := 0
  deriving DecidableEq, Repr

/-- The digest and statistics of one step (R516). -/
structure WmAcc where
  dig : Nat := 0
  count : Nat := 0
  nans : Nat := 0
  infs : Nat := 0
  zeros : Nat := 0
  flags : BitVec 4 := 0
  mn : Option (BitVec 32) := none
  mx : Option (BitVec 32) := none
  sum : Int := 0
  deriving DecidableEq, Repr

/-- A watermark unit (R514 to R520). `closed` holds the steps whose close the counter has made and whose result is not yet written: step, fabric time and accumulation. -/
structure Watermark where
  owner : BitVec 16 := 0xFFFF
  cfg : Option WatermarkCfg := none
  st : Nat := 0
  step : Nat := 0
  mismatches : Nat := 0
  acc : WmAcc := {}
  closed : List (Nat × Nat × WmAcc) := []
  deriving DecidableEq, Repr

/-- The IEEE 1149.1 TAP controller states (R538). -/
inductive TapSt where
  | testLogicReset | runTestIdle
  | selectDr | captureDr | shiftDr | exit1Dr | pauseDr | exit2Dr | updateDr
  | selectIr | captureIr | shiftIr | exit1Ir | pauseIr | exit2Ir | updateIr
  deriving DecidableEq, Repr

/-- The test port (R538): the instruction register, the register being shifted, the boundary cells' update latches, and TDO, none at high-Z. -/
structure Tap where
  st : TapSt := .testLogicReset
  ir : List Bool := []
  shift : List Bool := []
  boundary : List Bool := []
  tdo : Option Bool := none
  deriving DecidableEq, Repr

/-! ## What leaves the module -/

/-- Something the module sends: the world outside reads these in order. -/
inductive Emit where
  /-- A status packet (R370): channel, opcode, tag, slice, version, status, FLAGS, total reply length, bytes carried, fabric time. -/
  | status (channel : Nat) (opcode tag slice : BitVec 16) (version : BitVec 4) (st : BitVec 16) (flags : BitVec 16) (len : Nat) (bytes : List Byte) (t : Nat)
  /-- A remote-operation request (R166) towards a destination node. -/
  | request (dst : BitVec 20) (r : Req)
  /-- A response (R167) towards a source node. -/
  | response (dst : BitVec 20) (r : Resp)
  /-- A couch, collective, time or loss packet: destination node, opcode and payload. -/
  | c4 (dst : BitVec 20) (opcode : BitVec 8) (slice : BitVec 16) (key : Nat) (payload : List Byte)
  | bulk (dst : BitVec 20) (flow : BitVec 20) (seq : BitVec 24) (tag : BitVec 16) (offset : Nat) (colour : BitVec 2) (grade : Nat) (data : List Byte) (crc : BitVec 32)
  | coll (dst : BitVec 20) (opcode : BitVec 8) (h : CollHdr) (payload : List Byte) (crowd : Bool)
  /-- A multicast collective packet, down the group's box (R220). -/
  | multicast (box : Box) (opcode : BitVec 8) (h : CollHdr) (payload : List Byte)
  /-- A remote-operation request, or a response, between two compute endpoints of the module: it takes these die-to-die links, none within one die (R17). -/
  | inside (links : List Nat) (dst : BitVec 20) (r : Req)
  | insideResp (links : List Nat) (dst : BitVec 20) (r : Resp)
  /-- A bank becomes current: every packet that the module originates from here on carries its epoch (R289). -/
  | bank (epoch : BitVec 2)
  /-- A packet on one external port (R255, R295, R480, R501). -/
  | neighbour (port : Nat) (opcode : BitVec 8) (payload : List Byte)
  /-- A packet a switch output sends (R308). -/
  | switched (port : Nat) (vc : Nat) (p : Packet)
  /-- Link control and segments on a port (R330, R342). -/
  | linkCtl (port : Nat) (type : BitVec 8) (sseq : Nat)
  | segment (port : Nat) (s : Seg)
  | keyx (port : Nat) (opcode : BitVec 8) (m : KeyMsg)
  /-- What a port in training tells its peer: the module's coordinates, the optical engine and the port's index in it (R270). -/
  | ident (port : Nat) (here : Coord) (oe index : Nat)
  /-- The console line of a start-up step, of which the manual gives the end alone, CR LF (R539). -/
  | console (step : Nat) (bytes : List Byte)
  /-- The console line of a black-box record: these 32 bytes in hexadecimal, then CR LF (R539). -/
  | consoleRecord (bytes : List Byte)
  /-- An I3C in-band interrupt with the status byte (R448). -/
  | ibi (b : Byte)
  /-- Six symbols of one codeword of the port's next group go out inverted (R500). -/
  | flitCorrupt (port : Nat)
  /-- An AVSBus voltage write (R441, R467). -/
  | avs (rail : Nat) (mv : Nat)
  deriving DecidableEq, Repr

/-- Pins (R526): ALERT_N and FAULT_N as driven, THROTTLE_N as it stands at the land, and whether the transmitters run. -/
structure Pins where
  alertN : Bool := true
  faultN : Bool := true
  throttleN : Bool := true
  transmitters : Bool := false
  deriving DecidableEq, Repr

/-! ## The whole module -/

/-- Compute side: strands, cores, clusters, cluster maps. Keys: strands by `Pos` number, cores by CD_CORE_HEALTH's index (R394), clusters by 12d + l. -/
structure Compute where
  strands : Tab Strand := []
  cores : Tab Core := []
  clusters : Tab Cluster := []
  maps : Tab ClMap := []
  /-- Cycles run in parts of 1/125, up to the present always-on cycle: the arithmetic clock of each die by its number, the switch core's under 4 (R266). -/
  cyc : Tab Nat := []
  /-- Die-to-die links that have failed, as R486 numbers them (R18). -/
  d2dFailed : BitVec 4 := 0
  /-- Pairs of dies, lower first, whose accesses go by their FD connections and the switch core (R18). -/
  viaSwitch : List (Nat × Nat) := []
  deriving DecidableEq, Repr

/-- Memory side: bytes of every compute endpoint under one address EP * 2^42 + OFFSET (R162), poison marks, granules, stacks and error records. -/
structure MemSys where
  bytes : List Host.Cell := []
  /-- Poisoned HBM sectors, by address / 32 (R138). -/
  poison : List Nat := []
  /-- Poisoned SRAM words of tile stores and felts, by address / 8 (R152). -/
  sramPoison : List Nat := []
  granules : Tab Granule := []
  stks : Tab Stack := []
  dies : Tab HbmDie := []
  errs : Tab MemErr := []
  /-- Uncorrectable errors that the last reads of each pseudo-channel found one after another, by 32 times the stack plus the pseudo-channel (R151). -/
  pchUe : Tab Nat := []
  rows : List RowErr := []
  repairQueue : List Word := []
  deriving DecidableEq, Repr

/-- Endpoint, couch and collective side. -/
structure Fabric where
  eps : Tab Endpoint := []
  deckles : Tab Deckle := []
  nextId : Nat := 0
  flows : Tab Flow := []
  recvFlows : List RecvFlow := []
  closed : List (Nat × Nat) := []
  retrans : Nat := 0
  flowsFailed : Nat := 0
  openBusy : Nat := 0
  rings : Tab Ring := []
  ringTurn : Nat := 0
  copies : List Copy := []
  nextTag : Nat := 0
  mouldKeys : Tab MouldKey := []
  c4 : List C4Out := []
  groups : Tab Group := []
  coll : CollEngine := {}
  deriving DecidableEq, Repr

/-- Switch core, links and optics. -/
structure Network where
  route : Route := {}
  ports : Tab SwPort := []
  poolUsed : Nat := 0
  meters : Tab Meter := []
  links : Tab LinkPort := []
  lanes : Tab Lane := []
  optics : Tab Optic := []
  portCtrs : Tab Word := []
  stackCtrs : Tab Word := []
  switchCtrs : Tab Word := []
  deriving DecidableEq, Repr

/-- What a memory command does (R389, R390). -/
inductive MemOp where
  | write (addr : Word) (data : List Byte)
  | read (addr : Word) (len : Nat)
  | add (die counter : Nat) (value : Word)
  deriving DecidableEq, Repr

/-- A memory command that the memory holds back, or that comes after one it holds back (R147, R163, R391); one that ended ABORTED may still be under way (R383). -/
structure MemWait where
  channel : Nat
  tag : BitVec 16
  op : MemOp
  aborted : Bool := false
  deriving DecidableEq, Repr

/-- Host link, transactions, slices, trust, records and firmware. -/
structure Control where
  hl : HostLink := {}
  channels : Tab Channel := []
  /-- Memory commands that wait, in acceptance order. -/
  memWaits : List MemWait := []
  txns : List Txn := []
  slices : Tab Slice := []
  oldUsage : Tab OldUsage := []
  trust : Trust := {}
  records : Records := {}
  fw : Firmware := {}
  samplers : Tab Sampler := []
  watermarks : Tab Watermark := []
  tap : Tap := {}
  deriving DecidableEq, Repr

/-- The FRB40. -/
structure State where
  /-- Commands that wait, first in, first out. -/
  pending : List Instr := []
  tb : TimeBase := {}
  caps : Caps := {}
  compute : Compute := {}
  mem : MemSys := {}
  fab : Fabric := {}
  net : Network := {}
  ctl : Control := {}
  pw : Power := {}
  rails : Tab Rail := [(0, { target := 850 }), (1, { target := 850 }), (2, { target := 700 }), (3, { target := 1100 }), (4, { target := 900 }), (5, { target := 800 })]
  pwDies : Tab PwDie := []
  rst : Machine.Reset := {}
  fleet : Fleet := {}
  pins : Pins := {}
  out : List Emit := []
  /-- Counts the free values taken so far: the model's own field, on which no statement rests. -/
  freeCtr : Nat := 0
  deriving DecidableEq, Repr

/-- The module at the end of a MODULE reset, before its start-up begins: every field at the value of its Reset column. -/
def State.reset : State := {}

end Sys2Proof.Machine
end

