-- ==== Sys2Proof/Machine/Ops.lean ====
section
/-! DEFINITION. The named operations over the state that the meanings share: positions, accessors, free values, ownership, HBM sectors and poison, the slice event ring, the recorder, strands' traps, and what leaves the module. -/

namespace Sys2Proof.Machine

/-- An outcome that goes on. -/
abbrev Result := Host.Outcome State Fault Refusal

/-! ## Status codes (R373) -/

def stOk : BitVec 16 := 0x0000
def stNotReady : BitVec 16 := 0x0001
def stAlreadyDone : BitVec 16 := 0x0002
def stAborted : BitVec 16 := 0x0003
def stViolation : BitVec 16 := 0x0004
def stPoisoned : BitVec 16 := 0x0005
def stIndeterminate : BitVec 16 := 0x0006
def stTimeout : BitVec 16 := 0x0007
def stDenied : BitVec 16 := 0x0010
def stBadState : BitVec 16 := 0x0011
def stCheckFailed : BitVec 16 := 0x0012
def stBadParam : BitVec 16 := 0x0013
def stOverflow : BitVec 16 := 0x0014
def stBusy : BitVec 16 := 0x0015
def stCapBelowFloor : BitVec 16 := 0x0016
def stUnsupported : BitVec 16 := 0x00FF

/-! ## Positions (R20, R71, R486) -/

def coreOf (p : Pos) : CorePos := ⟨p.die, p.cluster, p.core⟩

/-- Index of a core: 192d + 16l + c. -/
def coreIx (c : CorePos) : Nat := 192 * c.die.val + 16 * c.cluster.val + c.core.val

/-- The core at numbers of a die, a cluster and a core. -/
def corePos (d l c : Nat) : CorePos :=
  ⟨⟨d % 4, Nat.mod_lt _ (by decide)⟩, ⟨l % 12, Nat.mod_lt _ (by decide)⟩, ⟨c % 16, Nat.mod_lt _ (by decide)⟩⟩

/-- Index of a cluster: 12d + l. -/
def clIx (d l : Nat) : Nat := 12 * d + l

/-- Index of a strand: 32 times its core's index, plus its number. -/
def posIx (p : Pos) : Nat := 32 * coreIx (coreOf p) + p.strand.val

/-- STRAND_ID bits [14:0] (R71). -/
def strandIdLow (p : Pos) : Nat := p.die.val * 8192 + p.cluster.val * 512 + p.core.val * 32 + p.strand.val

/-! ## Accessors -/

def getStrand (s : State) (p : Pos) : Strand := Tab.getD s.compute.strands (posIx p) {}

def modStrand (s : State) (p : Pos) (f : Strand → Strand) : State :=
  { s with compute := { s.compute with strands := Tab.upd s.compute.strands (posIx p) {} f } }

def getCore (s : State) (c : CorePos) : Core := Tab.getD s.compute.cores (coreIx c) {}

def modCore (s : State) (c : CorePos) (f : Core → Core) : State :=
  { s with compute := { s.compute with cores := Tab.upd s.compute.cores (coreIx c) {} f } }

def getCluster (s : State) (d l : Nat) : Cluster := Tab.getD s.compute.clusters (clIx d l) {}

def modCluster (s : State) (d l : Nat) (f : Cluster → Cluster) : State :=
  { s with compute := { s.compute with clusters := Tab.upd s.compute.clusters (clIx d l) {} f } }

def getEngine (s : State) (c : CorePos) (e : Nat) : Engine := Tab.getD (getCore s c).engines e {}

def modEngine (s : State) (c : CorePos) (e : Nat) (f : Engine → Engine) : State :=
  modCore s c (fun k => { k with engines := Tab.upd k.engines e {} f })

def getMap (s : State) (d : Nat) : ClMap := Tab.getD s.compute.maps d {}

def modMap (s : State) (d : Nat) (f : ClMap → ClMap) : State :=
  { s with compute := { s.compute with maps := Tab.upd s.compute.maps d {} f } }

def getEp (s : State) (d : Nat) : Endpoint := Tab.getD s.fab.eps d {}

def modEp (s : State) (d : Nat) (f : Endpoint → Endpoint) : State :=
  { s with fab := { s.fab with eps := Tab.upd s.fab.eps d {} f } }

def getGran (s : State) (d g : Nat) : Granule := Tab.getD s.mem.granules (16 * d + g) {}

def modGran (s : State) (d g : Nat) (f : Granule → Granule) : State :=
  { s with mem := { s.mem with granules := Tab.upd s.mem.granules (16 * d + g) {} f } }

def getStack (s : State) (k : Nat) : Stack := Tab.getD s.mem.stks k {}

def modStack (s : State) (k : Nat) (f : Stack → Stack) : State :=
  { s with mem := { s.mem with stks := Tab.upd s.mem.stks k {} f } }

def getHbm (s : State) (d : Nat) : HbmDie := Tab.getD s.mem.dies d {}

def modHbm (s : State) (d : Nat) (f : HbmDie → HbmDie) : State :=
  { s with mem := { s.mem with dies := Tab.upd s.mem.dies d {} f } }

def getRing (s : State) (r : Nat) : Ring := Tab.getD s.fab.rings r {}

def modRing (s : State) (r : Nat) (f : Ring → Ring) : State :=
  { s with fab := { s.fab with rings := Tab.upd s.fab.rings r {} f } }

def getGroup (s : State) (c : Nat) : Group := Tab.getD s.fab.groups c {}

def modGroup (s : State) (c : Nat) (f : Group → Group) : State :=
  { s with fab := { s.fab with groups := Tab.upd s.fab.groups c {} f } }

def modColl (s : State) (f : CollEngine → CollEngine) : State :=
  { s with fab := { s.fab with coll := f s.fab.coll } }

def getSlice (s : State) (k : Nat) : Option Slice := Tab.find s.ctl.slices k

/-- Change a defined slice; an undefined slot stays so. -/
def modSlice (s : State) (k : Nat) (f : Slice → Slice) : State :=
  match getSlice s k with
  | some sl => { s with ctl := { s.ctl with slices := Tab.set s.ctl.slices k (f sl) } }
  | none => s

def modPort (s : State) (i : Nat) (f : SwPort → SwPort) : State :=
  { s with net := { s.net with ports := Tab.upd s.net.ports i {} f } }

def getPort (s : State) (i : Nat) : SwPort := Tab.getD s.net.ports i {}

def modLink (s : State) (i : Nat) (f : LinkPort → LinkPort) : State :=
  { s with net := { s.net with links := Tab.upd s.net.links i {} f } }

def getLink (s : State) (i : Nat) : LinkPort := Tab.getD s.net.links i {}

def modRoute (s : State) (f : Route → Route) : State :=
  { s with net := { s.net with route := f s.net.route } }

def modChan (s : State) (c : Nat) (f : Channel → Channel) : State :=
  { s with ctl := { s.ctl with channels := Tab.upd s.ctl.channels c {} f } }

def getChan (s : State) (c : Nat) : Channel := Tab.getD s.ctl.channels c {}

def getPwDie (s : State) (d : Nat) : PwDie := Tab.getD s.pwDies d {}

def modPwDie (s : State) (d : Nat) (f : PwDie → PwDie) : State :=
  { s with pwDies := Tab.upd s.pwDies d {} f }

/-! ## Free values and what leaves the module -/

/-- A fresh free value (log entry 3). -/
def takeFree (s : State) : Word × State := (Config.freeWord s.freeCtr, { s with freeCtr := s.freeCtr + 1 })

/-! ## Coordinates and the pod extent (R267, R268) -/

/-- The four dimensions in the order W, X, Y, Z. -/
inductive Dim where
  | w | x | y | z
  deriving DecidableEq, Repr

def dims : List Dim := [.w, .x, .y, .z]

def Dim.code : Dim → Nat
  | .w => 0
  | .x => 1
  | .y => 2
  | .z => 3

/-- Coordinates of a dimension (R267). -/
def Dim.range : Dim → Nat
  | .w | .x => 4
  | .y | .z => 6

def coordGet (c : Coord) : Dim → Nat
  | .w => c.w
  | .x => c.x
  | .y => c.y
  | .z => c.z

def coordSet (c : Coord) (d : Dim) (v : Nat) : Coord :=
  match d with
  | .w => { c with w := v }
  | .x => { c with x := v }
  | .y => { c with y := v }
  | .z => { c with z := v }

/-- This module's coordinates. -/
def hereC (s : State) : Coord :=
  ⟨s.net.route.w, s.net.route.x, s.net.route.y, s.net.route.z⟩

def Bank.extent (b : Bank) : Dim → Nat
  | .w => b.nw
  | .x => b.nx
  | .y => b.ny
  | .z => b.nz

def inExtent (b : Bank) (c : Coord) : Bool := dims.all (fun d => coordGet c d < b.extent d)

/-- SW_EPOCH.OUTSIDE (R268). -/
def outsideExtent (s : State) : Bool :=
  match s.net.route.cur with
  | some b => !inExtent b (hereC s)
  | none => false

/-- A packet that this module originates. -/
def Emit.isPacket (e : Emit) : Bool :=
  match e with
  | .request _ _ | .response _ _ | .c4 _ _ _ _ _ | .bulk _ _ _ _ _ _ _ _ _ | .coll _ _ _ _ _ | .multicast _ _ _ _ | .neighbour _ _ _ => true
  | _ => false

/-- What in fact leaves: a module outside the extent originates no packet (R268). -/
def sends (s : State) (es : List Emit) : List Emit := if outsideExtent s then es.filter (fun e => !e.isPacket) else es

/-- Something leaves the module. -/
def emitAll (s : State) (es : List Emit) : State := { s with out := s.out ++ sends s es }

def emit (s : State) (e : Emit) : State := emitAll s [e]

/-! ## Node numbers (R160, R273) -/

/-- Node number of an endpoint of this module. -/
def nodeOf (s : State) (ep : Nat) : BitVec 20 :=
  let r := s.net.route
  BitVec.ofNat 20 (r.w * 65536 + r.x * 4096 + r.y * 256 + r.z * 16 + ep)

def fdNode (s : State) : BitVec 20 := nodeOf s 4

/-- The module part of a node number. -/
def nodeModule (n : BitVec 20) : Nat := n.toNat / 16

def nodeEp (n : BitVec 20) : Nat := n.toNat % 16

def nodeCoord (n : BitVec 20) : Coord :=
  ⟨n.toNat / 65536 % 16, n.toNat / 4096 % 16, n.toNat / 256 % 16, n.toNat / 16 % 16⟩

def coordNode (c : Coord) (ep : Nat) : BitVec 20 := BitVec.ofNat 20 (c.w * 65536 + c.x * 4096 + c.y * 256 + c.z * 16 + ep)

def isHere (s : State) (n : BitVec 20) : Bool := nodeModule n = nodeModule (fdNode s)

/-- Node number of a global address. -/
def addrNode (a : Word) : BitVec 20 := a.extractLsb' 42 20

/-- OFFSET of a global address. -/
def addrOff (a : Word) : Nat := a.toNat % 2 ^ 42

/-- Global address of an offset of one of this module's endpoints. -/
def globalOf (s : State) (ep off : Nat) : Word := BitVec.ofNat 64 ((nodeOf s ep).toNat * 2 ^ 42 + off)

/-! ## Slices and ownership (R145, R163, R396) -/

/-- The defined slice with an ID, with its slot. -/
def findSlice (s : State) (id : BitVec 16) : Option (Nat × Slice) := s.ctl.slices.find? (fun e => e.2.id = id)

/-- The slice whose state a cluster holds: RESIDENT, or on its way out or in. -/
def sliceOn (s : State) (d l : Nat) : Option (Nat × Slice) :=
  s.ctl.slices.find? (fun e => (e.2.st = .resident || e.2.st = .switching) && e.2.clusters.contains (d, l))

/-- The RESIDENT slice of a cluster. -/
def residentOn (s : State) (d l : Nat) : Option (Nat × Slice) :=
  s.ctl.slices.find? (fun e => e.2.st = .resident && e.2.clusters.contains (d, l))

def strandSlice (s : State) (p : Pos) : Option (Nat × Slice) := sliceOn s p.die p.cluster

def strandSliceId (s : State) (p : Pos) : BitVec 16 :=
  match strandSlice s p with
  | some e => e.2.id
  | none => 0xFFFF

/-- A granule index of a die offset (R140). -/
def granOf (off : Nat) : Nat := off / 2 ^ 34

/-- The slice owns every granule that [off, off + n) touches (R145). -/
def ownsHbm (s : State) (d off n : Nat) (id : BitVec 16) : Bool :=
  decide (off + n ≤ 2 ^ 38) &&
  (List.range (granOf (off + n - 1) - granOf off + 1)).all (fun i =>
    (getGran s d (granOf off + i)).st = .owned && (getGran s d (granOf off + i)).owner = id)

/-- The owner of an arrival counter (R199). -/
def counterOwner (s : State) (d k : Nat) : Option (BitVec 16) := Tab.find (getEp s d).counterOwner (k / 256)

def ownsCounter (s : State) (d k : Nat) (id : BitVec 16) : Bool := counterOwner s d k = some id

def counterVal (s : State) (d k : Nat) : Word := Tab.getD (getEp s d).counters k 0

/-- A unit that is on, of a die, whose CLOSE counter is this one (R514, R515). -/
def wmCloses (d k unit : Nat) (w : Watermark) : Bool :=
  w.st = 1 && unit / 64 = d && (match w.cfg with
    | some c => decide (c.closeCtr = k)
    | none => false)

/-- The steps that an increase of a counter closes (R515). -/
def wmClose (s : State) (d k : Nat) : State :=
  { s with ctl := { s.ctl with watermarks := Tab.mapVals s.ctl.watermarks (fun u w =>
      if wmCloses d k u w then { w with step := w.step + 1, acc := {}, closed := w.closed ++ [(w.step, s.tb.time, w.acc)] } else w) } }

/-- Add to an arrival counter, saturating (R164, R199); an increase closes the steps of the watermarks that watch it (R515). -/
def counterAddTo (s : State) (d k n : Nat) : State :=
  let old := (counterVal s d k).toNat
  let new := min (old + n) (2 ^ 64 - 1)
  let s := modEp s d (fun e => { e with counters := Tab.set e.counters k (BitVec.ofNat 64 new) })
  if old < new then wmClose s d k else s

/-! ## Counters of cores and clusters (R504) -/

def bumpCore (s : State) (c : CorePos) (k n : Nat) : State :=
  modCore s c (fun x => { x with ctrs := Tab.upd x.ctrs k 0 (fun v => v + BitVec.ofNat 64 n) })

def bumpCluster (s : State) (d l k n : Nat) : State :=
  modCluster s d l (fun x => { x with ctrs := Tab.upd x.ctrs k 0 (fun v => v + BitVec.ofNat 64 n) })

/-! ## Wakes (R190) -/

/-- Set the pending bit of each ring and quire whose monitored line an update of [off, off + n) touches, whoever makes it (R190). -/
def monitorWake (s : State) (d off n : Nat) : State :=
  (getEp s d).monitors.foldl (fun s m =>
    if off / 64 ≤ m.1 && m.1 ≤ (off + n - 1) / 64 then
      match m.2 with
      | .ring r => modRing s r (fun x => { x with pendingBit := true })
      | .quire c => modGroup s c (fun x => { x with pendingBit := true })
    else s) s

/-! ## Memory and poison (R136 to R141, R152) -/

/-- The memory address of an offset of a compute endpoint (R162). -/
def memKey (ep off : Nat) : Nat := ep * 2 ^ 42 + off

def feltKey (d l x : Nat) : Nat := memKey d (0x10000000000 + l * 0x800000 + x)
def tileKey (d l c x : Nat) : Nat := memKey d (0x20000000000 + l * 0x1000000 + c * 0x100000 + x)

/-- Whether an address lies in a die's HBM. -/
def isHbmKey (k : Nat) : Bool := k % 2 ^ 42 < 2 ^ 38

/-- A poisoned sector among those that [k, k + n) touches (R138). -/
def poisonedAt (s : State) (k n : Nat) : Bool := s.mem.poison.any (fun c => k / 32 ≤ c && c ≤ (k + n - 1) / 32)

/-- A poisoned SRAM word among those that [k, k + n) touches (R152). -/
def sramBad (s : State) (k n : Nat) : Bool := s.mem.sramPoison.any (fun c => k / 8 ≤ c && c ≤ (k + n - 1) / 8)

/-- A touched, poisoned sector that a write of [k, k + n) does not fill (R138). -/
def partialPoison (s : State) (k n : Nat) : Bool :=
  s.mem.poison.any (fun c => k / 32 ≤ c && c ≤ (k + n - 1) / 32 && !(k ≤ 32 * c && 32 * c + 32 ≤ k + n))

/-- Store bytes; the poison of every unit the store fills is gone (R138, R152). -/
def memStore (s : State) (k : Nat) (bs : List Byte) : State :=
  { s with mem := { s.mem with
      bytes := memWrite s.mem.bytes k bs
      poison := s.mem.poison.filter (fun c => !(k ≤ 32 * c && 32 * c + 32 ≤ k + bs.length))
      sramPoison := s.mem.sramPoison.filter (fun c => !(k ≤ 8 * c && 8 * c + 8 ≤ k + bs.length)) } }

/-- Mark a sector poisoned (R138). -/
def poisonSector (s : State) (sector : Nat) : State :=
  if s.mem.poison.contains sector then s
  else { s with mem := { s.mem with poison := s.mem.poison ++ [sector] } }

/-- Mark an SRAM word poisoned (R152). -/
def poisonWord (s : State) (w : Nat) : State :=
  if s.mem.sramPoison.contains w then s
  else { s with mem := { s.mem with sramPoison := s.mem.sramPoison ++ [w] } }

/-- An HBM read under an authorising slice (R138, R145): status and bytes. -/
def hbmRead (s : State) (d off n : Nat) (id : BitVec 16) : BitVec 16 × List Byte :=
  if !ownsHbm s d off n id then (stViolation, [])
  else if poisonedAt s (memKey d off) n then (stPoisoned, [])
  else (stOk, memRead s.mem.bytes (memKey d off) n)

/-- An HBM write under an authorising slice: status and state (R138, R145); it wakes whoever monitors its lines (R190). -/
def hbmWrite (s : State) (d off : Nat) (bs : List Byte) (id : BitVec 16) : BitVec 16 × State :=
  if !ownsHbm s d off bs.length id then (stViolation, s)
  else if partialPoison s (memKey d off) bs.length then (stPoisoned, s)
  else (stOk, monitorWake (memStore s (memKey d off) bs) d off bs.length)

/-! ## Interleave (R140, R142) -/

/-- Stack slots of a die that are in its interleave; all four until training says otherwise. -/
def slotsInUse (s : State) (d : Nat) : List Nat :=
  let u := (getHbm s d).inUse
  if u = 0 then [0, 1, 2, 3] else [0, 1, 2, 3].filter (fun k => u.getLsbD k)

/-- The stack a die offset lies in. -/
def stackOf (s : State) (d off : Nat) : Nat :=
  let us := slotsInUse s d
  if us.length = 4 then 4 * d + (((off / 256) % 4) ^^^ ((off / 2 ^ 20) % 4))
  else 4 * d + us.getD ((off / 256) % us.length) 0

def stackFin (k : Nat) : Fin 16 := ⟨k % 16, Nat.mod_lt _ (by decide)⟩

/-- A stack of an access's sectors is in HOLD: the controller holds the access (R147). -/
def hbmHeld (s : State) (d off n : Nat) : Bool :=
  (List.range (min 7 ((off + n - 1) / 256 - off / 256 + 1))).any (fun i => (getStack s (stackOf s d (off + 256 * i))).therm = 3)

/-! ## Local addresses (R85) -/

/-- The whole access lies in the tile store, or the whole access lies in the felt. -/
def localOk (a n : Nat) : Bool :=
  decide (a + n ≤ 0x100000) || (decide (0x1000000 ≤ a) && decide (a + n ≤ 0x1800000))

/-- In the tile store (R94, R112). -/
def inTile (a n : Nat) : Bool := decide (a + n ≤ 0x100000)

/-- In the felt. -/
def inFelt (a n : Nat) : Bool := decide (0x1000000 ≤ a) && decide (a + n ≤ 0x1800000)

/-- The memory address of a local address of a core. -/
def localKey (c : CorePos) (a : Nat) : Nat :=
  if a < 0x1000000 then tileKey c.die c.cluster c.core a else feltKey c.die c.cluster (a - 0x1000000)

def localRead (s : State) (c : CorePos) (a n : Nat) : List Byte := memRead s.mem.bytes (localKey c a) n

def localWrite (s : State) (c : CorePos) (a : Nat) (bs : List Byte) : State := memStore s (localKey c a) bs

/-! ## Compute dies' clocks (R445, R447, R450 to R456, R463) -/

/-- The module is held at the floor (R453). -/
def atFloor (s : State) : Bool := s.caps.inForce = 900

def dieOn (s : State) (d : Nat) : Bool := (getPwDie s d).pwr = 2

/-- The arithmetic clock in MHz: the lowest that a brake or limit in force requires (R451 to R453). Half of any operating point is at most 0.8 GHz, so the hard brake sets 0.8 GHz. -/
def dieFreq (s : State) (d : Nat) : Nat :=
  if !dieOn s d then 0 else if (getPwDie s d).thrDuty.isSome || atFloor s then 800 else (getPwDie s d).point

/-! ## Fabric time within an always-on cycle (R251, R263) -/

/-- The first count of the next always-on cycle. -/
def cycleEnd (s : State) : Nat := s.tb.base + (s.tb.frac + s.tb.inc) / 2 ^ 32

/-- A readout comes at an instant of the present always-on cycle that the model leaves free, never before the last one (R251, log entry 98). -/
def passTime (s : State) : State :=
  let f := takeFree s
  { f.2 with tb := { f.2.tb with time := s.tb.time + f.1.toNat % max 1 (cycleEnd s - s.tb.time) } }

/-- The count has come to `t`, or comes to it within the present always-on cycle: the state at that instant (R263). -/
def reachTime (s : State) (t : Nat) : Option State :=
  if t ≤ s.tb.time then some s else if t < cycleEnd s then some { s with tb := { s.tb with time := t } } else none

/-! ## Cycle counters (R66, R70, R266) -/

/-- Parts of 1/125 of a cycle that a clock of `mhz` runs in one always-on cycle of 32 ns. -/
def cycParts (mhz : Nat) : Nat := 4 * mhz

/-- Always-on cycle by always-on cycle, every clock runs on: the dies' arithmetic clocks, and the switch core's 2.0 GHz under 4. -/
def runClocks (s : State) : State :=
  { s with compute := { s.compute with
      cyc := [0, 1, 2, 3].foldl (fun t d => if dieFreq s d = 0 then t else Tab.upd t d 0 (· + cycParts (dieFreq s d))) (Tab.upd s.compute.cyc 4 0 (· + cycParts 2000)) } }

/-- A core's count is brought up to its instant within the present always-on cycle, which the model leaves free and never before the last; a gated core's stands still (log entry 12). -/
def touchCycle (s : State) (c : CorePos) : State :=
  let f := takeFree s
  let start := Tab.getD s.compute.cyc c.die.val 0
  let k := getCore s c
  let low := max k.cycAt start
  let high := max low (start + cycParts (dieFreq s c.die.val) - 1)
  let now := low + f.1.toNat % (high - low + 1)
  if k.gated then f.2 else modCore f.2 c (fun k => { k with cycle := k.cycle + (now - k.cycAt), cycAt := now })

/-- A core's clock runs, and its count goes on from here where it had stopped (R66, R70). -/
def ungate (s : State) (d : Nat) (k : Core) : Core :=
  if k.gated then { k with gated := false, cycAt := max k.cycAt (Tab.getD s.compute.cyc d 0) } else k

/-- CYCLE as it reads. -/
def cycleWord (k : Core) : Word := BitVec.ofNat 64 (k.cycle / 125)

/-- The clock domain of a source of R486: a die, or the fabric die. -/
def domainOf (source : BitVec 16) : Nat :=
  let i := source.toNat % 4096
  match source.toNat / 4096 with
  | 1 => i / 192
  | 2 => i
  | 3 => i
  | 4 => i / 4
  | 5 => i / 13
  | _ => 4

/-- The cycle counter of a domain, for a record of it. -/
def domainCycle (s : State) (k : Nat) : Word := BitVec.ofNat 64 (Tab.getD s.compute.cyc k 0 / 125)

/-! ## The recorder (R486 to R491, R509) -/

/-- An event as a source makes it. -/
structure ErrEv where
  source : BitVec 16
  event : BitVec 8
  status : BitVec 16 := 0
  slice : BitVec 16 := 0xFFFF
  job : BitVec 32 := 0
  location : Word := 0
  aux : Word := 0
  drill : Bool := false
  /-- The core's CYCLE; where none is given, the count of the source's clock domain (R266). -/
  cycle : Option Word := none
  deriving DecidableEq, Repr

def srcCore (c : CorePos) : BitVec 16 := BitVec.ofNat 16 (0x1000 + coreIx c)
def srcKind (kind i : Nat) : BitVec 16 := BitVec.ofNat 16 (kind * 4096 + i)

def evCorrected : BitVec 8 := 0x01
def evUncorrectable : BitVec 8 := 0x02
def evPoisonUsed : BitVec 8 := 0x03
def evEngineFenced : BitVec 8 := 0x04
def evCoreFailed : BitVec 8 := 0x05
def evSpareIn : BitVec 8 := 0x06
def evClusterOut : BitVec 8 := 0x07
def evD2dFailover : BitVec 8 := 0x08
def evPortDown : BitVec 8 := 0x09
def evNoticeMade : BitVec 8 := 0x0A
def evNoticeSeen : BitVec 8 := 0x0B
def evFeedSwitch : BitVec 8 := 0x0C
def evSecurity : BitVec 8 := 0x0D
def evStrandFault : BitVec 8 := 0x0E
def evJobStop : BitVec 8 := 0x0F
def evCollAbort : BitVec 8 := 0x10
def evDivergence : BitVec 8 := 0x11
def evSuspect : BitVec 8 := 0x12
def evExpulsion : BitVec 8 := 0x13
def evThermal : BitVec 8 := 0x14
def evRailFault : BitVec 8 := 0x15
def evFirmware : BitVec 8 := 0x16
def evTestUnlock : BitVec 8 := 0x17
def evReset : BitVec 8 := 0x18
def evStormEnter : BitVec 8 := 0x19
def evSummary : BitVec 8 := 0x1A
def evStormExit : BitVec 8 := 0x1B
def evDrill : BitVec 8 := 0x1C
def evContinuation : BitVec 8 := 0x1D

/-- Events that no limit of R491 holds back. -/
def exemptEvent (e : BitVec 8) : Bool := e = evTestUnlock || e = evReset || e = evFirmware || e = evContinuation

/-- Whether a slice's locations are masked in a unit ring (R509). -/
def ringMasked (s : State) (id : BitVec 16) : Bool :=
  match findSlice s id with
  | some e => e.2.session.isSome && !e.2.debugOk
  | none => false

/-- Enter an event in a unit ring (R509): the last 256, none while frozen; an armed freeze follows its entry. -/
def unitEnter (r : UnitRing) (e : UnitEv) : UnitRing :=
  if r.frozen then { r with lost := r.lost + 1 }
  else
    { r with
      evs := Tab.set r.evs (r.made % 256) e
      made := r.made + 1
      frozen := decide (r.armed = some e.event.toNat)
      armed := if r.armed = some e.event.toNat then none else r.armed }

/-- The first error of a source (R488). -/
def captureFirst (src : Source) (now : Nat) (e : ErrEv) (seq : Nat) : Source :=
  if !src.held || (src.event = evCorrected && e.event = evUncorrectable) then
    { src with held := true, event := e.event, status := e.status, time := now, location := e.location, aux := e.aux, seq := seq }
  else src

/-- Accepted records within the last 100 ms, this one apart. -/
def recentNow (f : Fleet) (now : Nat) : List Nat := f.recent.filter (fun t => now < t + 100 * msU)

/-- The record an event makes (R489). -/
def mkRecord (s : State) (e : ErrEv) (seq count : Nat) (drill : Bool) (cycle : Word) : BbRec :=
  { seq := seq, time := s.tb.time, cycle := cycle, source := e.source, event := e.event, drill := drill, status := e.status,
    boot := s.rst.boot, count := count, job := e.job, slice := e.slice, location := e.location, aux := e.aux }

/-- Count, capture, ring and record one event (R488 to R491). -/
def record (s : State) (e : ErrEv) : State :=
  let cycle := e.cycle.getD (domainCycle s (domainOf e.source))
  let now := s.tb.time
  let f := s.fleet
  let src := Tab.getD f.sources e.source.toNat {}
  let count := satUp src.count 1 (2 ^ 32 - 1)
  let drill := e.drill || (decide (src.drillFrom ≤ now) && decide (now < src.drillUntil))
  let exempt := exemptEvent e.event
  let recent := recentNow f now
  let tooSoon := match src.lastRec with
    | some t => decide (now < t + 10 * msU)
    | none => false
  let accept := exempt || (!src.storm && !tooSoon && decide (recent.length < 4096))
  let src1 := captureFirst { src with count := count, lastErr := now } now e (if accept then f.nextSeq else 0)
  let src2 :=
    if accept then { src1 with lastRec := if exempt then src1.lastRec else some now }
    else if src1.storm then { src1 with suppressed := src1.suppressed + 1, sinceRec := src1.sinceRec + 1 }
    else { src1 with storm := true, enterDue := true, suppressed := 1, sinceRec := 1, stormRec := now }
  let ring := unitEnter (Tab.getD f.rings e.source.toNat {})
    { time := now, cycle := cycle, slice := e.slice, status := e.status, event := e.event,
      location := if ringMasked s e.slice then 0 else e.location }
  { s with fleet := { f with
      sources := Tab.set f.sources e.source.toNat src2
      rings := Tab.set f.rings e.source.toNat ring
      accepted := if accept then f.accepted ++ [mkRecord s e f.nextSeq count drill cycle] else f.accepted
      nextSeq := if accept then f.nextSeq + 1 else f.nextSeq
      recent := if accept && !exempt then recent ++ [now] else recent } }

/-- An error that is counted, and held as a first error, but made no record of (R156, R488). -/
def countError (s : State) (e : ErrEv) : State :=
  let src := Tab.getD s.fleet.sources e.source.toNat {}
  let src := captureFirst { src with count := satUp src.count 1 (2 ^ 32 - 1), lastErr := s.tb.time } s.tb.time e 0
  { s with fleet := { s.fleet with sources := Tab.set s.fleet.sources e.source.toNat src } }

/-- Records of a source are a drill's from now for 100 ms (R501). -/
def markDrill (s : State) (source : BitVec 16) (delay : Nat) : State :=
  let now := s.tb.time + delay
  { s with fleet := { s.fleet with sources := Tab.upd s.fleet.sources source.toNat {} (fun x => { x with drillFrom := now, drillUntil := now + 100 * msU }) } }

/-- A drill's effect on a source has ended. -/
def endDrill (s : State) (source : BitVec 16) : State :=
  let now := s.tb.time
  { s with fleet := { s.fleet with sources := Tab.mapVals s.fleet.sources (fun k x => if k = source.toNat && x.drillFrom ≤ now && now < x.drillUntil then { x with drillUntil := now } else x) } }

/-- An event attributed to a slice. -/
def recordSlice (s : State) (e : ErrEv) (id : BitVec 16) : State :=
  match findSlice s id with
  | some x => record s { e with slice := id, job := x.2.job }
  | none => record s e

/-! ## Pins (R456) -/

/-- A warning of R456 holds. -/
def anyWarn (s : State) : Bool := s.pw.fdWarn || s.pw.oeWarn ≠ 0 || s.pwDies.any (fun d => d.2.warn)

/-- A warning, a HOT stack, a cap below the floor or a self-brake holds. -/
def alertHolds (s : State) : Bool :=
  anyWarn s ||
  s.mem.stks.any (fun k => 2 ≤ k.2.therm) || s.caps.rackLow || s.caps.hostLow || decide (s.pw.selfBrake < 16)

/-- ALERT_N follows what R456 names. -/
def setAlert (s : State) : State := { s with pins := { s.pins with alertN := !alertHolds s } }

def assertFault (s : State) : State := { s with pins := { s.pins with faultN := false } }

/-! ## The slice event ring (R503, R507, R509) -/

/-- A slice event. -/
structure SlEv where
  kind : Nat
  status : BitVec 16
  strand : Nat := 0
  location : Word := 0
  aux : Word := 0
  /-- The core's CYCLE; where none is given, the fabric die's count (R266). -/
  cycle : Option Word := none
  deriving DecidableEq, Repr

/-- A slice's clusters on a die. -/
def clustersOn (sl : Slice) (d : Nat) : List Nat := (sl.clusters.filter (fun c => c.1 = d)).map Prod.snd

/-- CTXOFF of a die (R398). -/
def ctxOff (sl : Slice) (d : Nat) : Nat := leAt sl.desc (72 + 8 * d) 8

/-- Die offset of the debug area of a die (R503). -/
def debugArea (sl : Slice) (d : Nat) : Nat := ctxOff sl d + (clustersOn sl d).length * 0x1900000

/-- The lowest-numbered die on which the slice has a cluster. -/
def ringDie (sl : Slice) : Nat := ((List.range 4).find? (fun d => !(clustersOn sl d).isEmpty)).getD 0

/-- The 64 bytes of an entry (R507). -/
def slEvBytes (seq now : Nat) (cycle : Word) (e : SlEv) : List Byte :=
  leBytes 8 seq ++ leBytes 8 now ++ leBytes 8 cycle.toNat ++ leBytes 1 e.kind ++ leBytes 1 0 ++
  leBytes 2 e.status.toNat ++ leBytes 4 e.strand ++ leBytes 8 e.location.toNat ++ leBytes 8 e.aux.toNat ++ leBytes 16 0

/-- The header line (R507). -/
def slHdrBytes (r : EvRing) : List Byte :=
  leBytes 8 r.made ++ leBytes 4 r.lost ++ leBytes 1 ((if r.frozen then 1 else 0) + (if r.armed.isSome then 2 else 0)) ++
  leBytes 1 (r.armed.getD 0) ++ leBytes 50 0

/-- Enter an event in the ring of the slice in a slot, then write the header line. -/
def postEvent (s : State) (slot : Nat) (e : SlEv) : State :=
  match getSlice s slot with
  | none => s
  | some sl =>
    let r := { sl.evRing with kinds := Tab.upd sl.evRing.kinds e.kind 0 (· + 1) }
    let d := ringDie sl
    let base := debugArea sl d
    if r.frozen || !ownsHbm s d base 16448 sl.id then
      modSlice s slot (fun x => { x with evRing := { r with lost := r.lost + 1 } })
    else
      let hit := decide (r.armed = some e.kind)
      let r' := { r with made := r.made + 1, frozen := hit, armed := if hit then none else r.armed }
      let at_ := base + 64 + 64 * (r.made % 256)
      let s1 := monitorWake (memStore s (memKey d at_) (slEvBytes r.made s.tb.time (e.cycle.getD (domainCycle s 4)) e)) d at_ 64
      let s2 := monitorWake (memStore s1 (memKey d base) (slHdrBytes r')) d base 64
      modSlice s2 slot (fun x => { x with evRing := r' })

/-- Post to the slice with an ID. -/
def postEventId (s : State) (id : BitVec 16) (e : SlEv) : State :=
  match findSlice s id with
  | some x => postEvent s x.1 e
  | none => s

/-! ## Monitor entries (R190) -/

/-- Allocate a monitor entry for a line. -/
def monitorAdd (s : State) (d line : Nat) (t : MonTarget) : State :=
  modEp s d (fun e => { e with monitors := e.monitors ++ [(line, t)] })

def monitorDrop (s : State) (d : Nat) (t : MonTarget) : State :=
  modEp s d (fun e => { e with monitors := e.monitors.filter (fun m => m.2 ≠ t) })

/-! ## Registers of a strand (R69, R73) -/

def rd (st : Strand) (r : BitVec 6) : Word := if r = 0 then 0 else Tab.getD st.regs r.toNat 0

/-- Write a scalar register; a write to s0 is discarded. -/
def wr (st : Strand) (r : BitVec 6) (v : Word) : Strand :=
  if r = 0 then st
  else { st with
    regs := Tab.set st.regs r.toNat v
    badRegs := st.badRegs.filter (fun k => k ≠ r.toNat) }

def rdP (st : Strand) (p : BitVec 3) : Bool := if p = 0 then true else st.preds.getLsbD p.toNat

/-- Write a predicate; a write to p0 is discarded. -/
def wrP (st : Strand) (p : BitVec 3) (v : Bool) : Strand :=
  if p = 0 then st
  else { st with preds := if v then st.preds ||| (1#8 <<< p.toNat) else st.preds &&& ~~~ (1#8 <<< p.toNat) }

def rdTd (st : Strand) (t : BitVec 4) : BitVec 256 := Tab.getD st.tds t.toNat 0

def wrTd (st : Strand) (t : BitVec 4) (v : BitVec 256) : Strand := { st with tds := Tab.set st.tds t.toNat v }

def rdKey (st : Strand) (k : BitVec 2) : Word := Tab.getD st.keys k.toNat 0

/-! ## Barriers (R99) -/

/-- A strand that leaves WAIT otherwise than by release no longer counts as arrived; a barrier all of whose strands have left resets. -/
def barrierLeave (s : State) (p : Pos) : State :=
  modCore s (coreOf p) (fun k => { k with
    barriers := (k.barriers.map (fun b => (b.1, { b.2 with arrived := b.2.arrived.filter (fun x => x != p.strand.val) }))).filter
      (fun b => !b.2.arrived.isEmpty) })

/-! ## Compute dies' duty and budget (R450 to R456) -/

/-- The engine and vector duty in sixteenths. -/
def dieDuty (s : State) (d : Nat) : Nat :=
  if !dieOn s d then 0 else if atFloor s then 0 else min s.pw.selfBrake ((getPwDie s d).thrDuty.getD 16)

/-- Stack slots of a die that are HOT or in HOLD. -/
def dieHot (s : State) (d : Nat) : Nat := ((List.range 4).map (fun k => if 2 ≤ (getStack s (4 * d + k)).therm then 2 ^ k else 0)).sum

/-- The die budget in force, in W (R440, R454, R456). -/
def dieBudget (s : State) (d : Nat) : Nat :=
  let x := getPwDie s d
  if !dieOn s d then 0 else (if dieHot s d = 0 then x.cutW else x.cutW * 3 / 4) - x.lendW

/-! ## Taking a trap (R103, R105, R106) -/

def cIllegal : Nat := 0x01
def cFetch : Nat := 0x02
def cMisaligned : Nat := 0x03
def cLocalRange : Nat := 0x04
def cTileFormat : Nat := 0x05
def cBlockAlign : Nat := 0x06
def cAnchor : Nat := 0x07
def cExact : Nat := 0x08
def cCounter : Nat := 0x09
def cBarrier : Nat := 0x0A
def cSwTrap : Nat := 0x0B
def cDouble : Nat := 0x0C
def cViolation : Nat := 0x20
def cPoisoned : Nat := 0x21
def cIndeterminate : Nat := 0x22
def cTimeout : Nat := 0x23
def cLocalUnc : Nat := 0x24

/-- The registers a cause is recorded in (R70, R72): EPC holds bits [63:2]. -/
def recordCause (st : Strand) (cause : Nat) (async : Bool) (epc tval : Word) : Strand :=
  { st with epc := epc &&& ~~~ 3#64, code := BitVec.ofNat 8 cause, async := async, tval := tval }

/-- Post an unhandled trap or a freeze: the slice's ring and the core's source (R103, R177, R487, R507). -/
def postStrand (s : State) (p : Pos) (kind : Nat) (cause : Nat) (epc tval : Word) : State :=
  let s := touchCycle s (coreOf p)
  let cyc := cycleWord (getCore s (coreOf p))
  let id := strandSliceId s p
  let s := postEventId s id
    { kind := kind, status := BitVec.ofNat 16 cause, strand := strandIdLow p, location := epc, aux := tval, cycle := some cyc }
  recordSlice s { source := srcCore (coreOf p), event := evStrandFault, status := BitVec.ofNat 16 cause, location := tval, cycle := some cyc } id

/-- Whether a recorded cause enters the handler (R103). -/
def handles (st : Strand) : Bool := st.tvec.getLsbD 0 && !st.inHandler

/-- A strand takes a handleable cause (R103). -/
def takeTrap (s : State) (p : Pos) (cause : Nat) (async : Bool) (epc tval : Word) : State :=
  let st := getStrand s p
  let s := barrierLeave s p
  if handles st then
    modStrand s p (fun st =>
      { recordCause st cause async epc tval with
        inHandler := true, pc := st.tvec &&& ~~~ 3#64, st := .ready, wait := .nothing, deadline := none })
  else
    let code := if st.inHandler then cDouble else cause
    let f := takeFree s
    let tv := if st.inHandler then f.1 else tval
    let s := if st.inHandler then f.2 else s
    let s := modStrand s p (fun st =>
      { recordCause st code async epc tv with st := .trapped, wait := .nothing, deadline := none })
    postStrand s p 0x01 code epc tv

/-- A trap with no address: TVAL is a free value (log entry 13). -/
def takeTrapFree (s : State) (p : Pos) (cause : Nat) (async : Bool) (epc : Word) : State :=
  let f := takeFree s
  takeTrap f.2 p cause async epc f.1

end Sys2Proof.Machine
end

