-- ==== Sys2Proof/Machine/RouteOps.lean ====
section
/-! DEFINITION. Coordinates, peers, route banks, the flooding of notices, and the decode of a request's destination (R161, R267 to R278, R286, R287, R296, R297). -/

namespace Sys2Proof.Machine

/-- First optical engine of a dimension (R269). -/
def Dim.base : Dim → Nat
  | .x => 0
  | .y => 3
  | .z => 8
  | .w => 13

/-- The dimension an optical engine serves (R269). -/
def oeDim (k : Nat) : Dim := if k < 3 then .x else if k < 8 then .y else if k < 13 then .z else .w

/-- The peer coordinate in the engine's slot (R269). -/
def oePeerCoord (s : State) (k : Nat) : Nat :=
  let d := oeDim k
  let j := k - d.base
  if j < coordGet (hereC s) d then j else j + 1

/-- The peer module of an optical engine. -/
def oePeer (s : State) (k : Nat) : Coord := coordSet (hereC s) (oeDim k) (oePeerCoord s k)

/-- The optical engine towards a module that differs in exactly one dimension. -/
def oeTowards (s : State) (d : Dim) (v : Nat) : Nat :=
  d.base + (if v < coordGet (hereC s) d then v else v - 1)

/-- Dimensions in which two modules differ, in the order W, X, Y, Z. -/
def diffDims (a b : Coord) : List Dim := dims.filter (fun d => coordGet a d ≠ coordGet b d)

/-! ## Banks (R286, R287) -/

inductive EntrySt where
  | absent | inService | shadow | excluded
  deriving DecidableEq, Repr

def entryIx (c : Coord) : Nat := ((c.w * 4 + c.x) * 6 + c.y) * 6 + c.z

def bankEntry (b : Bank) (c : Coord) : BitVec 16 := b.entries.getD (entryIx c) 0

def entrySt (e : BitVec 16) : EntrySt :=
  match (e.extractLsb' 14 2).toNat with
  | 0 => .absent
  | 1 => .inService
  | 2 => .shadow
  | _ => .excluded

/-- MASK names a dimension: [3] W, [2] X, [1] Y, [0] Z. -/
def entryMask (e : BitVec 16) (d : Dim) : Bool := e.getLsbD (3 - d.code)

def isLost (s : State) (c : Coord) : Bool := s.net.route.lost.contains c

/-! ## Groups and flooding -/

def getOe (s : State) (k : Nat) : LinkGrp := Tab.getD s.net.route.groups k {}

def modOe (s : State) (k : Nat) (f : LinkGrp → LinkGrp) : State :=
  modRoute s (fun r => { r with groups := Tab.upd r.groups k {} f })

/-- Ports of a group in service: ACTIVE (R271, R347). -/
def oePortsUp (s : State) (k : Nat) : List Nat := ([4 * k, 4 * k + 1, 4 * k + 2, 4 * k + 3]).filter (fun p => (getLink s p).st = .active)

/-- One port in service of every UP group except one, the lowest of each (R296; log entry 14). -/
def floodPorts (s : State) (except : Option Nat) : List Nat :=
  (List.range 16).filterMap (fun k =>
    if some k = except || (getOe s k).st ≠ .up then none else (oePortsUp s k).head?)

/-- Send a packet on one port of every UP group except the one it arrived on. -/
def flood (s : State) (except : Option Nat) (opcode : BitVec 8) (payload : List Byte) : State :=
  emitAll s ((floodPorts s except).map (fun p => .neighbour p opcode payload))

/-- Eight bytes of a module's node number with endpoint 4. -/
def coordBytes (c : Coord) : List Byte := leBytes 4 (coordNode c 4).toNat

/-! ## Ways within the module (R16 to R18) -/

/-- Links of the path of a pair of dies (R17), numbered as R486 numbers them. -/
def d2dPath (a b : Nat) : List Nat :=
  let lo := min a b
  let hi := max a b
  if lo = 0 && hi = 1 then [0]
  else if lo = 1 && hi = 3 then [1]
  else if lo = 2 && hi = 3 then [2]
  else if lo = 0 && hi = 2 then [3]
  else if lo = 0 && hi = 3 then [0, 1]
  else if lo = 1 && hi = 2 then [0, 3]
  else []

/-- A pair is to travel over its FD connections and the switch core while a link of its path has failed (R18). -/
def pairMoved (s : State) (a b : Nat) : Bool := (d2dPath a b).any (fun k => s.compute.d2dFailed.getLsbD k)

/-- A pair of dies, lower first. -/
def diePair (a b : Nat) : Nat × Nat := (min a b, max a b)

/-- Where an access of two compute endpoints of this module stands: their dies; none for any other access. -/
def ownDies (s : State) (src dst : BitVec 20) : Option (Nat × Nat) :=
  if isHere s src && isHere s dst && decide (nodeEp src < 4) && decide (nodeEp dst < 4) then some (nodeEp src, nodeEp dst) else none

/-- The die-to-die links that a packet takes: none within one die; no such way for a moved pair, or for an endpoint that no such link reaches (R17). -/
def linksOf (s : State) (src dst : BitVec 20) : Option (List Nat) :=
  match ownDies s src dst with
  | some (a, b) => if s.compute.viaSwitch.contains (diePair a b) then none else some (d2dPath a b)
  | none => none

/-- Accesses of a pair of dies that await their response. -/
def pairAccesses (s : State) (a b : Nat) : List Outst :=
  ((getEp s a).outst.filter (fun o => isHere s o.dst && nodeEp o.dst = b)) ++ ((getEp s b).outst.filter (fun o => isHere s o.dst && nodeEp o.dst = a))

/-- The pair is to change its way, and accesses already sent on the old one are not complete: it sends nothing new (R18). -/
def pairDrains (s : State) (src dst : BitVec 20) : Bool :=
  match ownDies s src dst with
  | some (a, b) => pairMoved s a b ≠ s.compute.viaSwitch.contains (diePair a b) && !(pairAccesses s a b).isEmpty
  | none => false

/-- A drained pair takes the way that its links allow. -/
def settlePair (s : State) (src dst : BitVec 20) : State :=
  match ownDies s src dst with
  | some (a, b) =>
    let rest := s.compute.viaSwitch.filter (fun x => x ≠ diePair a b)
    { s with compute := { s.compute with viaSwitch := if pairMoved s a b then rest ++ [diePair a b] else rest } }
  | none => s

/-- A request as it leaves its source. -/
def requestOut (s : State) (dst : BitVec 20) (r : Req) : Emit :=
  match linksOf s r.src dst with
  | some l => .inside l dst r
  | none => .request dst r

/-- A response as it leaves the home of the request's address. -/
def responseOut (s : State) (home dst : BitVec 20) (r : Resp) : Emit :=
  match linksOf s home dst with
  | some l => .insideResp l dst r
  | none => .response dst r

/-! ## The source's decode (R161, R297) -/

/-- What the source's decode of a request answers: send it, or complete it at once. -/
inductive Decode161 where
  | send
  | violation
  | poisoned
  deriving DecidableEq, Repr

/-- R161, and the lost set of R297. -/
def decodeReq (s : State) (a : Word) : Decode161 :=
  let n := addrNode a
  if a.extractLsb' 62 2 ≠ 0 then .violation
  else if nodeEp n > 4 then .violation
  else match s.net.route.cur with
    | none => if isHere s n then .send else .violation
    | some b =>
      if !inExtent b (nodeCoord n) then .violation
      else match entrySt (bankEntry b (nodeCoord n)) with
        | .absent | .excluded => .poisoned
        | _ => if isLost s (nodeCoord n) then .poisoned else .send

end Sys2Proof.Machine
end

