-- ==== Sys2Proof/Machine/FlowOps.lean ====
section
/-! DEFINITION. Flow contexts: finding, opening, using and closing them, and the requests they carry (R171, R180, R202 to R204, R314). -/

namespace Sys2Proof.Machine

/-- Contexts of the module (R202). -/
def flowTotal : Nat := 1048576

/-- Receive contexts of request flows, at the homes of the five endpoints (R202). -/
def homeContexts (s : State) : List HomeFlow := ((List.range 5).flatMap (fun ep => (getEp s ep).homeFlows)).filter (fun h => !h.closed)

/-- Contexts a slice holds on the module, of either kind and either end (R202). -/
def flowsHeld (s : State) (id : BitVec 16) : Nat :=
  (s.fab.flows.filter (fun f => f.2.slice = id)).length + (s.fab.recvFlows.filter (fun f => f.slice = id)).length +
  ((homeContexts s).filter (fun h => h.slice = id)).length

/-- Contexts in use (R202, R213). -/
def flowsInUse (s : State) : Nat := s.fab.flows.length + s.fab.recvFlows.length + (homeContexts s).length

def getFlow (s : State) (k : Nat) : Option Flow := Tab.find s.fab.flows k

def modFlow (s : State) (k : Nat) (f : Flow → Flow) : State :=
  match getFlow s k with
  | some x => { s with fab := { s.fab with flows := Tab.set s.fab.flows k (f x) } }
  | none => s

/-- The flow of a kind that joins two endpoints for a slice, if the source holds one. -/
def findFlow (s : State) (bulk : Bool) (slice : BitVec 16) (src dst : BitVec 20) : Option (Nat × Flow) :=
  s.fab.flows.find? (fun f => f.2.bulk = bulk && f.2.slice = slice && f.2.src = src && f.2.dst = dst)

/-- A C4 packet that is resent until its reply arrives (R205, R232). -/
def sendC4 (s : State) (dst : BitVec 20) (opcode : BitVec 8) (slice : BitVec 16) (key : Nat) (data : List Byte) : State :=
  let s := emit s (.c4 dst opcode slice key data)
  { s with fab := { s.fab with
      c4 := s.fab.c4 ++ [{ id := s.fab.nextId, dst := dst, opcode := opcode, slice := slice, key := key, data := data, sent := s.tb.time }]
      nextId := s.fab.nextId + 1 } }

/-- A C4 packet that has its reply. -/
def dropC4 (s : State) (opcode : BitVec 8) (key : Nat) : State :=
  { s with fab := { s.fab with c4 := s.fab.c4.filter (fun c => !(c.opcode = opcode && c.key = key)) } }

/-- What FLOW_OPEN carries: the kind, the slice and the initial sequence (R203). -/
def flowOpenBytes (bulk : Bool) (slice : BitVec 16) (seq : BitVec 24) : List Byte :=
  leBytes 1 (if bulk then 1 else 0) ++ leBytes 2 slice.toNat ++ leBytes 3 seq.toNat

/-- The node of the fabric die that serves an endpoint. -/
def fdOf (n : BitVec 20) : BitVec 20 := BitVec.ofNat 20 (n.toNat / 16 * 16 + 4)

def bumpFlowCtr (s : State) (id : BitVec 16) (d k n : Nat) : State :=
  match findSlice s id with
  | some e => modSlice s e.1 (fun x => { x with flowCtrs := Tab.upd x.flowCtrs (8 * d + k) 0 (fun v => v + BitVec.ofNat 64 n) })
  | none => s

/-- Whether a slice may open one more context (R202, R401). -/
def mayOpen (s : State) (id : BitVec 16) : Bool :=
  match findSlice s id with
  | some e => decide (flowsHeld s id < e.2.maxFlows) && decide (flowsInUse s < flowTotal)
  | none => false

/-- A number is not reopened towards a peer within 1 ms of closing (R204). -/
def numberRests (s : State) (k : Nat) : Bool :=
  s.fab.closed.any (fun c => c.1 = k && decide (s.tb.time < c.2 + msU))

/-- A context that no flow uses, at either end, and whose number does not rest (R202, R204). -/
def contextFree (s : State) (k : Nat) : Bool :=
  (Tab.find s.fab.flows k).isNone && !s.fab.recvFlows.any (fun f => f.recv.toNat = k) && !(homeContexts s).any (fun h => h.recv.toNat = k) && !numberRests s k

/-- A free context of the module's own choosing: the wish where it is free, else the least free one; of the contexts in use and at rest, and one more, one is free. -/
def pickContext (s : State) (wish : Nat) : Option Nat :=
  if contextFree s (wish % flowTotal) then some (wish % flowTotal)
  else (List.range (min flowTotal (flowsInUse s + s.fab.closed.length + 1))).find? (contextFree s)

/-- Open a flow: the number is the module's choice among the free ones and the first sequence a draw (R203). No context free: none. -/
def openFlow (s : State) (bulk : Bool) (slice : BitVec 16) (src dst : BitVec 20) : Option (Nat × State) :=
  if !mayOpen s slice then none
  else
    let w := takeFree s
    match pickContext s w.1.toNat with
    | none => none
    | some k =>
      let q := takeFree w.2
      let seq := q.1.setWidth 24
      let fl : Flow := { bulk := bulk, slice := slice, src := src, dst := dst, st := .opening, seqNext := seq, since := s.tb.time, lastUse := s.tb.time, cum := seq }
      let s1 := { q.2 with fab := { q.2.fab with flows := Tab.set q.2.fab.flows k fl } }
      some (k, bumpFlowCtr (sendC4 s1 (fdOf dst) 0xB0 slice k (flowOpenBytes bulk slice seq)) slice (nodeEp src) 7 1)

/-- Free a send context and remember when (R204). -/
def freeFlow (s : State) (k : Nat) : State :=
  { s with fab := { s.fab with
      flows := Tab.erase s.fab.flows k
      closed := (s.fab.closed.filter (fun c => s.tb.time < c.2 + msU)) ++ [(k, s.tb.time)]
      c4 := s.fab.c4.filter (fun c => !(c.opcode = 0xB0#8 && c.key = k)) } }

/-- Close a flow: FLOW_CLOSE goes to the destination and the context is freed (R204). -/
def closeFlow (s : State) (k : Nat) : State :=
  match getFlow s k with
  | some f => freeFlow (emit s (.c4 (fdOf f.dst) 0xB3 f.slice k [])) k
  | none => s

/-! ## Requests (R161, R171, R180, R187, R314) -/

/-- Requests of a flow that await a response. -/
def flowOutstanding (s : State) (d : Nat) (flow : BitVec 20) : Nat :=
  ((getEp s d).outst.filter (fun o => o.req.flow = flow)).length

/-- Room for one more request on a flow and at the endpoint, and no drain of its pair of dies (R18, R171, R187, R314). -/
def creditFor (s : State) (d k : Nat) : Bool :=
  match getFlow s k with
  | some f =>
    f.st = .opened && decide (flowOutstanding s d (BitVec.ofNat 20 k) < min 1024 f.cw) &&
    decide ((getEp s d).outst.length < 8192) && !pairDrains s f.src f.dst
  | none => false

/-- Send one request on an open flow. -/
def sendRequest (s : State) (d k : Nat) (f : Flow) (opcode : BitVec 8) (addr key : Word) (data : List Byte)
    (comb : Bool) (m : Master) (dest : RespDest) (isLoad : Bool) : State :=
  let r : Req := { src := f.src, flow := BitVec.ofNat 20 k, seq := f.seqNext, slice := f.slice, opcode := opcode, addr := addr, key := key, data := data, comb := comb, crowd := false, parts := [], flags := 0 }
  let s := settlePair s f.src f.dst
  let o : Outst := { id := s.fab.nextId, dst := f.dst, req := r, master := m, dest := dest, isLoad := isLoad, sent := s.tb.time }
  let s := modEp s d (fun e => { e with outst := e.outst ++ [o] })
  let s := modFlow s k (fun f => { f with seqNext := f.seqNext + 1, lastUse := s.tb.time })
  let s := { s with fab := { s.fab with nextId := s.fab.nextId + 1 } }
  let s := bumpFlowCtr s f.slice d 0 1
  emit s (requestOut s f.dst r)

end Sys2Proof.Machine
end

