-- ==== Sys2Proof/Machine/Cipher.lean ====
section
/-! DEFINITION. The ciphers and key derivations that the spec takes from published standards: AES-256 and its Galois/Counter Mode, HMAC-SHA-384 and HKDF-SHA-384 (R339, R352, R363, R374, R423, R431). -/

namespace Sys2Proof.Machine

/-! ## AES-256 (FIPS 197); bytes are numbers below 256 -/

/-- The substitution table, 32 bytes a line, byte i of a line at its bits 8i + 7 to 8i. -/
def aesTable : List Nat :=
  [0xC072A49CAFA2D4ADF04759FA7DC982CA76ABD7FE2B670130C56F6BF27B777C63,
   0x75B227EBE28012079A059618C323C7041531D871F1E5A534CCF73F362693FDB7,
   0xCF584C4A39BECB6A5BB1FC20ED00D153842FE329B3D63B52A05A6E1B1A2C8309,
   0xD2F3FF1021DAB6BCF5389D928F40A351A89F3C507F02F94585334D43FBAAEFD0,
   0xDB0B5EDE14B8EE4688902A22DC4F816073195D643D7EA7C41744975FEC130CCD,
   0x08AE7A65EAF4566CA94ED58D6D37C8E779E4959162ACD3C25C2406490A3A32E0,
   0x9E1DC186B95735610EF6034866B53E708A8BBD4B1F74DDE8C6B4A61C2E2578BA,
   0x16BB54B00F2D99416842E6BF0D89A18CDF2855CEE9871E9B948ED9691198F8E1]

def aesSub (a : Nat) : Nat := (aesTable.getD (a / 32) 0 >>> (8 * (a % 32))) % 256

/-- Multiply by x, modulo x^8 + x^4 + x^3 + x + 1. -/
def aesTimesX (a : Nat) : Nat := if 128 ≤ a then (2 * a) ^^^ 0x11B else 2 * a

/-- Byte-wise exclusive or. -/
def xorNats (a b : List Nat) : List Nat := List.zipWith (· ^^^ ·) a b

/-- The next word of the key schedule from the words before it, the newest first: `i` is its number. -/
def aesNextWord (i : Nat) (ws : List (List Nat)) : List Nat :=
  let t := ws.headD []
  let t :=
    if i % 8 = 0 then xorNats ((t.drop 1 ++ t.take 1).map aesSub) [2 ^ (i / 8 - 1), 0, 0, 0]
    else if i % 8 = 4 then t.map aesSub
    else t
  xorNats (ws.getD 7 []) t

/-- The 60 words that a key of 32 bytes expands to. -/
def aesSchedule (key : List Nat) : List (List Nat) :=
  let start := ((List.range 8).map (fun i => (key.drop (4 * i)).take 4)).reverse
  ((List.range 52).foldl (fun ws i => aesNextWord (i + 8) ws :: ws) start).reverse

/-- The 15 round keys, of 16 bytes each. -/
def aesRoundKeys (key : List Nat) : List (List Nat) :=
  let ws := aesSchedule key
  (List.range 15).map (fun r => ((ws.drop (4 * r)).take 4).flatten)

/-- Row r of the state, whose columns are its runs of four bytes, moves r places. -/
def aesShiftRows (x : List Nat) : List Nat := (List.range 16).map (fun k => x.getD ((k + 4 * (k % 4)) % 16) 0)

def aesMixColumn (c : List Nat) : List Nat :=
  let e := fun i => c.getD (i % 4) 0
  (List.range 4).map (fun i => aesTimesX (e i) ^^^ aesTimesX (e (i + 1)) ^^^ e (i + 1) ^^^ e (i + 2) ^^^ e (i + 3))

def aesMix (x : List Nat) : List Nat := (List.range 4).flatMap (fun c => aesMixColumn ((x.drop (4 * c)).take 4))

/-- The rounds after the first key: the last mixes no columns. -/
def aesRounds : List (List Nat) → List Nat → List Nat
  | [], x => x
  | [k], x => xorNats (aesShiftRows (x.map aesSub)) k
  | k :: ks, x => aesRounds ks (xorNats (aesMix (aesShiftRows (x.map aesSub))) k)

/-- One block of 16 bytes. -/
def aesBlock (keys : List (List Nat)) (x : List Nat) : List Nat := aesRounds keys.tail (xorNats x (keys.headD []))

/-! ## Galois/Counter Mode (NIST SP 800-38D) -/

/-- The number whose most significant byte comes first, and its bytes. -/
def beNat (l : List Nat) : Nat := l.foldl (fun n b => 256 * n + b) 0

def beBytes (n v : Nat) : List Nat := (List.range n).map (fun i => (v >>> (8 * (n - 1 - i))) % 256)

/-- The product of two elements of the field of 2^128, the first bit the most significant. -/
def ghashMul (x y : Nat) : Nat :=
  ((List.range 128).foldl (fun (zv : Nat × Nat) i =>
    (if x.testBit (127 - i) then zv.1 ^^^ zv.2 else zv.1, if zv.2 % 2 = 1 then (zv.2 / 2) ^^^ (0xE1 <<< 120) else zv.2 / 2)) (0, y)).1

/-- Zeros up to whole blocks of 16. -/
def padBlock (l : List Nat) : List Nat := l ++ List.replicate ((16 - l.length % 16) % 16) 0

def ghash (h : Nat) (l : List Nat) : Nat :=
  (List.range (l.length / 16)).foldl (fun y i => ghashMul (y ^^^ beNat ((l.drop (16 * i)).take 16)) h) 0

/-- The key stream under a nonce of 12 bytes, from its second counter value. -/
def gcmStream (keys : List (List Nat)) (nonce : List Nat) (n : Nat) : List Nat :=
  ((List.range ((n + 15) / 16)).flatMap (fun i => aesBlock keys (nonce ++ beBytes 4 (i + 2)))).take n

/-- Encrypt and authenticate: the ciphertext and the tag of 16 bytes. -/
def gcmSealNats (key nonce aad plain : List Nat) : List Nat × List Nat :=
  let keys := aesRoundKeys key
  let c := xorNats plain (gcmStream keys nonce plain.length)
  let h := beNat (aesBlock keys (List.replicate 16 0))
  let y := ghash h (padBlock aad ++ padBlock c ++ beBytes 8 (8 * aad.length) ++ beBytes 8 (8 * c.length))
  (c, xorNats (beBytes 16 y) (aesBlock keys (nonce ++ beBytes 4 1)))

def natsOf (l : List Byte) : List Nat := l.map BitVec.toNat
def bytesOf (l : List Nat) : List Byte := l.map (BitVec.ofNat 8)

/-- AES-256-GCM over bytes: ciphertext and tag. -/
def gcmSeal (key nonce aad plain : List Byte) : List Byte × List Byte :=
  let r := gcmSealNats (natsOf key) (natsOf nonce) (natsOf aad) (natsOf plain)
  (bytesOf r.1, bytesOf r.2)

/-- The plaintext of a ciphertext, whatever its tag. -/
def gcmOpen (key nonce c : List Byte) : List Byte :=
  bytesOf (xorNats (natsOf c) (gcmStream (aesRoundKeys (natsOf key)) (natsOf nonce) c.length))

/-! ## HMAC-SHA-384 (IETF RFC 2104) and HKDF-SHA-384 (IETF RFC 5869) -/

def hmac384 (key msg : List Byte) : List Byte :=
  let k := padTo 128 (if 128 < key.length then sha384 key else key)
  sha384 (k.map (· ^^^ 0x5C) ++ sha384 (k.map (· ^^^ 0x36) ++ msg))

/-- Blocks 1 to n of the expansion, the last first. -/
def hkdfBlocks (prk info : List Byte) : Nat → List (List Byte)
  | 0 => []
  | n + 1 =>
    let bs := hkdfBlocks prk info n
    hmac384 prk (bs.headD [] ++ info ++ leBytes 1 (n + 1)) :: bs

/-- `n` bytes derived from input keying material, a salt and an info string; an empty salt is 48 zeros. -/
def hkdf384 (ikm salt info : List Byte) (n : Nat) : List Byte :=
  let prk := hmac384 (if salt.isEmpty then List.replicate 48 0 else salt) ikm
  ((hkdfBlocks prk info ((n + 47) / 48)).reverse.flatten).take n

/-- "frb40-" in ASCII, with which every info string begins. -/
def infoPrefix : List Byte := [0x66, 0x72, 0x62, 0x34, 0x30, 0x2D]

/-- "frb40-link-v1" (R352), "frb40-host-v1" (R363) and "frb40-slice-v1" (R423). -/
def infoLink : List Byte := infoPrefix ++ [0x6C, 0x69, 0x6E, 0x6B, 0x2D, 0x76, 0x31]
def infoHost : List Byte := infoPrefix ++ [0x68, 0x6F, 0x73, 0x74, 0x2D, 0x76, 0x31]
def infoSlice : List Byte := infoPrefix ++ [0x73, 0x6C, 0x69, 0x63, 0x65, 0x2D, 0x76, 0x31]

end Sys2Proof.Machine
end

