-- ==== Sys2Proof/Machine/LinkOps.lean ====
section
/-! DEFINITION. What every link port does: its counters, the segments it sends and keeps, its keys, and the packets of the host link (R339, R342, R343, R352, R353, R362, R363, R370, R374, R504). -/

namespace Sys2Proof.Machine

/-- Bytes of the trust core's own making: random values, public keys, signatures (log entry 3). -/
def takeBytes (s : State) (n : Nat) : List Byte × State := ((List.range n).map (fun i => Config.freeByte s.freeCtr i), { s with freeCtr := s.freeCtr + 1 })

/-- Count on one of a port's counters (R504). -/
def bumpPort (s : State) (port k n : Nat) : State :=
  { s with net := { s.net with portCtrs := Tab.upd s.net.portCtrs (8 * port + k) 0 (fun v => v + BitVec.ofNat 64 n) } }

/-- STATE of a port (R347). -/
def portCode : PortSt → Nat
  | .off => 0
  | .light => 1
  | .lock => 2
  | .eq => 3
  | .deskew => 4
  | .keying => 5
  | .ident => 6
  | .active => 7
  | .miswired => 8
  | .authFailed => 9
  | .levelFailed => 10

/-! ## Segments (R339, R343) -/

/-- Bytes a segment takes in the replay buffer: its blocks and its two tags. -/
def segBytes (g : Seg) : Nat := 8 * (g.blocks + 2)

def replayBytes (l : LinkPort) : Nat := (l.replay.map segBytes).sum

/-- Room in the 96 KiB replay buffer for `n` bytes more. -/
def replayRoom (l : LinkPort) (n : Nat) : Bool := decide (replayBytes l + n ≤ 98304)

/-- Send one segment and keep it until it is acknowledged (R339, R342). -/
def sendSegment (s : State) (port blocks : Nat) (items : List SegItem) : State :=
  let l := getLink s port
  let g : Seg := { sseq := l.txSseq, kph := l.kph, blocks := blocks, items := items }
  let s := modLink s port (fun l => { l with txSseq := l.txSseq + 1, replay := l.replay ++ [g] })
  emit s (.segment port g)

/-- Send blocks as segments: each but the last is full of its blocks, and the last completes what they carry (R334, R339). -/
def sendSegments (port : Nat) (i : SegItem) : Nat → Nat → State → State
  | 0, _, s => s
  | fuel + 1, blocks, s =>
    if blocks ≤ 256 then sendSegment s port blocks [i]
    else sendSegments port i fuel (blocks - 256) (sendSegment s port 256 [])

/-! ## Keys (R352, R353, R363) -/

/-- The time-of-day in seconds, if known (R419). -/
def timeOfDay (s : State) : Option Nat := s.tb.tod.map (fun v => v + s.tb.time / secU)

/-- What the 72 derived bytes give the two ends: the first key and salt are those of the lower node's direction, or of the host's. -/
def splitKeys (b : List Byte) (lower : Bool) : LinkKeys :=
  let k1 := b.take 32
  let k2 := (b.drop 32).take 32
  let s1 := (b.drop 64).take 4
  let s2 := (b.drop 68).take 4
  if lower then { txKey := k1, rxKey := k2, txSalt := s1, rxSalt := s2 } else { txKey := k2, rxKey := k1, txSalt := s2, rxSalt := s1 }

/-- The keys that a shared secret and the two random values give: `lower` is the end whose random value comes first. -/
def deriveKeys (secret own peer info : List Byte) (lower : Bool) : LinkKeys :=
  splitKeys (hkdf384 secret (if lower then own ++ peer else peer ++ own) info 72) lower

/-- The old keys go once no segment under them is wanted and none is held for a resend (R353). -/
def dropOldKeys (l : LinkPort) : LinkPort :=
  if l.newKeys || l.replay.any (fun g => g.kph ≠ l.kph) then l else { l with oldKeys := none }

/-- The keys of a segment of a phase. -/
def keysOf (l : LinkPort) (kph : Bool) : LinkKeys := if kph = l.kph then l.keys else l.oldKeys.getD {}

/-! ## The host link's packets (R362, R370 to R374) -/

/-- The 32-byte header of a status packet (R370, R371). -/
def statusHeader (channel : Nat) (opcode tag slice : BitVec 16) (version : BitVec 4) (st flags : BitVec 16) (length replyLen time : Nat) : List Byte :=
  leBytes 32 (version.toNat + 2 * 2 ^ 4 + opcode.toNat * 2 ^ 8 + channel % 128 * 2 ^ 24 + tag.toNat * 2 ^ 32 + slice.toNat * 2 ^ 48 +
    length % 8192 * 2 ^ 64 + flags.toNat * 2 ^ 80 + st.toNat * 2 ^ 96 + replyLen % 32768 * 2 ^ 112 + time % 2 ^ 64 * 2 ^ 128)

/-- A sealed payload: SCOUNT, the ciphertext and the tag; the header is authenticated and in clear (R374). -/
def sealPayload (key salt header : List Byte) (scount : Nat) (plain : List Byte) : List Byte :=
  let n := leBytes 8 scount
  let r := gcmSeal key (salt ++ n) header plain
  n ++ r.1 ++ r.2

/-- Protected blocks of a packet of the host link: START and its data (R334, R362). -/
def hostBlocks (n : Nat) : Nat := 1 + (n + 7) / 8

/-- Bytes it takes in the replay buffer. -/
def hostSegBytes (n : Nat) : Nat := 8 * hostBlocks n + 16 * ((hostBlocks n + 255) / 256)

/-- A status packet goes out on the host link; the segment that ends it is noted for the completion notice it is (R380). -/
def sendHostPkt (s : State) (x : HostPkt) : State :=
  let s := sendSegments 64 (.host x.bytes false) 4 (hostBlocks x.bytes.length) (bumpPort s 64 0 x.bytes.length)
  match x.notice with
  | some n => modChan s n.1 (fun c => { c with tags := c.tags.map (fun y => if y.tag = n.2 then { y with notice := some ((getLink s 64).kph, (getLink s 64).txSseq - 1) } else y) })
  | none => s

/-- Status packets that wait go out while the replay buffer has room (R343). -/
def pumpHost : Nat → State → State
  | 0, s => s
  | fuel + 1, s =>
    match s.ctl.hl.outbox with
    | [] => s
    | x :: rest =>
      if replayRoom (getLink s 64) (hostSegBytes x.bytes.length) then
        pumpHost fuel (sendHostPkt { s with ctl := { s.ctl with hl := { s.ctl.hl with outbox := rest } } } x)
      else s

/-- An ACK covers the segments up to one: the completion notices they end are delivered (R380). -/
def noticesDone (s : State) (acked : List (Bool × Nat)) : State :=
  { s with ctl := { s.ctl with channels := Tab.mapVals s.ctl.channels (fun _ c => { c with tags := c.tags.map (fun y =>
      match y.notice with
      | some n => if acked.contains n then { y with delivered := y.delivered ++ [0], notice := none } else y
      | none => y) }) } }

/-- The host link leaves service: status packets not acknowledged are lost (R364). -/
def hostLost (s : State) : State :=
  { s with ctl := { s.ctl with
      hl := { s.ctl.hl with outbox := [], cells := 0, cellsSent := 0 }
      channels := Tab.mapVals s.ctl.channels (fun _ c => { c with tags := c.tags.map (fun y => { y with notice := none }) }) } }

/-- Cells of 128 bytes of a packet (R303, R362). -/
def hostCells (n : Nat) : Nat := (n + 127) / 128

/-- The CREDIT block that is due goes out while the replay buffer has room (R306). -/
def pushHostCredit (s : State) : State :=
  let c := s.ctl.hl.cells
  if c ≠ s.ctl.hl.cellsSent && replayRoom (getLink s 64) 24 then
    sendSegment { s with ctl := { s.ctl with hl := { s.ctl.hl with cellsSent := c } } } 64 1 [.credit 0 c]
  else s

/-- A packet of the host link has come: its cells go back to the adapter (R306, R362). -/
def hostArrives (s : State) (bytes : Nat) : State :=
  let s := bumpPort s 64 1 bytes
  pushHostCredit { s with ctl := { s.ctl with hl := { s.ctl.hl with cells := s.ctl.hl.cells + BitVec.ofNat 16 (hostCells bytes) } } }

/-- An ACK on the host link: the notices it covers are delivered, and what waits goes out. -/
def hostAcked (s : State) (acked : List (Bool × Nat)) : State :=
  let s := pushHostCredit (noticesDone s acked)
  pumpHost s.ctl.hl.outbox.length s

end Sys2Proof.Machine
end

