-- ==== Sys2Proof/Machine/HostSend.lean ====
section
/-! DEFINITION. What the host link sends back: status packets and terminal statuses (R370, R372, R379, R381, R434). -/

namespace Sys2Proof.Machine

def bitN (b : Bool) : Nat := if b then 1 else 0

/-- The slice of a channel holds an open session. -/
def chanSession (s : State) (c : Nat) : Bool :=
  match getSlice s c with
  | some sl => sl.session.isSome
  | none => false

/-! ## Status packets (R370, R372, R379) -/

def partBytes : Nat := 4032

/-- FLAGS of R372. -/
def hlFlags (more repeated rejected isSealed : Bool) : BitVec 16 :=
  BitVec.ofNat 16 (putN (bitN more) 5 1 + putN (bitN repeated) 4 1 + putN (bitN rejected) 3 1 + putN (bitN isSealed) 1 1)

/-- Count payload bytes of a slice channel (R434), a seal's 24 bytes among them. -/
def countHost (s : State) (c n : Nat) : State :=
  modSlice s c (fun sl => { sl with usage := { sl.usage with hostBytes := sl.usage.hostBytes + n } })

/-- The bytes of a status packet, header and payload; under a session the payload is sealed (R370, R374). -/
def statusPacket (s : State) (c : Nat) (opcode tag slice : BitVec 16) (version : BitVec 4) (st flags : BitVec 16) (len : Nat) (bytes : List Byte) : List Byte :=
  match (getSlice s c).bind (fun sl => sl.session) with
  | some x =>
    let h := statusHeader c opcode tag slice version st flags (bytes.length + 24) len s.tb.time
    h ++ sealPayload x.keyOut x.saltOut h (x.scountOut + 1) bytes
  | none => statusHeader c opcode tag slice version st flags bytes.length len s.tb.time ++ bytes

/-- A status packet is issued and goes out on the host link; on a channel whose slice holds a session it is sealed and numbered (R374). One issued while the link is out of service is lost (R364; DESIGN CHOICE, log entry 109). `notice` is the tag whose completion notice it is. -/
def sendStatus (s : State) (c : Nat) (opcode tag slice : BitVec 16) (version : BitVec 4) (st : BitVec 16) (more rejected : Bool) (len : Nat) (bytes : List Byte)
    (notice : Option (BitVec 16)) : State :=
  if (getLink s 64).st ≠ .active then s
  else
    let sealed_ := chanSession s c
    let flags := hlFlags more false rejected sealed_
    let x : HostPkt := { bytes := statusPacket s c opcode tag slice version st flags len bytes, notice := notice.map (fun t => (c, t)) }
    let s := countHost s c (bytes.length + (if sealed_ then 24 else 0))
    let s := modSlice s c (fun sl => { sl with session := sl.session.map (fun x => { x with scountOut := x.scountOut + 1 }) })
    let s := emit s (.status c opcode tag slice version st flags len bytes s.tb.time)
    pumpHost (s.ctl.hl.outbox.length + 1) { s with ctl := { s.ctl with hl := { s.ctl.hl with outbox := s.ctl.hl.outbox ++ [x] } } }

/-! ## Terminal statuses (R379, R381) -/

/-- A tag reaches its terminal status: REL frees it where nothing is left to read, and the completion notice goes with part 0, which is delivered once the adapter's link acknowledges it (R380). -/
def finishTag (s : State) (c : Nat) (tag st : BitVec 16) (bytes : List Byte) : State :=
  match (getChan s c).tags.find? (fun t => t.tag = tag) with
  | none => s
  | some t =>
    let more := decide (partBytes < bytes.length)
    let s := modChan s c (fun x => { x with
      tags := if t.rel && !more then x.tags.filter (fun y => y.tag ≠ tag)
        else x.tags.map (fun y => if y.tag = tag then { y with status := some st, reply := bytes } else y) })
    sendStatus s c t.opcode tag t.slice t.version st more false bytes.length (bytes.take partBytes) (if t.rel && !more then none else some tag)

/-- A pending command of an opcode reaches its terminal status; one that has ended, or been freed, is left as it is. -/
def finishPending (s : State) (c : Nat) (tag opcode st : BitVec 16) : State :=
  if (getChan s c).tags.any (fun t => t.tag = tag && t.opcode = opcode && t.status.isNone) then finishTag s c tag st [] else s

end Sys2Proof.Machine
end

