-- ==== Sys2Proof/Machine/CollOps.lean ====
section
/-! DEFINITION. Groups: the reduction tree, the protocol's packets, retirement of entries and aborts (R214 to R250). -/

namespace Sys2Proof.Machine

/-! ## Descriptor and entry fields (R215, R226) -/

def gGid (d : BitVec 512) : BitVec 16 := d.extractLsb' 0 16
def gOwner (d : BitVec 512) : BitVec 16 := d.extractLsb' 16 16
def gEpoch (d : BitVec 512) : BitVec 8 := d.extractLsb' 32 8
def gAlgv (d : BitVec 512) : Nat := (d.extractLsb' 40 8).toNat
def gNranks (d : BitVec 512) : Nat := (d.extractLsb' 48 12).toNat
def gLog2n (d : BitVec 512) : Nat := (d.extractLsb' 60 4).toNat
def gRlead (d : BitVec 512) : Nat := (d.extractLsb' 64 16).toNat
def gOpto (d : BitVec 512) : Nat := (d.extractLsb' 80 16).toNat
def gQdie (d : BitVec 512) : Nat := (d.extractLsb' 96 2).toNat
def gMapdie (d : BitVec 512) : Nat := (d.extractLsb' 98 2).toNat
def gDrill (d : BitVec 512) : Bool := d.getLsbD 100
def gQbase (d : BitVec 512) : Nat := (d.extractLsb' 128 38).toNat
def gPioff (d : BitVec 512) : Nat := (d.extractLsb' 192 38).toNat
def gCioff (d : BitVec 512) : Nat := (d.extractLsb' 256 38).toNat
def gMapoff (d : BitVec 512) : Nat := (d.extractLsb' 320 38).toNat
def gMapcrc (d : BitVec 512) : BitVec 32 := d.extractLsb' 384 32

def eSrc (e : BitVec 512) : Nat := (e.extractLsb' 0 38).toNat
def eDst (e : BitVec 512) : Nat := (e.extractLsb' 64 38).toNat
def eOp (e : BitVec 512) : Nat := (e.extractLsb' 128 4).toNat
def eFmt (e : BitVec 512) : Nat := (e.extractLsb' 132 4).toNat
def eAnchor (e : BitVec 512) : BitVec 10 := e.extractLsb' 136 10
def eChunk (e : BitVec 512) : Nat := (e.extractLsb' 148 4).toNat
def eRoot (e : BitVec 512) : Nat := (e.extractLsb' 152 12).toNat
def eLength (e : BitVec 512) : Nat := (e.extractLsb' 192 32).toNat
def eTime (e : BitVec 512) : Nat := (e.extractLsb' 256 64).toNat
def eActr (e : BitVec 512) : Nat := (e.extractLsb' 320 14).toNat
def eAcen (e : BitVec 512) : Bool := e.getLsbD 334
def eCcen (e : BitVec 512) : Bool := e.getLsbD 335
def eCctr (e : BitVec 512) : Nat := (e.extractLsb' 336 14).toNat

/-- Chunk bytes (R228). -/
def chunkBytes (e : BitVec 512) : Nat := 1024 * 2 ^ eChunk e

/-- The agreement block, bytes 16 to 39 of an entry (R225). -/
def agreement (e : BitVec 512) : List Byte := leBytes 24 (e.extractLsb' 128 192).toNat

def opAllreduce : Nat := 1
def opReduceScatter : Nat := 2
def opAllgather : Nat := 3
def opBroadcast : Nat := 4
def opAlltoall : Nat := 5
def opBarrier : Nat := 6
def opPaircmp : Nat := 7

/-- The operations that add (R229, R236). -/
def opAdds (op : Nat) : Bool := op = opAllreduce || op = opReduceScatter

/-! ## The tree (R218) -/

/-- FD node of the module that holds a rank's endpoint. -/
def moduleNode (n : BitVec 20) : BitVec 20 := fdOf n

/-- Each member module with its ranks, in the order of its lead rank. -/
def memberRanks (map : List (BitVec 20)) : List (BitVec 20 × List Nat) :=
  let nodes := (map.map moduleNode).foldl (fun acc n => if acc.contains n then acc else acc ++ [n]) []
  nodes.map (fun n => (n, (List.range map.length).filter (fun r => (map.map moduleNode).getD r 0 = n)))

/-- A module still taking part at a level. -/
structure Part where
  node : BitVec 20
  lead : Nat
  ranks : List Nat
  deriving DecidableEq, Repr

/-- Two modules lie in one part of a level: they agree in the other three coordinates. -/
def samePart (d : Dim) (a b : BitVec 20) : Bool :=
  let x := nodeCoord a
  let y := nodeCoord b
  dims.all (fun e => e = d || coordGet x e = coordGet y e)

/-- The collector of a module's part: the lowest lead rank. -/
def collectorOf (d : Dim) (ps : List Part) (p : Part) : Part :=
  (ps.filter (fun q => samePart d q.node p.node)).foldl (fun a q => if q.lead < a.lead then q else a) p

/-- One level: the children it makes, and the modules that go on. -/
def treeLevel (d : Dim) (lvl : Nat) (ps : List Part) : List Member × List Part :=
  ((ps.filter (fun p => (collectorOf d ps p).node ≠ p.node)).map (fun p =>
      { node := p.node, lead := p.lead, ranks := p.ranks, level := lvl, parent := (collectorOf d ps p).node }),
   ps.filter (fun p => (collectorOf d ps p).node = p.node))

/-- The reduction tree of a rank map: levels Z, Y, X, W, then the root at level 4 (R218). -/
def buildTree (map : List (BitVec 20)) : List Member :=
  let p0 := (memberRanks map).map (fun m => ({ node := m.1, lead := m.2.headD 0, ranks := m.2 } : Part))
  let l0 := treeLevel .z 0 p0
  let l1 := treeLevel .y 1 l0.2
  let l2 := treeLevel .x 2 l1.2
  let l3 := treeLevel .w 3 l2.2
  l0.1 ++ l1.1 ++ l2.1 ++ l3.1 ++
    l3.2.map (fun p => { node := p.node, lead := p.lead, ranks := p.ranks, level := 4, parent := p.node })

def memberOf (g : Group) (n : BitVec 20) : Option Member := g.members.find? (fun m => m.node = n)

/-- The root's node. -/
def rootOf (g : Group) : BitVec 20 :=
  match g.members.find? (fun m => m.level = 4) with
  | some m => m.node
  | none => 0

def isRoot (s : State) (g : Group) : Bool := rootOf g = fdNode s

/-- This module's parent. -/
def parentOf (s : State) (g : Group) : BitVec 20 :=
  match memberOf g (fdNode s) with
  | some m => m.parent
  | none => 0

/-- Insert a member in ascending lead rank. -/
def insertLead (m : Member) : List Member → List Member
  | [] => [m]
  | x :: t => if m.lead ≤ x.lead then m :: x :: t else x :: insertLead m t

/-- Members in ascending lead rank. -/
def sortLead (l : List Member) : List Member := l.foldr insertLead []

/-- This module's children, in the order they are added: by level, then lead rank (R219). -/
def childrenOf (s : State) (g : Group) : List Member :=
  let here := fdNode s
  let cs := g.members.filter (fun m => m.parent = here && m.node ≠ here)
  ((List.range 4).map (fun l =>
    sortLead (cs.filter (fun m => m.level = l)))).flatten

/-- Tree levels that send anything (R239). -/
def sendingLevels (g : Group) : Nat := ((List.range 4).filter (fun l => g.members.any (fun m => m.level = l))).length

/-- This module's ranks. -/
def localRanks (s : State) (g : Group) : List Nat :=
  match memberOf g (fdNode s) with
  | some m => m.ranks
  | none => []

/-- The die of a rank's endpoint. -/
def rankDie (g : Group) (r : Nat) : Nat := nodeEp (g.map.getD r 0)

/-- Dies of this module's ranks. -/
def localDies (s : State) (g : Group) : List Nat := (localRanks s g).map (rankDie g)

/-- Clusters of a group's OWNER on the dies of its local ranks. -/
def barClusters (s : State) (g : Group) : List (Nat × Nat) :=
  match findSlice s (gOwner g.desc) with
  | some x => x.2.clusters.filter (fun c => (localDies s g).contains c.1)
  | none => []

/-- The smallest box that covers the member modules, endpoint 4 of each (R220). -/
def groupBox (g : Group) : Box :=
  let cs := g.members.map (fun m => nodeCoord m.node)
  let mask (f : Coord → Nat) : BitVec 16 := cs.foldl (fun b c => b ||| (1#16 <<< f c)) 0
  { epmask := 0x0010, zmask := mask (·.z), ymask := mask (·.y), xmask := mask (·.x), wmask := mask (·.w), stage := 0, reserved := 0 }

/-! ## Packets -/

/-- The prefix of a group's packets (R233). -/
def collHdr (g : Group) (opseq : BitVec 32) (chunk : Nat) (pc : BitVec 32) : CollHdr :=
  { gid := g.gid, gepoch := g.epoch, part := 0, opseq := opseq, chunk := chunk, paramcrc := pc }

def opHdr (g : Group) (o : CollOp) (chunk : Nat) : CollHdr := collHdr g o.opseq chunk o.paramcrc

/-- The 16 bytes of the prefix (R233). -/
def hdrBytes (h : CollHdr) : List Byte :=
  leBytes 2 h.gid.toNat ++ leBytes 1 h.gepoch.toNat ++ leBytes 1 h.part ++ leBytes 4 h.opseq.toNat ++ leBytes 4 h.chunk ++ leBytes 4 h.paramcrc.toNat

/-- A collective C4 packet that is resent until its reply or effect arrives (R232). -/
def sendColl4 (s : State) (dst : BitVec 20) (opcode : BitVec 8) (h : CollHdr) (data : List Byte) : State :=
  let s := emit s (.coll dst opcode h data false)
  { s with fab := { s.fab with
      c4 := s.fab.c4 ++ [{ id := s.fab.nextId, dst := dst, opcode := opcode, key := h.gid.toNat, hdr := some h, data := data, sent := s.tb.time }]
      nextId := s.fab.nextId + 1 } }

/-- A collective packet of class C2, or one with no reply of its own. -/
def sendColl (s : State) (dst : BitVec 20) (opcode : BitVec 8) (h : CollHdr) (data : List Byte) : State :=
  emit s (.coll dst opcode h data false)

/-- Multicast to the member modules, this one apart (R220, R242). -/
def multicast (s : State) (g : Group) (opcode : BitVec 8) (h : CollHdr) (data : List Byte) : State :=
  if g.members.length ≤ 1 then s else emit s (.multicast (groupBox g) opcode h data)

/-- A collective C4 multicast that is resent until its effect is seen (R232). -/
def multicast4 (s : State) (g : Group) (opcode : BitVec 8) (h : CollHdr) (data : List Byte) : State :=
  if g.members.length ≤ 1 then s
  else
    let s := emit s (.multicast (groupBox g) opcode h data)
    { s with fab := { s.fab with
        c4 := s.fab.c4 ++ [{ id := s.fab.nextId, dst := 0xFFFFF, opcode := opcode, key := h.gid.toNat, hdr := some h, box := some (groupBox g), data := data, sent := s.tb.time }]
        nextId := s.fab.nextId + 1 } }

/-- Collective C4 packets that answer a test need no more resending. -/
def dropC4Where (s : State) (hit : C4Out → CollHdr → Bool) : State :=
  { s with fab := { s.fab with
      c4 := s.fab.c4.filter (fun c => match c.hdr with
        | some h => !hit c h
        | none => true) } }

/-- The requests of an operation have had their effect: it has retired here. -/
def dropColl4 (s : State) (gid : BitVec 16) (opseq : BitVec 32) : State := dropC4Where s (fun c h => c.box.isNone && h.gid = gid && h.opseq = opseq)

/-- Every member module is in this operation: GROUP_READY, and the outcomes of earlier ones, have had their effect (R232, log entry 101). -/
def dropSeen (s : State) (g : Group) (opseq : BitVec 32) : State :=
  dropC4Where s (fun c h => c.box.isSome && h.gid = g.gid && (c.opcode = 0xC9 || h.gepoch ≠ g.epoch || h.opseq ≠ opseq))

/-- An outcome has come: the reply to its stand-in has had its effect. -/
def dropReply (s : State) (h : CollHdr) : State := dropC4Where s (fun c k => c.opcode = 0xCF && k.gid = h.gid && k.opseq = h.opseq)

/-- The context of a group ID. -/
def findGroup (s : State) (gid : BitVec 16) : Option (Nat × Group) :=
  s.fab.groups.find? (fun g => g.2.st ≠ .undefined && g.2.gid = gid)

/-- The context a packet is for: its GID and current epoch (R233). -/
def groupFor (s : State) (h : CollHdr) : Option (Nat × Group) :=
  match findGroup s h.gid with
  | some g => if g.2.epoch = h.gepoch then some g else none
  | none => none

def bumpColl (s : State) (c k n : Nat) : State :=
  modGroup s c (fun g => { g with counters := Tab.upd g.counters k 0 (fun v => v + BitVec.ofNat 64 n) })

/-! ## Joining (R221, R247) -/

/-- What GROUP_READY carries, and GROUP_JOIN before the map's CRC (R232). -/
def readyBytes (g : Group) : List Byte := leBytes 2 g.gid.toNat ++ leBytes 1 g.epoch.toNat

/-- Send GROUP_JOIN to the parent once every child has joined; a root alone multicasts GROUP_READY. -/
def tryJoin (s : State) (c : Nat) : State :=
  let g := getGroup s c
  if g.st ≠ .joining || !(childrenOf s g).all (fun m => g.joined.contains m.node) then s
  else
    let h := collHdr g 0 0 0
    if isRoot s g then
      let s := multicast4 (dropC4Where s (fun c h => c.box.isSome && h.gid = g.gid)) g 0xC9 h (readyBytes g)
      modGroup s c (fun g => { g with st := .ready })
    else sendColl4 s (parentOf s g) 0xC8 h (readyBytes g ++ leBytes 4 (gMapcrc g.desc).toNat)

/-- A quire or range access met VIOLATION: FROZEN, where entries could still start (R223, R243). -/
def freezeGroup (s : State) (c : Nat) : State :=
  let g := getGroup s c
  if g.st ≠ .joining && g.st ≠ .ready then s
  else
    let opseq := match g.op with
      | some o => o.opseq.toNat
      | none => g.opseq
    let loc := BitVec.ofNat 64 (g.gid.toNat * 2 ^ 32 + opseq)
    let s := modGroup s c (fun g => { g with st := .frozen, cause := stViolation })
    let s := postEventId s (gOwner g.desc) { kind := 0x02, status := stViolation, location := loc }
    recordSlice s { source := srcKind 0xA 1, event := evStrandFault, status := stViolation, location := loc } (gOwner g.desc)

/-- Write a line of the quire as OWNER; VIOLATION freezes the context (R243). -/
def quireWrite (s : State) (c off : Nat) (bs : List Byte) : State :=
  let g := getGroup s c
  let w := hbmWrite s (gQdie g.desc) off bs (gOwner g.desc)
  if w.1 = stViolation then freezeGroup w.2 c else w.2

/-- A context takes a descriptor and enters JOINING; its quire starts at CI 0 with the CI line written and PI read as a ring's are (R190, R221, R224). -/
def enterJoining (s : State) (c : Nat) (d : BitVec 512) (members : List Member) (map : List (BitVec 20)) : State :=
  let old := getGroup s c
  let s := modGroup s c (fun _ =>
    { st := .joining, gid := gGid d, epoch := gEpoch d, desc := d, members := members, map := map,
      committed := s.tb.time, pendingBit := true, expulsions := old.expulsions, lastBar := old.lastBar, counters := old.counters })
  tryJoin (quireWrite s c (gCioff d) (leBytes 8 0 ++ leBytes 8 s.tb.time ++ leBytes 48 0)) c

/-- Free a context and its monitor entry (R248). -/
def freeGroup (s : State) (c : Nat) : State :=
  let g := getGroup s c
  let s := monitorDrop (dropC4Where s (fun _ h => h.gid = g.gid)) (gQdie g.desc) (.quire c)
  { s with fab := { s.fab with groups := Tab.erase s.fab.groups c } }

/-- A re-form that waited for the old operation takes effect (R247). -/
def applyReform (s : State) (c : Nat) : State :=
  match (getGroup s c).reform with
  | none => s
  | some r =>
    if r.2.1.any (fun m => m.node = fdNode s) then
      let old := getGroup s c
      let s := monitorDrop s (gQdie old.desc) (.quire c)
      let s := monitorAdd s (gQdie r.1) (gPioff r.1 / 64) (.quire c)
      enterJoining s c r.1 r.2.1 r.2.2
    else freeGroup s c

/-! ## Retirement (R231) -/

/-- The status word (R231). -/
def quireStatus (drill : Bool) (flags : BitVec 4) (cause : BitVec 16) (opseq : BitVec 32) (code : BitVec 16) : Nat :=
  2 ^ 63 + (if drill then 2 ^ 62 else 0) + flags.toNat * 2 ^ 48 + cause.toNat * 2 ^ 32 + (opseq.toNat % 65536) * 65536 + code.toNat

/-- Die offset of a quire slot (R224). -/
def quireSlot (g : Group) (i : Nat) : Nat := gQbase g.desc + 64 * (i % 2 ^ gLog2n g.desc)

/-- Write an entry's status word, then the CI line, then count CCTR where it is OWNER's (R231, R199). -/
def writeRetired (s : State) (c index : Nat) (entry : BitVec 512) (st : Nat) : State :=
  let g := getGroup s c
  let d := gQdie g.desc
  let s := quireWrite s c (quireSlot g index + 56) (leBytes 8 st)
  let s := modGroup s c (fun g => { g with ci := (g.ci + 1) % 2 ^ 64 })
  let ci := (getGroup s c).ci
  let s := quireWrite s c (gCioff g.desc) (leBytes 8 ci ++ leBytes 8 s.tb.time ++ leBytes 48 0)
  if eCcen entry && ownsCounter s d (eCctr entry) (gOwner g.desc) then counterAddTo s d (eCctr entry) 1 else s

/-- A divergence is recorded under the job source of the owner's slot (R494). -/
def diverge (s : State) (owner : BitVec 16) (loc : Word) : State :=
  match findSlice s owner with
  | some e =>
    let s := recordSlice s { source := srcKind 0xD e.1, event := evDivergence, status := stCheckFailed, location := loc } owner
    { s with fleet := { s.fleet with diverged := true } }
  | none => s

/-- The record and the ring entry of an outcome other than OK (R231, R487, R494). -/
def postOutcome (s : State) (c : Nat) (opseq : BitVec 32) (op : Nat) (code cause : BitVec 16) (drill : Bool) : State :=
  let g := getGroup s c
  let owner := gOwner g.desc
  let loc := BitVec.ofNat 64 (g.gid.toNat * 2 ^ 32 + opseq.toNat)
  let s := if code = stOk then s else postEventId s owner { kind := 0x05, status := code, location := loc }
  let s := if code = stAborted then
      recordSlice s { source := srcKind 0xA 1, event := evCollAbort, status := cause, location := loc, drill := drill } owner
    else s
  if code = stCheckFailed && op = opPaircmp then diverge s owner loc else s

/-- SHADOW_MATCHES after a PAIRCMP in which this module pairs with another (R495). -/
def countShadow (s : State) (g : Group) (op : Nat) (code : BitVec 16) : State :=
  let paired := (localRanks s g).any (fun r =>
    let q := if r % 2 = 0 then r + 1 else r - 1
    moduleNode (g.map.getD q 0) ≠ fdNode s)
  if op = opPaircmp && paired then
    { s with fleet := { s.fleet with shadow := if code = stOk then s.fleet.shadow + 1 else 0 } }
  else s

def usageColl (s : State) (id : BitVec 16) : State :=
  match findSlice s id with
  | some e => modSlice s e.1 (fun x => { x with usage := { x.usage with collOps := x.usage.collOps + 1 } })
  | none => s

/-- Each GROUP_ABORT of the operation learns what came of it: ABORTED, or ALREADY_DONE where it completed (R244). -/
def answerAborters (s : State) (c : Nat) (code : BitVec 16) : State :=
  let ts := (getGroup s c).aborters
  let s := modGroup s c (fun g => { g with aborters := [] })
  ts.foldl (fun s t => finishPending s t.1 t.2 0x4002 (if code = stAborted then stAborted else stAlreadyDone)) s

/-- Retire the operation in progress with a terminal outcome (R231, R242, R244, R248). -/
def retireEntry (s : State) (c : Nat) (code cause : BitVec 16) (flags : BitVec 4) (drill : Bool) : State :=
  let g := getGroup s c
  match g.op with
  | none => s
  | some o =>
    let s := countShadow s g (eOp o.entry) code
    let s := writeRetired s c o.index o.entry (quireStatus drill flags cause o.opseq code)
    let s := dropColl4 s g.gid o.opseq
    let s := modGroup s c (fun g => { g with
      op := none
      outcomes := { opseq := o.opseq, paramcrc := o.paramcrc, code := code, cause := cause, flags := flags, drill := drill, t := o.t.getD 0, unreleased := o.t.isSome && !o.released } :: g.outcomes
      cause := if code = stAborted then cause else g.cause })
    let s := bumpColl s c 0 1
    let s := if code = stAborted then bumpColl s c 1 1 else s
    let s := if code = stAborted then modColl s (fun e => { e with aborts := satUp e.aborts 1 0xFF }) else s
    let s := usageColl s (gOwner g.desc)
    let s := postOutcome s c o.opseq (eOp o.entry) code cause drill
    let s := if drill then endDrill s (srcKind 0xA 1) else s
    applyReform (answerAborters s c code) c

/-! ## Aborts (R242 to R244) -/

/-- ABORT's payload. -/
def abortBytes (code cause : BitVec 16) (drill : Bool) : List Byte := leBytes 2 code.toNat ++ leBytes 2 cause.toNat ++ leBytes 1 (if drill then 1 else 0)

/-- The root's outcome for the first abort or refusal it processes; at or after the decision point it is discarded (R244). -/
def rootAbort (s : State) (c : Nat) (code cause : BitVec 16) (drill : Bool) : State :=
  let g := getGroup s c
  match g.op with
  | none => s
  | some o =>
    if o.decided then s
    else
      let s := multicast4 s g 0xCB (opHdr g o 0) (abortBytes code cause drill)
      retireEntry s c code cause 0 drill

/-- This module raises an abort of its operation in progress (R243, R244). -/
def raiseAbort (s : State) (c : Nat) (cause : BitVec 16) (drill : Bool) : State :=
  let g := getGroup s c
  match g.op with
  | none => s
  | some o =>
    if isRoot s g then rootAbort s c stAborted cause drill
    else sendColl4 s (rootOf g) 0xCA (opHdr g o 0) (leBytes 2 cause.toNat ++ leBytes 1 (if drill then 1 else 0))

/-- Contexts of groups whose OWNER is a slice. -/
def groupsOf (s : State) (id : BitVec 16) : List Nat :=
  (s.fab.groups.filter (fun g => g.2.st ≠ .undefined && gOwner g.2.desc = id)).map Prod.fst

/-- A job stop reaches a context: STOPPED, where entries could still start, and the abort with CAUSE BAD_STATE (R223, R243). -/
def stopGroup (s : State) (c : Nat) : State :=
  let s := modGroup s c (fun g => if g.st = .joining || g.st = .ready then { g with st := .stopped, cause := stBadState } else g)
  raiseAbort s c stBadState false

/-- Entries read and not started retire with ABORTED: the engine reads each slot once, when it starts it, so these are the slots up to the PI last read, each with the OPSEQ it would have had (R192, R225, R231, R247, R248). -/
def abortUnstarted (s : State) (c : Nat) (n : Nat) : State :=
  match n with
  | 0 => s
  | k + 1 =>
    let g := getGroup s c
    if g.next < g.lastPi then
      let q := BitVec.ofNat 32 g.opseq
      let v := hbmRead s (gQdie g.desc) (quireSlot g g.next) 64 (gOwner g.desc)
      let e := if v.1 = stOk then BitVec.ofNat 512 (leNat v.2) else 0
      let s := writeRetired s c g.next e (quireStatus false 0 stBadState q stAborted)
      let s := modGroup s c (fun g => { g with next := g.next + 1, opseq := (g.opseq + 1) % 2 ^ 32 })
      let s := postOutcome s c q 0 stAborted stBadState false
      abortUnstarted s c k
    else s

end Sys2Proof.Machine
end

