-- ==== Sys2Proof/Machine/CouchOps.lean ====
section
/-! DEFINITION. Couch rings: descriptor fields, retirement, the CI line, and the ways a ring leaves ACTIVE (R188 to R197, R210 to R212). -/

namespace Sys2Proof.Machine

/-! ## Descriptor fields (R196) -/

def dSrc (d : BitVec 512) : Word := d.extractLsb' 0 64
def dDst (d : BitVec 512) : Word := d.extractLsb' 64 64
def dSkey (d : BitVec 512) : Word := d.extractLsb' 128 64
def dDkey (d : BitVec 512) : Word := d.extractLsb' 192 64
def dLength (d : BitVec 512) : Nat := (d.extractLsb' 256 40).toNat
def dCunit (d : BitVec 512) : Nat := (d.extractLsb' 296 5).toNat
def dDctr (d : BitVec 512) : BitVec 14 := d.extractLsb' 304 14
def dDcen (d : BitVec 512) : Bool := d.getLsbD 318
def dCcen (d : BitVec 512) : Bool := d.getLsbD 319
def dCctr (d : BitVec 512) : BitVec 14 := d.extractLsb' 320 14
def dMkh (d : BitVec 512) : Nat := (d.extractLsb' 336 8).toNat
def dOp (d : BitVec 512) : BitVec 4 := d.extractLsb' 344 4

/-- Slots of a ring. -/
def ringN (r : Ring) : Nat := 2 ^ r.log2n

/-- Die offset of a slot (R189). -/
def slotOff (r : Ring) (i : Nat) : Nat := r.base + 64 * (i % ringN r)

/-- The CI line's 64 bytes (R189). -/
def ciBytes (ci now : Nat) : List Byte := leBytes 8 ci ++ leBytes 8 now ++ leBytes 48 0

/-- The status word of a retirement (R210). -/
def statusWord (counted : Nat) (code : BitVec 16) : Nat := 2 ^ 63 + putN counted 16 40 + code.toNat

/-- The tag of a descriptor in progress: its ring, and its index modulo 16, of which a ring has at most 16 (R193). -/
def descTag (ring index : Nat) : BitVec 16 := BitVec.ofNat 16 (ring * 16 + index % 16)

/-- Write the CI line (R189), as the owner. -/
def writeCi (s : State) (r : Nat) : State :=
  let x := getRing s r
  (hbmWrite s x.die x.ciLine (ciBytes x.ci s.tb.time) x.owner).2

/-- The slot of a retired descriptor: only the status word, or the whole slot where a poisoned sector was read (R210, R211). -/
def writeSlot (s : State) (r : Nat) (p : DescProg) (code : BitVec 16) : State :=
  let x := getRing s r
  let w := leBytes 8 (statusWord p.counted code)
  if p.read then (hbmWrite s x.die (slotOff x p.index + 56) w x.owner).2
  else if code = stPoisoned then (hbmWrite s x.die (slotOff x p.index) (leBytes 56 0 ++ w) x.owner).2
  else (hbmWrite s x.die (slotOff x p.index + 56) w x.owner).2

/-- Retire one descriptor: its status word, CI, CCTR, and the event of a CODE other than OK (R210, R211). -/
def retireDesc (s : State) (r : Nat) (p : DescProg) (code : BitVec 16) : State :=
  let x := getRing s r
  let s := writeSlot s r p code
  let s := modRing s r (fun y => { y with ci := (y.ci + 1) % 2 ^ 64, prog := y.prog.filter (fun q => q.index ≠ p.index) })
  let s := writeCi s r
  let s := if p.read && p.passed && dCcen p.desc then counterAddTo s x.die (dCctr p.desc).toNat 1 else s
  if code = stOk then s
  else postEventId s x.owner { kind := 0x03, status := code, location := BitVec.ofNat 64 (r * 2 ^ 32 + p.index % ringN x) }

/-- A descriptor in progress ends with a status, if it has not ended. -/
def endDesc (s : State) (r index : Nat) (code : BitVec 16) (counted : Nat) : State :=
  modRing s r (fun x => { x with
    prog := x.prog.map (fun q => if q.index = index && q.code.isNone then { q with code := some code, counted := counted } else q) })

/-! ## Bytes counted (R200, R210) -/

/-- Bytes of one counting unit (R200). -/
def unitBytes (c : Copy) : Nat := if c.cunit = 0 then c.length else 2 ^ c.cunit

/-- Bytes a receiving half has counted (R210): whole units, or a mould's whole segments. -/
def destCounted (c : Copy) : Nat :=
  if c.ended.isSome then c.sent
  else if c.op = 3 then (if c.header.isEmpty then 0 else min (leAt c.header 8 8) (c.units * leAt c.header 4 4))
  else min c.length (c.units * unitBytes c)

/-- The receiving half of a copy another module sends, where its destination is this module: of copies that agree in all this the one that started last. -/
def destOf (s : State) (slice : BitVec 16) (op : BitVec 4) (dst dkey : Word) (length : Nat) : Option Copy :=
  s.fab.copies.reverse.find? (fun c => c.atDest && c.slice = slice && c.op = op && c.dst = dst && c.dkey = dkey && c.length = length)

/-- The receiving half, on this module, of a copy this module sends. -/
def isOwnDest (c x : Copy) : Bool := x.atDest && x.tag = c.tag && nodeModule x.peer = nodeModule c.peer

def ownDest (s : State) (c : Copy) : Option Copy := s.fab.copies.find? (isOwnDest c)

/-- A receiving half on this module whose sender has ended writes and counts nothing more (R211). -/
def endOwnDest (s : State) (c : Copy) (status : BitVec 16) : State :=
  { s with fab := { s.fab with copies := s.fab.copies.map (fun x =>
      if isOwnDest c x && x.ended.isNone then { x with sent := destCounted x, ended := some status, endedAt := s.tb.time, got := [], stash := [] } else x) } }

/-- Copies of which the sending half is here stop reading and sending: the halves are dropped, their COPY_START is sent no more, and their receiving halves on this module end too (R211). -/
def stopCopies (s : State) (stops : Copy → Bool) (status : BitVec 16) : State :=
  let cs := s.fab.copies.filter (fun c => !c.atDest && stops c)
  let s := (cs.filter (fun c => c.ended.isNone)).foldl (fun s c => endOwnDest s c status) s
  { s with fab := { s.fab with
      copies := s.fab.copies.filter (fun c => c.atDest || !stops c)
      c4 := s.fab.c4.filter (fun x => !(x.opcode = 0xB6#8 && cs.any (fun c => c.tag.toNat = x.key))) } }

/-- A ring's delegations are sent no more. -/
def dropDelegations (s : State) (r : Nat) : State :=
  { s with fab := { s.fab with c4 := s.fab.c4.filter (fun x => !(x.opcode = 0xB5#8 && x.key / 16 = r)) } }

/-- Packets of a copy that its flow has outstanding. -/
def outsOf (s : State) (c : Copy) : List BulkOut :=
  match c.flow with
  | some f => (match getFlow s f.toNat with
    | some fl => fl.out.filter (fun o => o.tag = c.tag)
    | none => [])
  | none => []

/-- Bytes of a sending half's leading units whose packets have all been acknowledged. -/
def ackedBytes (s : State) (c : Copy) : Nat :=
  let low := (outsOf s c).foldl (fun m o => min m o.offset) c.sent
  if c.length ≤ low then c.length else low / unitBytes c * unitBytes c

/-- What COUNTED holds of a copy its sender ends (R210): the destination's own count where it is this module. Elsewhere the units whose packets have all been acknowledged are counted; how many more the destination has counted, of what has been sent, is a free value (log entry 3). -/
def countedOf (s : State) (c : Copy) : Nat × State :=
  match ownDest s c with
  | some x => (destCounted x, s)
  | none =>
    if c.op = 3 then (0, s)
    else
      let lo := ackedBytes s c
      let hi := if c.length ≤ c.sent then c.length else c.sent / unitBytes c * unitBytes c
      if hi ≤ lo then (lo, s)
      else
        let f := takeFree s
        (min hi ((lo / unitBytes c + f.1.toNat % ((hi - lo + unitBytes c - 1) / unitBytes c + 1)) * unitBytes c), f.2)

/-- The sending copy that runs a descriptor of this module's ring. -/
def copyOfDesc (s : State) (r index : Nat) : Option Copy :=
  s.fab.copies.find? (fun c => !c.atDest && c.issuer = fdNode s && c.ring = r && c.slot = index)

/-- Bytes counted of a descriptor in progress; of a copy another module runs towards a third, which has not reported them, a free value (log entry 3). -/
def progCounted (s : State) (r : Nat) (p : DescProg) : Nat × State :=
  if !(1 ≤ dOp p.desc && dOp p.desc ≤ 3) || p.code.isSome then (p.counted, s)
  else match copyOfDesc s r p.index with
    | some c => countedOf s c
    | none => match destOf s (getRing s r).owner (dOp p.desc) (dDst p.desc) (dDkey p.desc) (dLength p.desc) with
      | some x => (destCounted x, s)
      | none => let f := takeFree s; (f.1.toNat % (dLength p.desc + 1), f.2)

/-- Set COUNTED of every descriptor of a ring in progress, before its copies stop. -/
def countProg (s : State) (r : Nat) : State :=
  (getRing s r).prog.foldl (fun s p =>
    let x := progCounted s r p
    modRing x.2 r (fun y => { y with prog := y.prog.map (fun q => if q.index = p.index then { q with counted := x.1 } else q) })) s

/-- Every descriptor of a ring in progress ends with ABORTED: its status word is not yet written (R212). -/
def abortRing (s : State) (r : Nat) : State :=
  let here := fdNode s
  let s := dropDelegations (stopCopies (countProg s r) (fun c => c.ring = r && c.issuer = here) stAborted) r
  modRing s r (fun x => { x with prog := x.prog.map (fun q => { q with code := some stAborted }) })

/-- A ring leaves ACTIVE with a cause; from FROZEN, ERROR and STOPPED only a ring reset or its deletion takes it (R194, R195). -/
def leaveActive (x : Ring) (st : RingSt) (cause : BitVec 16) : Ring := if x.st = .active then { x with st := st, cause := cause } else x

/-- A copy of the ring met VIOLATION: an ACTIVE ring enters FROZEN, and every other copy of it in progress retires with ABORTED (R195, R211). -/
def freezeRing (s : State) (r index : Nat) (counted : Nat) : State :=
  let here := fdNode s
  let x := getRing s r
  let s := countProg (endDesc s r index stViolation counted) r
  let s := dropDelegations (stopCopies s (fun c => c.ring = r && c.issuer = here) stAborted) r
  let s := modRing s r (fun x => { leaveActive x .frozen stViolation with
    prog := x.prog.map (fun q => if q.code.isNone then { q with code := some stAborted } else q) })
  if x.st ≠ .active then s else
  let s := postEventId s x.owner { kind := 0x02, status := stViolation, location := BitVec.ofNat 64 (r * 2 ^ 32 + index % ringN x) }
  recordSlice s { source := srcKind 0xA 0, event := evStrandFault, status := stViolation, location := BitVec.ofNat 64 (r * 2 ^ 32 + index % ringN x) } x.owner

/-- A job stop takes an owner's ACTIVE rings to STOPPED with CAUSE BAD_STATE, and aborts what is in progress (R194, R195, R212). -/
def stopRing (s : State) (r : Nat) : State :=
  modRing (abortRing s r) r (fun x => leaveActive x .stopped stBadState)

/-- Rings a slice owns. -/
def ringsOf (s : State) (id : BitVec 16) : List Nat :=
  (s.fab.rings.filter (fun r => r.2.st ≠ .undefined && r.2.owner = id)).map Prod.fst

/-- Every descriptor in progress retires with ABORTED, in slot order. -/
def retireAborted (s : State) (r : Nat) : State :=
  let s := abortRing s r
  (getRing s r).prog.foldl (fun s p => retireDesc s r p stAborted) s

/-- Delete a ring: copies in progress retire ABORTED, the ring is UNDEFINED and its monitor entry freed (R190, R195, R389). -/
def deleteRing (s : State) (r : Nat) : State :=
  let s := monitorDrop (retireAborted s r) (getRing s r).die (.ring r)
  { s with fab := { s.fab with rings := Tab.erase s.fab.rings r } }

end Sys2Proof.Machine
end

