-- ==== Sys2Proof/Machine/Stop.lean ====
section
/-! DEFINITION. The job stop and the faults that raise it: asynchronous faults of strands, failed cores, clusters out of service (R104, R106, R120, R131, R134, R183, R478 to R483, R546). -/

namespace Sys2Proof.Machine

/-! ## What a job stop does to a slice (R481) -/

/-- A strand meets a job stop: STOPPED from every state but FREE and STOPPED; what it has outstanding completes into discarded registers. -/
def stopStrand (st : Strand) : Strand :=
  if st.st = .free || st.st = .stopped then st
  else { st with st := .stopped, wait := .nothing, deadline := none, loads := 0, posted := 0, yielded := false, haltWait := false }

/-- Whether a strand's index lies in one of a slice's clusters. -/
def ixInClusters (cs : List (Nat × Nat)) (k : Nat) : Bool := cs.any (fun c => clIx c.1 c.2 = k / 512)

/-- Whether a core's index lies in one of a slice's clusters. -/
def coreInClusters (cs : List (Nat × Nat)) (k : Nat) : Bool := cs.any (fun c => clIx c.1 c.2 = k / 16)

/-- The clusters hold the slice's state. -/
def holdsClusters (sl : Slice) : Bool := sl.st = .resident || sl.st = .switching

def stopSliceStrands (s : State) (slot : Nat) (sl : Slice) : State :=
  let s :=
    if holdsClusters sl then
      { s with compute := { s.compute with
          strands := Tab.mapVals s.compute.strands (fun k st => if ixInClusters sl.clusters k then stopStrand st else st)
          cores := Tab.mapVals s.compute.cores (fun k c => if coreInClusters sl.clusters k then { c with barriers := [] } else c) } }
    else s
  modSlice s slot (fun x => { x with
    savedStrands := Tab.mapVals x.savedStrands (fun _ st => stopStrand st)
    savedCores := Tab.mapVals x.savedCores (fun _ c => { c with barriers := [] }) })

/-- The slice's flows close; what awaits a response on them is discarded when it comes, and its copies run here for other modules' rings stop with the flows they used (R183, R204). -/
def closeSliceFlows (s : State) (id : BitVec 16) : State :=
  let ks := (s.fab.flows.filter (fun f => f.2.slice = id)).map Prod.fst
  let s := stopCopies (ks.foldl closeFlow s) (fun c => c.slice = id) stAborted
  { s with fab := { s.fab with
      eps := Tab.mapVals s.fab.eps (fun _ e => { e with outst := e.outst.filter (fun o => o.req.slice ≠ id), completed := e.completed.filter (fun c => match c.master with
        | .strand p _ _ => strandSliceId s p ≠ id
        | _ => true) })
      recvFlows := s.fab.recvFlows.filter (fun f => f.slice ≠ id)
      c4 := s.fab.c4.filter (fun c => c.slice ≠ id || c.hdr.isSome) } }

/-- The slice's gathers end: they issue nothing more, and nothing more of them is counted (R131). -/
def endGathers (s : State) (id : BitVec 16) : State :=
  { s with compute := { s.compute with
      clusters := Tab.mapVals s.compute.clusters (fun _ c => { c with slots := c.slots.filter (fun g => g.2.slice ≠ id) }) } }

/-- Everything R481 says of one slice of a stopped job. -/
def stopSlice (s : State) (slot : Nat) (status : BitVec 16) (origin : BitVec 20) (serial : Nat) : State :=
  match getSlice s slot with
  | none => s
  | some sl =>
    let s := stopSliceStrands s slot sl
    let s := (ringsOf s sl.id).foldl stopRing s
    let s := (groupsOf s sl.id).foldl stopGroup s
    let s := endGathers s sl.id
    let s := closeSliceFlows s sl.id
    let s := postEvent s slot { kind := 0x07, status := status }
    record s { source := srcKind 0xD slot, event := evJobStop, status := status, slice := sl.id, job := sl.job, aux := BitVec.ofNat 64 (origin.toNat + serial * 2 ^ 32) }

/-- Act on a job stop for every slice of the job held here; a stop detected before a slice's last JOB_RESTART passes it by (R481, R483). -/
def actOnStop (s : State) (job : BitVec 32) (status : BitVec 16) (origin : BitVec 20) (serial t : Nat) : State :=
  let slots := (s.ctl.slices.filter (fun e => e.2.job = job && !decide (t < e.2.lastRestart))).map Prod.fst
  slots.foldl (fun s k => stopSlice s k status origin serial) s

/-- The payload of STOP_NOTICE (R480). -/
def stopBytes (job : BitVec 32) (origin : BitVec 20) (serial : Nat) (status : BitVec 16) (t : Nat) : List Byte :=
  leBytes 4 job.toNat ++ leBytes 4 origin.toNat ++ leBytes 4 serial ++ leBytes 2 status.toNat ++ leBytes 2 0 ++ leBytes 8 t

/-- This module raises a job stop: it floods STOP_NOTICE and acts on it (R479, R480, R546). -/
def raiseStop (s : State) (job : BitVec 32) (status : BitVec 16) : State :=
  let serial := (s.fleet.serial + 1) % 2 ^ 32
  let now := s.tb.time
  let o := fdNode s
  let s := { s with fleet := { s.fleet with
    serial := serial, stops := s.fleet.stops ++ [(o, BitVec.ofNat 32 serial, now)] } }
  let s := flood s none 0xE8 (stopBytes job o serial status now)
  actOnStop s job status o serial now

/-- The job stop of the slice with an ID (R479). -/
def raiseStopFor (s : State) (id : BitVec 16) (status : BitVec 16) : State :=
  match findSlice s id with
  | some e => raiseStop s e.2.job status
  | none => s

/-! ## Faults of strands (R68, R104, R106, R177) -/

/-- The status of a job stop that a strand's cause raises (R546). -/
def causeStatus (cause : Nat) : BitVec 16 :=
  if cause = cIndeterminate then stIndeterminate else if cause = cTimeout then stTimeout else stPoisoned

/-- A strand takes a cause no handler takes: VIOLATION freezes it, the others stop it and raise the job stop, whatever its state was (R104; log entry 71). -/
def strandFault (s : State) (p : Pos) (cause : Nat) (async : Bool) (epc tval : Word) : State :=
  let id := strandSliceId s p
  let s := barrierLeave s p
  let s := modStrand s p (fun st =>
    { recordCause st cause async epc tval with
      st := if cause = cViolation then .frozen else .stopped, wait := .nothing, deadline := none, haltWait := false, remain := none })
  let s := postStrand s p (if cause = cViolation then 0x02 else 0x01) cause epc tval
  if cause = cViolation then s else raiseStopFor s id (causeStatus cause)

/-- A further asynchronous cause of a strand that one has already stopped or frozen, or that a job stop has stopped (R106): the strand keeps the cause of the lowest value, the other is counted in its core's first-error record, and a job-fatal status raises the job stop all the same (R479). -/
def furtherFault (s : State) (p : Pos) (cause : Nat) (epc tval : Word) : State :=
  let id := strandSliceId s p
  let st := getStrand s p
  let lower := st.async && decide (0x20 ≤ st.code.toNat) && decide (cause < st.code.toNat)
  let s := countError s { source := srcCore (coreOf p), event := evStrandFault, status := if lower then st.code.setWidth 16 else BitVec.ofNat 16 cause, location := if lower then st.tval else tval }
  let s := if lower then modStrand s p (fun st => recordCause st cause true epc tval) else s
  if cause = cViolation || st.st = .stopped then s else raiseStopFor s id (causeStatus cause)

/-- The strand has run no other program since (R104). -/
def sameProgram (st : Strand) (gen : Nat) : Bool := st.st ≠ .free && st.gen = gen

/-- A fault status completes a request of a strand, or of a gather it issued (R104, R106, R131). Of a strand that no longer runs the program no state changes; its event is a FREEZE for VIOLATION and a TRAP for the rest, as for a strand that does, which the spec does not say (log entry 71). -/
def asyncFault (s : State) (p : Pos) (gen : Nat) (pc addr : Word) (cause : Nat) : State :=
  let st := getStrand s p
  let id := strandSliceId s p
  if sameProgram st gen then
    if st.st = .frozen || st.st = .stopped then furtherFault s p cause pc addr else strandFault s p cause true pc addr
  else
    let s := postStrand s p (if cause = cViolation then 0x02 else 0x01) cause pc addr
    if cause = cViolation then s else raiseStopFor s id (causeStatus cause)

/-- The cause a completion's status gives a strand (R105, R168): a reserved status counts as POISONED. -/
def statusCause (st : BitVec 4) : Option Nat :=
  if st = 0 || st = 2 then none
  else if st = 4 then some cViolation
  else if st = 6 then some cIndeterminate
  else if st = 7 then some cTimeout
  else some cPoisoned

/-! ## Failed cores and clusters (R24, R120, R132 to R134, R472) -/

/-- The physical cluster of a logical one; 0xF when out of service (R132). -/
def physCluster (s : State) (d l : Nat) : Nat := Tab.getD (getMap s d).map l 0xF

/-- An entry of KIND 0b0011 (R472). -/
def engineEntry (d pcl core : Nat) (fenced : BitVec 4) (failed : Bool) (source : Nat) : Word :=
  BitVec.ofNat 64 (putN 3 60 4 + putN d 56 4 + putN pcl 51 5 + putN core 42 6 + putN fenced.toNat 38 4 + (if failed then 2 ^ 37 else 0) + putN source 16 8)

/-- An entry of KIND 0b0100 (R472). -/
def clusterEntry (d pcl source : Nat) : Word :=
  BitVec.ofNat 64 (putN 4 60 4 + putN d 56 4 + putN pcl 51 5 + putN source 16 8)

/-- An entry waits for the trust core to append it (R121, R148). -/
def queueRepair (s : State) (e : Word) : State :=
  { s with mem := { s.mem with repairQueue := s.mem.repairQueue ++ [e] } }

/-- A logical cluster leaves service at once (R24, R134, R485). -/
def clusterLeaves (s : State) (d l source : Nat) : State :=
  if physCluster s d l = 0xF then s
  else
    let pcl := physCluster s d l
    let s := queueRepair s (clusterEntry d pcl source)
    let s := modMap s d (fun m => { m with map := Tab.set m.map l 0xF })
    record s { source := srcKind 0x5 (13 * d + pcl), event := evClusterOut, location := BitVec.ofNat 64 l }

/-- A cluster that needs replacing: it waits for the spare, or leaves service at once when none is left (R24, R133, R134). -/
def clusterFails (s : State) (d l source : Nat) : State :=
  if (getMap s d).spare ≠ 0xF then
    modMap s d (fun m => { m with failedCl := if m.failedCl.contains l then m.failedCl else m.failedCl ++ [l] })
  else clusterLeaves s d l source

/-- A core is marked failed: what it has queued is discarded, and the job stop of its slice is raised (R120). -/
def failCore (s : State) (c : CorePos) : State :=
  let id := match sliceOn s c.die c.cluster with
    | some e => e.2.id
    | none => 0xFFFF
  let s := modCore s c (fun k => { k with
    failed := true
    engines := Tab.mapVals k.engines (fun _ e => { e with queue := [], running := none, rows := [], flags := 0 }) })
  let s := queueRepair s (engineEntry c.die (physCluster s c.die c.cluster) c.core (getCore s c).fenced true 0x05)
  let s := recordSlice s { source := srcCore c, event := evCoreFailed, status := stCheckFailed, location := BitVec.ofNat 64 (coreIx c) } id
  let s := clusterFails s c.die c.cluster 0x05
  raiseStopFor s id stCheckFailed

end Sys2Proof.Machine
end

