-- ==== Sys2Proof/Machine/Strand.lean ====
section
/-! DEFINITION. Issue of one instruction of a strand: readiness, fetch, breakpoints, legality, guard, register waits, completion, waiting and halting (R62 to R68, R75, R76, R103, R106, R510 to R512). -/

namespace Sys2Proof.Machine

/-- Registers of a strand that a global load or atomic still outstanding writes (R64); nothing is outstanding on s0, whose writes are discarded. -/
def busyRegs (s : State) (p : Pos) : List (BitVec 6) :=
  let e := getEp s p.die
  let f (m : Master) (d : RespDest) : Option (BitVec 6) :=
    match m, d with
    | .strand q g _, .reg sd _ => if q = p && g = (getStrand s p).gen && sd ≠ 0 then some sd else none
    | _, _ => none
  e.outst.filterMap (fun o => f o.master o.dest) ++ e.completed.filterMap (fun c => f c.master c.dest)

/-- The instruction's line is not in the instruction cache. -/
def uncached (s : State) (p : Pos) : Bool := !(getCore s (coreOf p)).icache.contains ((getStrand s p).pc.toNat / 64)

/-- The fetch waits at a stack in HOLD (R147). -/
def fetchHeld (s : State) (p : Pos) : Bool :=
  let pc := (getStrand s p).pc.toNat
  uncached s p && ownsHbm s p.die pc 4 (strandSliceId s p) && hbmHeld s p.die pc 4

/-- The strand may reach issue: READY, its slice RESIDENT, its core's clock running, its instruction supplied. -/
def canRun (s : State) (p : Pos) : Bool :=
  (getStrand s p).st = .ready && (residentOn s p.die p.cluster).isSome && !(getCore s (coreOf p)).gated && !fetchHeld s p

/-- The 32 strands of a core. -/
def strandsOf (c : CorePos) : List Pos := (List.finRange 32).map (fun k => ⟨c.die, c.cluster, c.core, k⟩)

/-- A strand's place in the search of its core's next cycle (R63). -/
def searchIx (k : Core) (q : Pos) : Nat := (q.strand.val + 32 - k.rr % 32) % 32

/-- The next search passes the strand over: it has executed YIELD, and none has passed it over yet (R63). -/
def yields (s : State) (q : Pos) : Bool := (getStrand s q).yielded && !(getCore s (coreOf q)).passed.contains q.strand.val

/-- The vector unit executes an instruction of the strand again (R119): it has issued, and is no candidate of the search. -/
def pinned (s : State) (q : Pos) : Bool :=
  match (getCore s (coreOf q)).vecPin with
  | some v => v.strand = q.strand && v.gen = (getStrand s q).gen && v.pc = (getStrand s q).pc && (getStrand s q).st = .ready
  | none => false

/-- A READY strand that the search for an instruction takes when it meets it. -/
def candidate (s : State) (q : Pos) : Bool := (getStrand s q).st = .ready && !yields s q && !pinned s q

/-- The issue slot goes to the strand: no candidate stands before it in the search (R63). -/
def itsTurn (s : State) (p : Pos) : Bool :=
  pinned s p || (strandsOf (coreOf p)).all (fun q => !(candidate s q && decide (searchIx (getCore s (coreOf p)) q < searchIx (getCore s (coreOf p)) p)))

/-- The strand may issue now (R62, R63, R66). -/
def canIssue (s : State) (p : Pos) : Bool := canRun s p && itsTurn s p

/-- The guard holds (R75). -/
def guardOk (st : Strand) (g : Guard) : Bool := rdP st g.pg != g.pn

/-- The instruction's fetch lies in granules of the slice on its own die (R68). -/
def fetchOk (s : State) (p : Pos) : Bool :=
  ownsHbm s p.die (getStrand s p).pc.toNat 4 (strandSliceId s p)

/-- Global address of the instruction at a strand's program counter. -/
def pcAddr (s : State) (p : Pos) : Word := globalOf s p.die (getStrand s p).pc.toNat

/-- A line enters the instruction cache, 1,024 lines at most, the oldest leaving (R68; log entry 15). -/
def cacheLine (ls : List Nat) (l : Nat) : List Nat := if ls.contains l then ls else (l :: ls).take 1024

/-- The fetch of an instruction brings its line into the cache, but a line with a poisoned sector is not cached (R68). -/
def cacheFetch (s : State) (p : Pos) (pc : Word) (ls : List Nat) : List Nat :=
  if poisonedAt s (memKey p.die (pc.toNat / 64 * 64)) 64 then ls else cacheLine ls (pc.toNat / 64)

/-- Strands of the core that a search passes over on its way to strand p (R63). -/
def passedOver (s : State) (p : Pos) : List Nat :=
  let k := getCore s (coreOf p)
  ((strandsOf (coreOf p)).filter (fun q => (getStrand s q).st = .ready && yields s q && decide (searchIx k q < searchIx k p))).map (fun q => q.strand.val)

/-- The core has issued an instruction of a strand (R63, R504): the next search starts after it, and those passed over on the way to it have been passed over. -/
def issued (s : State) (p : Pos) (pc : Word) : State :=
  let over_ := if pinned s p then [] else passedOver s p
  modCore s (coreOf p) (fun k => { k with
    rr := if pinned s p then k.rr else (p.strand.val + 1) % 32
    passed := k.passed.filter (fun q => q ≠ p.strand.val) ++ over_
    icache := cacheFetch s p pc k.icache
    ctrs := Tab.upd k.ctrs 0 0 (fun v => v + 1) })

/-- The instruction completes: the program counter passes it, and its effect on the strand is `f`. -/
def finish (s : State) (p : Pos) (f : Strand → Strand) : State :=
  modStrand (issued s p (getStrand s p).pc) p (fun st => f { st with pc := st.pc + 4, skipBkpt := [], yielded := false })

/-- The instruction completes and the program counter goes elsewhere. -/
def finishTo (s : State) (p : Pos) (target : Word) (f : Strand → Strand) : State :=
  modStrand (issued s p (getStrand s p).pc) p (fun st => f { st with pc := target, skipBkpt := [], yielded := false })

/-- The strand enters WAIT on a condition of R64, its program counter at the waiting instruction. -/
def waitOn (s : State) (p : Pos) (w : WaitFor) : State :=
  modStrand s p (fun st => { st with st := .wait, wait := w })

/-- A waiting instruction completes: the strand is READY past it. -/
def wakeDone (s : State) (p : Pos) (f : Strand → Strand) : State :=
  finish s p (fun st => f { st with st := .ready, wait := .nothing, deadline := none })

/-- A waiting strand becomes READY with its program counter where it was. -/
def wakeRetry (s : State) (p : Pos) : State :=
  modStrand s p (fun st => { st with st := .ready, wait := .nothing, deadline := none })

/-- The instruction traps at issue with a faulting address (R103). -/
def trapAt (s : State) (p : Pos) (cause : Nat) (tval : Word) : State :=
  let pc := (getStrand s p).pc
  takeTrap (modStrand s p (fun st => { st with skipBkpt := [] })) p cause false pc tval

/-- The instruction traps at issue with a cause that has no address (log entry 13). -/
def trapFree (s : State) (p : Pos) (cause : Nat) : State :=
  let pc := (getStrand s p).pc
  takeTrapFree (modStrand s p (fun st => { st with skipBkpt := [] })) p cause false pc

/-- A strand enters HALTED; what it waited for and the WAITC timeout that remains are kept (R511). -/
def haltOne (s : State) (p : Pos) (scope : Bool) : State :=
  let now := s.tb.time
  let st := getStrand s p
  if st.st = .ready || st.st = .wait then
    let s := barrierLeave s p
    modStrand s p (fun st => { st with
      st := .halted, haltWait := decide (st.st = .wait), remain := st.deadline.map (fun d => d - now), deadline := none,
      drained := false, haltScope := scope, haltBk := none })
  else s

/-- A breakpoint halts the strand, or every READY and WAIT strand of the core (R510, R512). -/
def haltBy (s : State) (p : Pos) (scope : Nat) : State :=
  if scope = 1 then (strandsOf (coreOf p)).foldl (fun s q => haltOne s q true) s else haltOne s p false

/-- The strand itself was halted by a PC match or by BKPT, and passes it when resumed (R512). -/
def passNext (s : State) (p : Pos) (b : BkptRef) : State := modStrand s p (fun st => { st with haltBk := some b })

/-- A comparator selects a strand and matches a value (R510). -/
def bkptHits (b : Bkpt) (kind strand : Nat) (x : Word) : Bool :=
  b.kind = kind && (b.mask32 = 0 || b.mask32.getLsbD strand) && (x &&& b.mask) = (b.value &&& b.mask)

/-- The first comparator of the strand's core that matches its program counter, but those the strand passes (R512). -/
def pcBkpt (s : State) (p : Pos) : Option Bkpt :=
  (getCore s (coreOf p)).bkpts.find? (fun b => bkptHits b 1 p.strand.val (getStrand s p).pc && !(getStrand s p).skipBkpt.contains (.pc b.number))

/-- The first comparator that matches a request's address and access type (R510): bit 0 loads, 1 stores, 2 atomics, 3 reduction-stores. -/
def dataBkpt (s : State) (p : Pos) (access : Nat) (addr : Word) : Option Bkpt :=
  (getCore s (coreOf p)).bkpts.find? (fun b => bkptHits b 2 p.strand.val addr && b.access.getLsbD access)

/-- The fetch reads a poisoned sector: its line is not in the instruction cache (R68, R138). -/
def fetchPoisoned (s : State) (p : Pos) : Bool :=
  poisonedAt s (memKey p.die (getStrand s p).pc.toNat) 4 && uncached s p

/-- A poisoned fetch (R68): cause POISONED with ASYNC 0, the strand STOPPED and the job stop raised. -/
def takePoisonedFetch (s : State) (p : Pos) : State := strandFault s p cPoisoned false (getStrand s p).pc (pcAddr s p)

/-- A register the instruction reads holds an uncorrectable error: the strand is STOPPED and the job stop raised (R154). -/
def takeBadReg (s : State) (p : Pos) : State :=
  let id := strandSliceId s p
  let s := modStrand s p stopStrand
  let s := recordSlice s { source := srcCore (coreOf p), event := evUncorrectable, status := stPoisoned, location := BitVec.ofNat 64 (coreIx (coreOf p)) } id
  raiseStopFor s id stPoisoned

/-- What one instruction meets at issue, in order: its fetch, its breakpoint, its encoding, its guard, its registers, and its own effect. -/
def issueNow (s : State) (p : Pos) (g : Guard) (legal : Bool) (regs reads : List (BitVec 6)) (body : State → State) : State :=
  if !fetchOk s p then trapAt s p cFetch (pcAddr s p)
  else if fetchPoisoned s p then takePoisonedFetch s p
  else match pcBkpt s p with
    | some b => passNext (haltBy s p b.scope) p (.pc b.number)
    | none =>
      if !legal then trapFree s p cIllegal
      else if !guardOk (getStrand s p) g then finish s p id
      else if regs.any (fun r => (busyRegs s p).contains r) then waitOn s p (.register regs)
      else if reads.any (fun r => r ≠ 0 && (getStrand s p).badRegs.contains r.toNat) then takeBadReg s p
      else body s

/-- One instruction reaches issue. Nothing happens where the strand may not run. The conditions of R64 are looked at in every cycle, so an instruction that meets one takes its strand to WAIT in any place of the search; every other effect waits for the strand's turn (R63). A strand that executed YIELD is passed over once: a search that finds no candidate loses its slot to that. `regs` are the registers the instruction reads or writes, `reads` those it reads. -/
def issue (s : State) (p : Pos) (g : Guard) (legal : Bool) (regs : List (BitVec 6)) (body : State → State) (reads : List (BitVec 6) := regs) : State :=
  if !canRun s p then s
  else if yields s p then
    (if (strandsOf (coreOf p)).any (candidate s) then s else modStrand s p (fun st => { st with yielded := false }))
  else
    let t := issueNow s p g legal regs reads body
    if itsTurn s p || (getStrand t p).st = .wait then t else s

/-- The slice has the EXACT attribute (R32). -/
def isExact (s : State) (p : Pos) : Bool :=
  match strandSlice s p with
  | some e => e.2.exact
  | none => false

end Sys2Proof.Machine
end

