-- ==== Sys2Proof/Machine/Operands.lean ====
section
/-! DEFINITION. Operand forms of the scalar instructions: three registers, register and immediate, predicates, and the addresses of local accesses (R74, R80 to R85). -/

namespace Sys2Proof.Machine

/-- An instruction that writes sd from sa and sb. -/
def opRR (p : Pos) (g : Guard) (legal : Bool) (sd sa sb : BitVec 6) (f : Word → Word → Word) (s : State) : State :=
  issue s p g legal [sd, sa, sb] (fun s => finish s p (fun st => wr st sd (f (rd st sa) (rd st sb)))) [sa, sb]

/-- An instruction that writes sd from sa and a 10-bit immediate, sign-extended. -/
def opRI (p : Pos) (g : Guard) (legal : Bool) (sd sa : BitVec 6) (imm : BitVec 10) (f : Word → Word → Word) (s : State) : State :=
  issue s p g legal [sd, sa] (fun s => finish s p (fun st => wr st sd (f (rd st sa) (sext imm)))) [sa]

/-- An instruction that writes sd from a 16-bit immediate, and from its old value where it reads it. -/
def opRU (p : Pos) (g : Guard) (sd : BitVec 6) (imm : BitVec 16) (reads : Bool) (f : Word → BitVec 16 → Word) (s : State) : State :=
  issue s p g true [sd] (fun s => finish s p (fun st => wr st sd (f (rd st sd) imm))) (if reads then [sd] else [])

/-- An instruction over predicates. -/
def opPP (p : Pos) (g : Guard) (pd pa pb : BitVec 3) (f : Bool → Bool → Bool) (s : State) : State :=
  issue s p g true [] (fun s => finish s p (fun st => wrP st pd (f (rdP st pa) (rdP st pb))))

/-- Address of a local access: sa + sext(IMM10) * size (R85). -/
def localAddr (st : Strand) (sa : BitVec 6) (imm : BitVec 10) (size : Nat) : Word :=
  rd st sa + sext imm * BitVec.ofNat 64 size

end Sys2Proof.Machine
end

