-- ==== Sys2Proof/Machine/Fp.lean ====
section
/-! DEFINITION. Number formats, rounding, block scaling, the anchored grid and the sum formats (R33 to R60). -/

namespace Sys2Proof.Machine

/-! ## Exact values -/

/-- The value a pattern denotes: a NaN, an infinity, or (-1)^neg * m * 2^e with its sign kept on zero. -/
inductive FVal where
  | nan
  | inf (neg : Bool)
  | fin (neg : Bool) (m : Nat) (e : Int)
  deriving DecidableEq, Repr

/-- An exact dyadic number n * 2^e. -/
structure Dy where
  n : Int
  e : Int
  deriving DecidableEq, Repr

/-- Exact sum. -/
def dyAdd (a b : Dy) : Dy :=
  if a.e ≤ b.e then ⟨a.n + b.n * 2 ^ (b.e - a.e).toNat, a.e⟩
  else ⟨a.n * 2 ^ (a.e - b.e).toNat + b.n, b.e⟩

/-- Exact product. -/
def dyMul (a b : Dy) : Dy := ⟨a.n * b.n, a.e + b.e⟩

/-- A finite value as a dyadic number. -/
def finDy (neg : Bool) (m : Nat) (e : Int) : Dy := ⟨if neg then -(m : Int) else m, e⟩

/-- A dyadic number as a value, zero positive. -/
def dyVal (d : Dy) : FVal := .fin (decide (d.n < 0)) d.n.natAbs d.e

/-- The dyadic number of a finite value. -/
def FVal.dy? : FVal → Option Dy
  | .fin s m e => some (finDy s m e)
  | _ => none

/-- `m / 2^s` rounded to nearest, ties to even (R33), and whether non-zero bits were discarded. -/
def rneShift (m s : Nat) : Nat × Bool :=
  let q := m >>> s
  let r := m % 2 ^ s
  if r = 0 then (q, false)
  else if 2 * r > 2 ^ s ∨ (2 * r = 2 ^ s ∧ q % 2 = 1) then (q + 1, true) else (q, true)

/-- `d / 2^g` rounded to the nearest integer, ties to even (R51). -/
def dyRne (d : Dy) (g : Int) : Int × Bool :=
  if g ≤ d.e then (d.n * 2 ^ (d.e - g).toNat, false)
  else
    let r := rneShift d.n.natAbs (g - d.e).toNat
    (if d.n < 0 then -(r.1 : Int) else r.1, r.2)

/-! ## The flags of R53 -/

/-- NAN, OVF, CVT and INX in bits 3 to 0 (R53). -/
abbrev Flags4 := BitVec 4

def flNAN : Flags4 := 8
def flOVF : Flags4 := 4
def flCVT : Flags4 := 2
def flINX : Flags4 := 1

/-- A flag when a condition holds. -/
def flagIf (c : Bool) (f : Flags4) : Flags4 := if c then f else 0

/-! ## Element formats -/

/-- How a floating-point format uses its top exponent (R37). -/
inductive TopUse where
  /-- Infinities and NaNs, as IEEE 754. -/
  | ieee
  /-- Only S.1111.111 is a NaN (E4M3). -/
  | nanOnly
  /-- Numbers only. -/
  | none
  deriving DecidableEq, Repr

/-- A floating-point format of R37. -/
structure Fmt where
  eb : Nat
  mb : Nat
  bias : Int
  top : TopUse
  canon : Nat
  deriving DecidableEq, Repr

def fmtE2M1 : Fmt := ⟨2, 1, 1, .none, 0⟩
def fmtE2M3 : Fmt := ⟨2, 3, 1, .none, 0⟩
def fmtE3M2 : Fmt := ⟨3, 2, 3, .none, 0⟩
def fmtE4M3 : Fmt := ⟨4, 3, 7, .nanOnly, 0x7F⟩
def fmtE5M2 : Fmt := ⟨5, 2, 15, .ieee, 0x7E⟩
def fmtFP16 : Fmt := ⟨5, 10, 15, .ieee, 0x7E00⟩
def fmtBF16 : Fmt := ⟨8, 7, 127, .ieee, 0x7FC0⟩
def fmtFP32 : Fmt := ⟨8, 23, 127, .ieee, 0x7FC00000⟩

/-- The value of a pattern (R37). -/
def fmtDecode (f : Fmt) (bits : Nat) : FVal :=
  let m := bits % 2 ^ f.mb
  let e := (bits >>> f.mb) % 2 ^ f.eb
  let s := decide ((bits >>> (f.mb + f.eb)) % 2 = 1)
  let topE := decide (e = 2 ^ f.eb - 1)
  match f.top, topE with
  | .ieee, true => if m = 0 then .inf s else .nan
  | .nanOnly, true => if m = 2 ^ f.mb - 1 then .nan else .fin s (m + 2 ^ f.mb) ((e : Int) - f.bias - f.mb)
  | _, _ =>
    if e = 0 then .fin s m (1 - f.bias - f.mb)
    else .fin s (m + 2 ^ f.mb) ((e : Int) - f.bias - f.mb)

/-- The largest finite pattern without its sign. -/
def fmtMax (f : Fmt) : Nat :=
  match f.top with
  | .ieee => (2 ^ f.eb - 1) * 2 ^ f.mb - 1
  | .nanOnly => 2 ^ (f.eb + f.mb) - 2
  | .none => 2 ^ (f.eb + f.mb) - 1

/-- What a finite value beyond the range becomes (R38). -/
inductive Over where
  | saturate
  | infinity
  deriving DecidableEq, Repr

/-- A pattern and the flags its writing sets. -/
structure Conv where
  bits : Nat
  flags : Flags4
  deriving DecidableEq, Repr

/-- Round a finite value once to a format (R33, R34, R38, R44). -/
def fmtRoundFin (f : Fmt) (ov : Over) (s : Bool) (m : Nat) (e : Int) : Conv :=
  let sign := if s then 2 ^ (f.eb + f.mb) else 0
  if m = 0 then ⟨sign, 0⟩
  else
    let q := max (e + Nat.log2 m - f.mb) (1 - f.bias - f.mb)
    let r := if q ≤ e then (m * 2 ^ (e - q).toNat, false) else rneShift m (q - e).toNat
    -- the pattern without its sign: an integer that carries into the exponent of itself
    let ef := (q + f.bias + f.mb - 1).toNat
    let mag := ef * 2 ^ f.mb + r.1
    if mag > fmtMax f then
      match ov with
      | .saturate => ⟨sign + fmtMax f, flCVT ||| flINX⟩
      | .infinity => ⟨sign + (2 ^ f.eb - 1) * 2 ^ f.mb, flCVT ||| flINX⟩
    else ⟨sign + mag, flagIf r.2 flINX⟩

/-- Convert a value to a plain floating-point destination (R38, R39): `sat` is the SAT control. -/
def fmtConvert (f : Fmt) (sat : Bool) (v : FVal) : Conv :=
  match v with
  | .nan => ⟨f.canon, flNAN⟩
  | .inf s =>
    match f.top with
    | .ieee => ⟨(if s then 2 ^ (f.eb + f.mb) else 0) + (2 ^ f.eb - 1) * 2 ^ f.mb, 0⟩
    | _ => ⟨f.canon, flNAN⟩
  | .fin s m e =>
    fmtRoundFin f (if f.top = .ieee ∧ sat = false then .infinity else .saturate) s m e

/-- Saturate an integer to a two's-complement width; the flag is whether it left the range (R48, R52). -/
def satInt (w : Nat) (n : Int) : Int × Bool :=
  if n > 2 ^ (w - 1) - 1 then (2 ^ (w - 1) - 1, true)
  else if n < -(2 ^ (w - 1)) then (-(2 ^ (w - 1)), true)
  else (n, false)

/-- Convert a value to an integer destination of `w` bits (R38, R39, R96). -/
def intConvert (w : Nat) (v : FVal) : Int × Flags4 :=
  match v with
  | .nan => (0, flNAN)
  | .inf s => (if s then -(2 ^ (w - 1)) else 2 ^ (w - 1) - 1, flNAN ||| flCVT)
  | .fin s m e =>
    let r := dyRne (finDy s m e) 0
    let k := satInt w r.1
    if k.2 then (k.1, flCVT ||| flINX) else (k.1, flagIf r.2 flINX)

/-! ## Binary32 arithmetic (R33 to R36) -/

def f32Val (x : F32) : FVal := fmtDecode fmtFP32 x.toNat

/-- The canonical NaN (R36). -/
def f32Nan : F32 := 0x7FC00000#32

/-- Round a value to binary32, an overflow to infinity. -/
def f32Round (v : FVal) : F32 := BitVec.ofNat 32 (fmtConvert fmtFP32 false v).bits

/-- The flags of rounding an arithmetic result: INX for discarded bits. -/
def f32Inx (v : FVal) : Bool := (fmtConvert fmtFP32 false v).flags.getLsbD 0

/-- Exact sum of two values with the IEEE sign of a zero sum. -/
def valAdd (a b : FVal) : FVal :=
  match a, b with
  | .nan, _ => .nan
  | _, .nan => .nan
  | .inf s, .inf t => if s = t then .inf s else .nan
  | .inf s, .fin _ _ _ => .inf s
  | .fin _ _ _, .inf t => .inf t
  | .fin s m e, .fin t n g =>
    let d := dyAdd (finDy s m e) (finDy t n g)
    if d.n = 0 then .fin (s && t && m = 0 && n = 0) 0 0 else dyVal d

/-- Exact product of two values. -/
def valMul (a b : FVal) : FVal :=
  match a, b with
  | .nan, _ => .nan
  | _, .nan => .nan
  | .inf s, .inf t => .inf (s != t)
  | .inf s, .fin t n _ => if n = 0 then .nan else .inf (s != t)
  | .fin s m _, .inf t => if m = 0 then .nan else .inf (s != t)
  | .fin s m e, .fin t n g => .fin (s != t) (m * n) (e + g)

/-- The negated value. -/
def valNeg : FVal → FVal
  | .nan => .nan
  | .inf s => .inf (!s)
  | .fin s m e => .fin (!s) m e

def f32Add (a b : F32) : F32 := f32Round (valAdd (f32Val a) (f32Val b))
def f32Sub (a b : F32) : F32 := f32Round (valAdd (f32Val a) (valNeg (f32Val b)))
def f32Mul (a b : F32) : F32 := f32Round (valMul (f32Val a) (f32Val b))

/-- Fused multiply-add, one rounding. -/
def f32Fma (a b c : F32) : F32 := f32Round (valAdd (valMul (f32Val a) (f32Val b)) (f32Val c))

/-- Whether one value is below another, -0 counted below +0 (R94). -/
def valLt (a b : FVal) : Bool :=
  match a, b with
  | .nan, _ => false
  | _, .nan => false
  | .inf s, .inf t => s && !t
  | .inf s, .fin _ _ _ => s
  | .fin _ _ _, .inf t => !t
  | .fin s m e, .fin t n g =>
    let d := dyAdd (finDy s m e) (finDy (!t) n g)
    if d.n = 0 then m = 0 && s && !t else decide (d.n < 0)

def isNanV : FVal → Bool
  | .nan => true
  | _ => false

/-- Maximum; a NaN operand gives NaN, and max(-0, +0) = +0 (R94). -/
def f32Max (a b : F32) : F32 :=
  if isNanV (f32Val a) || isNanV (f32Val b) then f32Nan
  else if valLt (f32Val a) (f32Val b) then b else a

/-- Minimum; a NaN operand gives NaN, and min(-0, +0) = -0 (R94). -/
def f32Min (a b : F32) : F32 :=
  if isNanV (f32Val a) || isNanV (f32Val b) then f32Nan
  else if valLt (f32Val b) (f32Val a) then b else a

/-- The reciprocal, correctly rounded; a sticky bit below 64 quotient bits stands for the rest (R95). -/
def f32Rcp (a : F32) : F32 :=
  match f32Val a with
  | .nan => f32Nan
  | .inf s => f32Round (.fin s 0 0)
  | .fin s m e =>
    if m = 0 then f32Round (.inf s)
    else
      let k := 64 + Nat.log2 m
      let q := 2 ^ k / m
      let r := 2 ^ k % m
      f32Round (.fin s (2 * q + (if r = 0 then 0 else 1)) (-e - k - 1))

/-- One step of the integer square root, from the top bit down. -/
def isqrtGo (n : Nat) : Nat → Nat → Nat
  | 0, r => r
  | b + 1, r => isqrtGo n b (if (r + 2 ^ b) * (r + 2 ^ b) ≤ n then r + 2 ^ b else r)

/-- The largest r with r * r at most n, for n below 2^128. -/
def isqrt (n : Nat) : Nat := isqrtGo n 64 0

/-- The square root, correctly rounded (R95). -/
def f32Sqrt (a : F32) : F32 :=
  match f32Val a with
  | .nan => f32Nan
  | .inf s => if s then f32Nan else f32Round (.inf false)
  | .fin s m e =>
    if m = 0 then a
    else if s then f32Nan
    else
      let e2 := e % 2
      let m2 := (m * 2 ^ e2.toNat) * 2 ^ 80
      let r := isqrt m2
      f32Round (.fin false (2 * r + (if r * r = m2 then 0 else 1)) ((e - e2) / 2 - 40 - 1))

/-! ## Format codes (R96) and elements -/

/-- The format codes of R96. -/
inductive Code where
  | mxfp4 | mxfp6e2m3 | mxfp6e3m2 | mxfp8e4m3 | mxfp8e5m2 | mxint8 | fp8e4m3 | fp8e5m2
  | bf16 | fp16 | fp32 | int8 | int32
  deriving DecidableEq, Repr

def codeOf (n : Nat) : Option Code :=
  [Code.mxfp4, .mxfp6e2m3, .mxfp6e3m2, .mxfp8e4m3, .mxfp8e5m2, .mxint8, .fp8e4m3, .fp8e5m2,
   .bf16, .fp16, .fp32, .int8, .int32][n]?

/-- Whether a code has block scales in memory. -/
def Code.isMx : Code → Bool
  | .mxfp4 | .mxfp6e2m3 | .mxfp6e3m2 | .mxfp8e4m3 | .mxfp8e5m2 | .mxint8 => true
  | _ => false

def Code.isFp8 : Code → Bool
  | .fp8e4m3 | .fp8e5m2 => true
  | _ => false

/-- Bits of an element. -/
def Code.width : Code → Nat
  | .mxfp4 => 4
  | .mxfp6e2m3 | .mxfp6e3m2 => 6
  | .mxfp8e4m3 | .mxfp8e5m2 | .mxint8 | .fp8e4m3 | .fp8e5m2 | .int8 => 8
  | .bf16 | .fp16 => 16
  | .fp32 | .int32 => 32

/-- The floating-point layout of a code's element, if it has one. -/
def Code.fmt : Code → Option Fmt
  | .mxfp4 => some fmtE2M1
  | .mxfp6e2m3 => some fmtE2M3
  | .mxfp6e3m2 => some fmtE3M2
  | .mxfp8e4m3 | .fp8e4m3 => some fmtE4M3
  | .mxfp8e5m2 | .fp8e5m2 => some fmtE5M2
  | .bf16 => some fmtBF16
  | .fp16 => some fmtFP16
  | .fp32 => some fmtFP32
  | .mxint8 | .int8 | .int32 => none

/-- A pattern of `w` bits read as two's complement. -/
def sInt (w n : Nat) : Int := if n % 2 ^ w ≥ 2 ^ (w - 1) then (n % 2 ^ w : Int) - 2 ^ w else (n % 2 ^ w : Nat)

/-- A two's-complement pattern of `w` bits. -/
def sBits (w : Nat) (n : Int) : Nat := (n % 2 ^ w).toNat

/-- The value of an element before its block's scale (R37). -/
def elemVal (c : Code) (bits : Nat) : FVal :=
  match c.fmt with
  | some f => fmtDecode f bits
  | none =>
    let k := sInt c.width bits
    .fin (decide (k < 0)) k.natAbs (if c = .mxint8 then -6 else 0)

/-- An element under a block scale (R40, R42): 0xFF makes it a NaN. -/
def scaled (scale : Nat) (v : FVal) : FVal :=
  if scale = 0xFF then .nan
  else match v with
    | .fin s m e => .fin s m (e + scale - 127)
    | x => x

/-- The exponent of the largest element of an MX format (R43). -/
def Code.emax : Code → Int
  | .mxfp4 | .mxfp6e2m3 => 2
  | .mxfp6e3m2 => 4
  | .mxfp8e4m3 | .fp8e4m3 => 8
  | .mxfp8e5m2 | .fp8e5m2 => 15
  | _ => 0

/-- Round one element of an MX destination, saturating (R38, R43). -/
def mxElem (c : Code) (x : Int) (v : FVal) : Conv :=
  match v with
  | .fin s m e =>
    match c.fmt with
    | some f => fmtRoundFin f .saturate s m (e - x)
    | none =>
      let r := dyRne (finDy s m (e - x)) (-6)
      let k := satInt 8 r.1
      ⟨sBits 8 k.1, if k.2 then flCVT ||| flINX else flagIf r.2 flINX⟩
  | _ => ⟨0, 0⟩

/-- floor(log2 |v|) of a finite non-zero value. -/
def valLog2 : FVal → Option Int
  | .fin _ m e => if m = 0 then none else some ((Nat.log2 m : Int) + e)
  | _ => none

/-- The greatest floor(log2 |v|) of a block, none for a block of zeros. -/
def blockLog2 (vs : List FVal) : Option Int :=
  vs.foldl (fun a v => match a, valLog2 v with
    | none, b => b
    | a, none => a
    | some x, some y => some (max x y)) none

def FVal.finite : FVal → Bool
  | .fin _ _ _ => true
  | _ => false

/-- Convert one block to an MX format: scale, elements and flags (R43). -/
def mxBlock (c : Code) (vs : List FVal) : Nat × List Nat × Flags4 :=
  if vs.any (fun v => !v.finite) then (0xFF, vs.map (fun _ => 0), flNAN)
  else
    let x := match blockLog2 vs with
      | none => -127
      | some l => min (max (l - c.emax) (-127)) 127
    let es := vs.map (mxElem c x)
    ((x + 127).toNat, es.map (·.bits), es.foldl (fun f k => f ||| k.flags) 0)

/-! ## The anchored grid (R49 to R58) -/

/-- An anchor field (R49). -/
def anchorVal (a : BitVec 10) : Int := a.toInt

/-- The grid exponent A - 64 of an anchor. -/
def gridExp (a : BitVec 10) : Int := anchorVal a - 64

/-- Add an integer into a two's-complement sum of `w` bits, saturating with OVF (R48, R52). -/
def satAdd (w : Nat) (a b : Int) : Int × Flags4 :=
  let r := satInt w (a + b)
  (r.1, flagIf r.2 flOVF)

/-- Add one addend to an anchored sum of `w` bits (R51, R52): the quantisation of the addend saturates too. -/
def anchAdd (w : Nat) (a : BitVec 10) (sum : Int) (d : FVal) : Int × Flags4 :=
  match d with
  | .fin s m e =>
    let r := dyRne (finDy s m e) (gridExp a)
    let k := satInt w r.1
    let t := satAdd w sum k.1
    (t.1, flagIf k.2 flOVF ||| t.2 ||| flagIf r.2 flINX)
  | _ => (sum, flNAN)

/-- The exact value of an anchored integer (R50), a zero sum positive (R57). -/
def anchVal (a : BitVec 10) (n : Int) : FVal := dyVal ⟨n, gridExp a⟩

/-- The 16-byte memory form of an ANC96 accumulator (R58). -/
def ancPack (a : BitVec 10) (f : Flags4) (n : Int) : BitVec 128 :=
  BitVec.ofNat 128 (sBits 96 n + f.toNat * 2 ^ 96 + a.toNat * 2 ^ 102)

def ancSum (b : BitVec 128) : Int := sInt 96 b.toNat
def ancFlags (b : BitVec 128) : Flags4 := b.extractLsb' 96 4
def ancAnchor (b : BitVec 128) : BitVec 10 := b.extractLsb' 102 10

/-! ## Sum formats (R59) -/

/-- The sum formats of R59. -/
inductive SumFmt where
  | asf64 | asf128 | int32 | int64 | fp32 | bf16
  deriving DecidableEq, Repr

def sumFmtOf (n : Nat) : Option SumFmt := [SumFmt.asf64, .asf128, .int32, .int64, .fp32, .bf16][n]?

/-- Bytes of an element. -/
def SumFmt.bytes : SumFmt → Nat
  | .asf64 | .int64 => 8
  | .asf128 => 16
  | .int32 | .fp32 => 4
  | .bf16 => 2

def SumFmt.exact : SumFmt → Bool
  | .fp32 | .bf16 => false
  | _ => true

/-- FP32 addition of the reduction units with its flags (R59). -/
def redAdd32 (a b : F32) : F32 × Flags4 :=
  let v := valAdd (f32Val a) (f32Val b)
  let r := f32Round v
  let ovf := v.finite && !(f32Val r).finite
  (r, flagIf (f32Inx v) flINX ||| flagIf (ovf || !v.finite) flNAN)

/-- Add two elements held in working form: BF16 is worked in binary32 (R59). -/
def sumAdd (f : SumFmt) (a b : Nat) : Nat × Flags4 :=
  match f with
  | .asf64 | .int64 => let r := satAdd 64 (sInt 64 a) (sInt 64 b); (sBits 64 r.1, r.2)
  | .asf128 => let r := satAdd 128 (sInt 128 a) (sInt 128 b); (sBits 128 r.1, r.2)
  | .int32 => let r := satAdd 32 (sInt 32 a) (sInt 32 b); (sBits 32 r.1, r.2)
  | .fp32 | .bf16 =>
    let r := redAdd32 (BitVec.ofNat 32 a) (BitVec.ofNat 32 b)
    (r.1.toNat, r.2)

/-- An element of memory in working form: BF16 widened exactly (R59). -/
def sumWiden (f : SumFmt) (x : Nat) : Nat := if f = .bf16 then x * 2 ^ 16 else x

/-- What a result is written as: BF16 rounded, with no SAT control (R59); a NaN canonical (R36). -/
def sumFinal (f : SumFmt) (x : Nat) : Nat × Flags4 :=
  if f = .bf16 then
    let c := fmtConvert fmtBF16 false (f32Val (BitVec.ofNat 32 x))
    (c.bits, c.flags)
  else if f = .fp32 then ((f32Round (f32Val (BitVec.ofNat 32 x))).toNat, 0)
  else (x, 0)

end Sys2Proof.Machine
end

