-- ==== Sys2Proof/Machine/TileOps.lean ====
section
/-! DEFINITION. Tile descriptors: fields, operand regions, the checks of a TMMA, and the stores that make its output unpredictable (R41, R45, R92, R93, R101, R109 to R114). -/

namespace Sys2Proof.Machine

/-! ## Fields (R92, R109) -/

def tdAfmt (d : BitVec 256) : Nat := (d.extractLsb' 0 4).toNat
def tdBfmt (d : BitVec 256) : Nat := (d.extractLsb' 4 4).toNat
def tdOfmt (d : BitVec 256) : Nat := (d.extractLsb' 8 4).toNat
def tdAcc (d : BitVec 256) : Nat := (d.extractLsb' 12 2).toNat
def tdSat (d : BitVec 256) : Bool := d.getLsbD 14
def tdIfp32 (d : BitVec 256) : Bool := d.getLsbD 15
def tdAnchor (d : BitVec 256) : BitVec 10 := d.extractLsb' 16 10
def tdAform (d : BitVec 256) : Nat := (d.extractLsb' 26 2).toNat
def tdSten (d : BitVec 256) : Bool := d.getLsbD 28
def tdM (d : BitVec 256) : Nat := (d.extractLsb' 32 6).toNat + 1
def tdN (d : BitVec 256) : Nat := (d.extractLsb' 40 6).toNat + 1
def tdKcnt (d : BitVec 256) : Nat := (d.extractLsb' 48 16).toNat
def tdAstr (d : BitVec 256) : Nat := (d.extractLsb' 64 24).toNat
def tdAsstr (d : BitVec 256) : Nat := (d.extractLsb' 88 8).toNat
def tdBstr (d : BitVec 256) : Nat := (d.extractLsb' 96 24).toNat
def tdBsstr (d : BitVec 256) : Nat := (d.extractLsb' 120 8).toNat
def tdCstr (d : BitVec 256) : Nat := (d.extractLsb' 128 24).toNat
def tdAscl (d : BitVec 256) : Nat := (d.extractLsb' 160 25).toNat
def tdBscl (d : BitVec 256) : Nat := (d.extractLsb' 192 25).toNat
def tdStw (d : BitVec 256) : Nat := (d.extractLsb' 224 18).toNat

/-- Reserved fields are zero. -/
def tdReservedOk (d : BitVec 256) : Bool :=
  d.extractLsb' 29 3 = 0 && d.extractLsb' 38 2 = 0 && d.extractLsb' 46 2 = 0 && d.extractLsb' 152 8 = 0 &&
  d.extractLsb' 185 7 = 0 && d.extractLsb' 217 7 = 0 && d.extractLsb' 242 14 = 0

def saA (x : Word) : Nat := (x.extractLsb' 0 25).toNat
def saB (x : Word) : Nat := (x.extractLsb' 32 25).toNat
def sbC (x : Word) : Nat := (x.extractLsb' 0 25).toNat
def sbK0 (x : Word) : Nat := (x.extractLsb' 32 32).toNat

/-- Bits [31:25] and [63:57] of sa and [31:25] of sb are zero (R92). -/
def tmmaAddrOk (sa sb : Word) : Bool := sa.extractLsb' 25 7 = 0 && sa.extractLsb' 57 7 = 0 && sb.extractLsb' 25 7 = 0

/-! ## Combinations (R45, R110, R111, R113) -/

def Code.blocky (c : Code) : Bool := c.isMx || c.isFp8

def accAnchored : Nat := 0
def accFp32 : Nat := 1
def accInt32 : Nat := 2

/-- The table of R45. -/
def comboOk (a b : Code) (acc : Nat) : Bool :=
  if a.blocky && b.blocky then acc = accAnchored || acc = accFp32
  else if a = .bf16 && b = .bf16 then acc = accAnchored || acc = accFp32
  else if a = .fp16 && b = .fp16 then acc = accAnchored || acc = accFp32
  else a = .int8 && b = .int8 && acc = accInt32

/-- The descriptor names a combination of R45, with every field it uses in order (R113). -/
def tileFormatOk (d : BitVec 256) (final : Bool) : Bool :=
  match codeOf (tdAfmt d), codeOf (tdBfmt d) with
  | some a, some b =>
    tdReservedOk d && comboOk a b (tdAcc d) &&
    (a.isMx || (tdAscl d = 0 && tdAsstr d = 0)) && (b.isMx || (tdBscl d = 0 && tdBsstr d = 0)) &&
    (if tdAcc d = accAnchored then final || tdAform d ≠ 3 else tdAform d = 0 && !tdIfp32 d) &&
    (if final then
      match codeOf (tdOfmt d) with
      | some o => !o.isMx || tdN d = 32 || tdN d = 64
      | none => false
    else true)
  | _, _ => false

/-- K range of block formats starts and ends on a block (R41). -/
def blockAlignOk (d : BitVec 256) (sb : Word) : Bool :=
  match codeOf (tdAfmt d) with
  | some a => !a.blocky || (sbK0 sb % 32 = 0 && tdKcnt d % 32 = 0)
  | none => true

/-! ## Regions (R112) -/

/-- A run of bytes: its first address and its length. -/
abbrev Region := Nat × Nat

/-- The bytes of packed elements k0 to k0 + n - 1 of a row. -/
def packedRun (row w k0 n : Nat) : Region :=
  if n = 0 then (row, 0) else (row + k0 * w / 8, ((k0 + n) * w + 7) / 8 - k0 * w / 8)

def aRuns (d : BitVec 256) (sa sb : Word) : List Region :=
  match codeOf (tdAfmt d) with
  | some c => (List.range (tdM d)).map (fun m => packedRun (saA sa + m * tdAstr d) c.width (sbK0 sb) (tdKcnt d))
  | none => []

def bRuns (d : BitVec 256) (sa sb : Word) : List Region :=
  match codeOf (tdBfmt d) with
  | some c => (List.range (tdN d)).map (fun n => packedRun (saB sa + n * tdBstr d) c.width (sbK0 sb) (tdKcnt d))
  | none => []

def scaleRuns (d : BitVec 256) (sb : Word) : List Region :=
  (match codeOf (tdAfmt d) with
    | some c => if c.isMx then (List.range (tdM d)).map (fun m => (tdAscl d + 8 * m * tdAsstr d + sbK0 sb / 32, tdKcnt d / 32)) else []
    | none => []) ++
  (match codeOf (tdBfmt d) with
    | some c => if c.isMx then (List.range (tdN d)).map (fun n => (tdBscl d + 8 * n * tdBsstr d + sbK0 sb / 32, tdKcnt d / 32)) else []
    | none => [])

/-- Bytes of one output element of an accumulator form (R111, R114). -/
def formBytes (d : BitVec 256) : Nat :=
  if tdAcc d = accAnchored then (if tdAform d = 1 then 8 else 16) else 4

/-- Bytes of an output row: its elements, and for an MX format its scales after them (R112). -/
def outRowBytes (d : BitVec 256) (final : Bool) : Nat :=
  if final then
    match codeOf (tdOfmt d) with
    | some c => tdN d * c.width / 8 + (if c.isMx then tdN d / 32 else 0)
    | none => 0
  else tdN d * formBytes d

/-- Bytes of one element of the initial value (R112, R114). -/
def initBytes (d : BitVec 256) : Nat := if tdAcc d = accAnchored && !tdIfp32 d then 16 else 4

def outRuns (d : BitVec 256) (sb : Word) (final : Bool) : List Region :=
  (List.range (tdM d)).map (fun m => (sbC sb + m * tdCstr d, outRowBytes d final))

def initRuns (d : BitVec 256) (sb : Word) : List Region :=
  (List.range (tdM d)).map (fun m => (sbC sb + m * tdCstr d, tdN d * initBytes d))

def statusRun (d : BitVec 256) : List Region := if tdSten d then [(4 * tdStw d, 4)] else []

def runsOverlap (a b : Region) : Bool := decide (a.1 < b.1 + b.2) && decide (b.1 < a.1 + a.2) && a.2 ≠ 0 && b.2 ≠ 0

def anyOverlap (as bs : List Region) : Bool := as.any (fun a => bs.any (fun b => runsOverlap a b))

/-- Every byte lies where R113 says it must. -/
def tmmaRangeOk (d : BitVec 256) (sa sb : Word) (init final : Bool) : Bool :=
  tmmaAddrOk sa sb &&
  (aRuns d sa sb ++ bRuns d sa sb ++ scaleRuns d sb).all (fun r => r.2 = 0 || localOk r.1 r.2) &&
  (outRuns d sb final ++ (if init then initRuns d sb else []) ++ statusRun d).all (fun r => inTile r.1 r.2)

/-- What a TMMA reads: A, B, the scales and, under INIT, C (R114). -/
def readRuns (d : BitVec 256) (sa sb : Word) (init : Bool) : List Region :=
  aRuns d sa sb ++ bRuns d sa sb ++ scaleRuns d sb ++ (if init then initRuns d sb else [])

/-- The operands of a TMMA (R92, R101, R112): what it reads, and C whether it is read or only written. -/
def operandRuns (d : BitVec 256) (sa sb : Word) (init final : Bool) : List Region :=
  readRuns d sa sb init ++ outRuns d sb final

/-- C or the status word overlaps A, B or the scales (R113). -/
def selfOverlap (d : BitVec 256) (sa sb : Word) (final : Bool) : Bool :=
  anyOverlap (outRuns d sb final ++ statusRun d) (aRuns d sa sb ++ bRuns d sa sb ++ scaleRuns d sb)

/-- The first address of a run that lies outside the ranges of R85, or outside the tile store alone. -/
def outsideAt (tileOnly : Bool) (r : Region) : Nat :=
  if r.1 < 0x100000 then 0x100000
  else if !tileOnly && decide (0x1000000 ≤ r.1) && decide (r.1 < 0x1800000) then 0x1800000
  else r.1

/-- The faulting address of a TMMA that breaks the ranges of R92 or R113: the address in sa or sb whose upper bits are not zero, else the first byte outside, over A, B, the scales, the output, the initial value and the status word in that order (R70; log entry 87). -/
def tmmaFaultAddr (d : BitVec 256) (sa sb : Word) (init final : Bool) : Word :=
  if sa.extractLsb' 25 7 ≠ 0 then sa &&& 0xFFFFFFFF#64
  else if sa.extractLsb' 57 7 ≠ 0 then sa >>> 32
  else if sb.extractLsb' 25 7 ≠ 0 then sb &&& 0xFFFFFFFF#64
  else match (aRuns d sa sb ++ bRuns d sa sb ++ scaleRuns d sb).find? (fun r => !(r.2 = 0 || localOk r.1 r.2)) with
    | some r => BitVec.ofNat 64 (outsideAt false r)
    | none =>
      match (outRuns d sb final ++ (if init then initRuns d sb else []) ++ statusRun d).find? (fun r => !inTile r.1 r.2) with
      | some r => BitVec.ofNat 64 (outsideAt true r)
      | none => 0

/-- The cause of a TMMA that traps at issue, in the order of R92 and R106. -/
def tmmaCause (exact : Bool) (d : BitVec 256) (sa sb : Word) (init final : Bool) : Option Nat :=
  if exact && tdAcc d = accFp32 then some cExact
  else if !tileFormatOk d final then some cTileFormat
  else if !blockAlignOk d sb then some cBlockAlign
  else if !tmmaRangeOk d sa sb init final then some cLocalRange
  else none

/-! ## Output bits that become unpredictable (R93, R101, R113) -/

/-- Mark the queued or executing TMMAs of a core that a condition picks. -/
def spoilWhere (s : State) (c : CorePos) (pick : Nat → Tmma → Bool) : State :=
  modCore s c (fun k => { k with
    engines := Tab.mapVals k.engines (fun e x => { x with
      queue := x.queue.map (fun t => if pick e t then { t with spoiled := true } else t)
      running := x.running.map (fun t => if pick e t then { t with spoiled := true } else t) }) })

/-- A store of strands into [a, a + n) of the core's tile store. -/
def spoilTile (s : State) (c : CorePos) (a n : Nat) : State :=
  spoilWhere s c (fun _ t => anyOverlap [(a, n)] (operandRuns t.td t.sa t.sb t.init t.final))

/-- Cores of the cluster. -/
def coresOf (d : Fin 4) (l : Fin 12) : List CorePos := (List.finRange 16).map (fun c => ⟨d, l, c⟩)

/-- A local store of a strand: a TMMA of the core that has an operand there, or, for the felt, of any core of the cluster, has unpredictable output bits (R101). -/
def spoilOver (s : State) (c : CorePos) (a n : Nat) : State :=
  if a < 0x1000000 then spoilTile s c a n
  else (coresOf c.die c.cluster).foldl (fun s k =>
    if (getCore s k).engines.isEmpty then s else spoilTile s k a n) s

/-- Two TMMAs accumulate into one C (R93). -/
def sharesC (t u : Tmma) : Bool := anyOverlap (outRuns t.td t.sb t.final) (outRuns u.td u.sb u.final)

end Sys2Proof.Machine
end

