-- ==== Sys2Proof/Machine/Global.lean ====
section
/-! DEFINITION. Global loads, posted stores, atomics and reduction-stores as a strand issues them, and the completion of their requests (R86 to R89, R100, R104, R161, R321, R510). -/

namespace Sys2Proof.Machine

/-- What a strand's global instruction asks for. -/
structure GReq where
  opcode : BitVec 8
  /-- The multiple the global address must be of. -/
  align : Nat
  addr : Word
  key : Word
  data : List Byte := []
  dest : RespDest
  isLoad : Bool
  /-- Access type of a DATA breakpoint: 0 load, 1 store, 2 atomic, 3 reduction-store. -/
  access : Nat
  /-- A reduction-store in an exact format, which may carry COMB (R321). -/
  exactRed : Bool := false
  deriving DecidableEq, Repr

/-- Access width of GLD, GST and the atomics in bytes, by FN[1:0]. -/
def widthBytes (w : BitVec 2) : Nat := if w = 0 then 4 else if w = 1 then 8 else 64

/-- Global loads and atomics outstanding on a core, those of strands that have ended included (R64). -/
def coreLoads (s : State) (c : CorePos) : Nat :=
  let own (m : Master) : Bool :=
    match m with
    | .strand q _ _ => decide (coreOf q = c)
    | .gather _ _ _ _ => false
  let e := getEp s c.die
  (e.outst.filter (fun o => o.isLoad && own o.master)).length + (e.completed.filter (fun x => x.isLoad && own x.master)).length

/-- A reduction-store request opcode. -/
def isRedsOp (op : BitVec 8) : Bool := op.extractLsb' 4 4 = 4 || op.extractLsb' 4 4 = 5

/-- COMB on a first send (R321): every request of the flow to the line that awaits a response is a reduction-store with the same opcode. -/
def combOk (s : State) (d : Nat) (flow : BitVec 20) (q : GReq) : Bool :=
  q.exactRed && ((getEp s d).outst.filter (fun o => o.req.flow = flow && o.req.addr.toNat / 64 = q.addr.toNat / 64)).all
    (fun o => o.req.opcode = q.opcode)

/-- A request completes at its source without being sent (R161). -/
def completeHere (s : State) (d : Nat) (m : Master) (dest : RespDest) (isLoad : Bool) (addr : Word) (status : BitVec 4) : State :=
  let c : Completion := { id := s.fab.nextId, master := m, dest := dest, isLoad := isLoad, addr := addr, status := status, data := [] }
  let s := { s with fab := { s.fab with nextId := s.fab.nextId + 1 } }
  modEp s d (fun e => { e with
    completed := e.completed ++ [c]
    violSrc := if status = 4 then satUp e.violSrc 1 0xFF else e.violSrc })

/-- The strand counts a request it has issued. -/
def countIssued (isLoad : Bool) (st : Strand) : Strand :=
  if isLoad then { st with loads := st.loads + 1 } else { st with posted := st.posted + 1 }

/-- A strand's request with its checks passed: it is sent, completed at the source, or waits (R64, R161, R171, R187, R314). -/
def sendStrand (s : State) (p : Pos) (q : GReq) : State :=
  let d := p.die.val
  let st := getStrand s p
  let m : Master := .strand p st.gen st.pc
  let done (s : State) : State := finish (bumpCore s (coreOf p) 6 1) p (countIssued q.isLoad)
  match decodeReq s q.addr with
  | .violation => done (completeHere s d m q.dest q.isLoad q.addr 4)
  | .poisoned => done (completeHere s d m q.dest q.isLoad q.addr 5)
  | .send =>
    let id := strandSliceId s p
    match findFlow s false id (nodeOf s d) (addrNode q.addr) with
    | some (k, f) =>
      if creditFor s d k then
        done (sendRequest s d k f q.opcode q.addr q.key q.data (combOk s d (BitVec.ofNat 20 k) q) m q.dest q.isLoad)
      else waitOn s p (.credit (some k) q.addr)
    | none =>
      match openFlow s false id (nodeOf s d) (addrNode q.addr) with
      | some (k, s) => waitOn s p (.credit (some k) q.addr)
      | none => waitOn s p (.credit none q.addr)

/-- A global request at issue: alignment, DATA breakpoint, the load limits, then the request (R64, R87 to R89, R106, R510). -/
def globalIssue (s : State) (p : Pos) (q : GReq) : State :=
  if q.addr.toNat % q.align ≠ 0 then trapAt s p cMisaligned q.addr
  else match dataBkpt s p q.access q.addr with
    | some b => haltBy s p b.scope
    | none =>
      if q.isLoad && (decide (16 ≤ (getStrand s p).loads) || decide (512 ≤ coreLoads s (coreOf p))) then waitOn s p .loadLimit
      else sendStrand s p q

/-- The local side of a LINE form: the cause at issue, range before alignment (R87, R89, R106). Where both the local and the global address are misaligned, TVAL holds the local one, which the spec does not say (log entry 87). -/
def lineCause (a : Word) : Option Nat :=
  if !localOk a.toNat 64 then some cLocalRange else if a.toNat % 64 ≠ 0 then some cMisaligned else none

/-- Neither a misaligned global address nor a DATA breakpoint keeps the request from being made. -/
def issuesNow (s : State) (p : Pos) (q : GReq) : Bool := q.addr.toNat % q.align = 0 && (dataBkpt s p q.access q.addr).isNone

/-- A LINE form that reads 64 bytes of local memory into its request. -/
def withLine (s : State) (p : Pos) (a : Word) (q : List Byte → GReq) : State :=
  match lineCause a with
  | some c => trapAt s p c a
  | none =>
    let r := q (localRead s (coreOf p) a.toNat 64)
    if sramBad s (localKey (coreOf p) a.toNat) 64 && issuesNow s p r then strandFault s p cLocalUnc false (getStrand s p).pc a
    else globalIssue s p r

/-- GLD (R87): KS = FN[3:2], W = FN[1:0]; SB is reserved but for LINE, SD for LINE. -/
def execGld (p : Pos) (g : Guard) (sd sa sb : BitVec 6) (ks w : BitVec 2) (s : State) : Result :=
  let legal := if w = 2 then sd = 0 else w ≠ 3 && sb = 0
  .next (issue s p g legal [sd, sa, sb] (fun s =>
    let st := getStrand s p
    let a := rd st sa
    let key := rdKey st ks
    if w = 2 then
      match lineCause (rd st sb) with
      | some c => trapAt s p c (rd st sb)
      | none => globalIssue s p { opcode := 0x03, align := 64, addr := a, key := key, dest := .line (rd st sb).toNat, isLoad := true, access := 0 }
    else globalIssue s p { opcode := if w = 0 then 0x01 else 0x02, align := widthBytes w, addr := a, key := key, dest := .reg sd (widthBytes w), isLoad := true, access := 0 }) (if w = 2 then [sa, sb] else [sa]))

/-- GST (R87): SD must be 0. -/
def execGst (p : Pos) (g : Guard) (sd sa sb : BitVec 6) (ks w : BitVec 2) (s : State) : Result :=
  .next (issue s p g (sd = 0 && w ≠ 3) [sa, sb] (fun s =>
    let st := getStrand s p
    let a := rd st sa
    let key := rdKey st ks
    if w = 2 then
      withLine s p (rd st sb) (fun bs => { opcode := 0x0A, align := 64, addr := a, key := key, data := bs, dest := .posted, isLoad := false, access := 1 })
    else globalIssue s p { opcode := if w = 0 then 0x08 else 0x09, align := widthBytes w, addr := a, key := key, data := leBytes (widthBytes w) (rd st sb).toNat, dest := .posted, isLoad := false, access := 1 }))

/-- An atomic with return (R88): 4 or 8 bytes, the operand in sb; ACAS sends the compare value first and the value of sb + 1 after it. -/
def atomicOp (p : Pos) (g : Guard) (n : Nat) (cas : Bool) (sd sa sb : BitVec 6) (ks w : BitVec 2) (s : State) : State :=
  let legal := (w = 0 || w = 1) && (!cas || sb.getLsbD 0 = false)
  issue s p g legal (if cas then [sd, sa, sb, sb + 1] else [sd, sa, sb]) (fun s =>
    let st := getStrand s p
    let k := widthBytes w
    let data := leBytes k (rd st sb).toNat ++ (if cas then leBytes k (rd st (sb + 1)).toNat else [])
    globalIssue s p { opcode := BitVec.ofNat 8 (0x10 + n), align := k, addr := rd st sa, key := rdKey st ks, data := data, dest := .reg sd k, isLoad := true, access := 2 }) (if cas then [sa, sb, sb + 1] else [sa, sb])

def execAadd (p : Pos) (g : Guard) (sd sa sb : BitVec 6) (ks w : BitVec 2) (s : State) : Result := .next (atomicOp p g 0 false sd sa sb ks w s)
def execAand (p : Pos) (g : Guard) (sd sa sb : BitVec 6) (ks w : BitVec 2) (s : State) : Result := .next (atomicOp p g 1 false sd sa sb ks w s)
def execAor (p : Pos) (g : Guard) (sd sa sb : BitVec 6) (ks w : BitVec 2) (s : State) : Result := .next (atomicOp p g 2 false sd sa sb ks w s)
def execAxor (p : Pos) (g : Guard) (sd sa sb : BitVec 6) (ks w : BitVec 2) (s : State) : Result := .next (atomicOp p g 3 false sd sa sb ks w s)
def execAmin (p : Pos) (g : Guard) (sd sa sb : BitVec 6) (ks w : BitVec 2) (s : State) : Result := .next (atomicOp p g 4 false sd sa sb ks w s)
def execAmax (p : Pos) (g : Guard) (sd sa sb : BitVec 6) (ks w : BitVec 2) (s : State) : Result := .next (atomicOp p g 5 false sd sa sb ks w s)
def execAminu (p : Pos) (g : Guard) (sd sa sb : BitVec 6) (ks w : BitVec 2) (s : State) : Result := .next (atomicOp p g 6 false sd sa sb ks w s)
def execAmaxu (p : Pos) (g : Guard) (sd sa sb : BitVec 6) (ks w : BitVec 2) (s : State) : Result := .next (atomicOp p g 7 false sd sa sb ks w s)
def execAswap (p : Pos) (g : Guard) (sd sa sb : BitVec 6) (ks w : BitVec 2) (s : State) : Result := .next (atomicOp p g 8 false sd sa sb ks w s)
def execAcas (p : Pos) (g : Guard) (sd sa sb : BitVec 6) (ks w : BitVec 2) (s : State) : Result := .next (atomicOp p g 9 true sd sa sb ks w s)

/-- The encodings of a REDS that are not reserved (R89): BF16 has no ELEM form, and ASF128 in ELEM needs an even SB. -/
def redsLegal (fmt : BitVec 4) (sb : BitVec 6) (form : BitVec 2) : Bool :=
  match sumFmtOf fmt.toNat with
  | none => false
  | some f => (form = 0 && f ≠ .bf16 && (f ≠ .asf128 || sb.getLsbD 0 = false)) || form = 1

/-- The payload of a REDS ELEM (R89). -/
def redsElem (st : Strand) (f : SumFmt) (sb : BitVec 6) : List Byte :=
  if f = .asf128 then leBytes 8 (rd st sb).toNat ++ leBytes 8 (rd st (sb + 1)).toNat else leBytes f.bytes (rd st sb).toNat

/-- REDS (R89). -/
def execReds (p : Pos) (g : Guard) (fmt : BitVec 4) (sa sb : BitVec 6) (ks form : BitVec 2) (s : State) : Result :=
  let f := (sumFmtOf fmt.toNat).getD .int32
  .next (issue s p g (redsLegal fmt sb form) (if f = .asf128 && form = 0 then [sa, sb, sb + 1] else [sa, sb]) (fun s =>
    let st := getStrand s p
    let a := rd st sa
    let key := rdKey st ks
    if isExact s p && !f.exact then trapFree s p cExact
    else if form = 0 then
      globalIssue s p { opcode := BitVec.ofNat 8 (0x40 + fmt.toNat), align := f.bytes, addr := a, key := key, data := redsElem st f sb, dest := .posted, isLoad := false, access := 3, exactRed := f.exact }
    else
      withLine s p (rd st sb) (fun bs => { opcode := BitVec.ofNat 8 (0x50 + fmt.toNat), align := 64, addr := a, key := key, data := bs, dest := .posted, isLoad := false, access := 3, exactRed := f.exact })))

/-! ## Completion (R87, R104, R168, R177) -/

/-- Take a completion out of an endpoint's list. -/
def dropCompletion (s : State) (d id : Nat) : State := modEp s d (fun e => { e with completed := e.completed.filter (fun c => c.id ≠ id) })

/-- What an OK completion writes for its strand. -/
def deliverTo (s : State) (p : Pos) (dest : RespDest) (data : List Byte) : State :=
  match dest with
  | .reg sd n => modStrand s p (fun st => wr st sd (BitVec.ofNat 64 (leNat (data.take n))))
  | .line a => spoilOver (localWrite s (coreOf p) a (padTo 64 data)) (coreOf p) a 64
  | _ => s

/-- The strand counts a request as complete. -/
def countDone (isLoad : Bool) (st : Strand) : Strand :=
  if isLoad then { st with loads := st.loads - 1 } else { st with posted := st.posted - 1 }

/-- A completed request reaches its strand: data, or a fault. A strand that runs another program, or that is STOPPED or FROZEN, has only its counts changed: the result goes to a discarded register, and of a GLD LINE none of the 64 bytes is written, which R67 does not say (log entry 89). -/
def deliver (s : State) (d : Nat) (c : Completion) (p : Pos) (gen : Nat) (pc : Word) : State :=
  let st := getStrand s p
  let same := sameProgram st gen
  let s := dropCompletion s d c.id
  let s := if same then modStrand s p (countDone c.isLoad) else s
  match statusCause c.status with
  | some cause => asyncFault s p gen pc c.addr cause
  | none => if same && st.st ≠ .stopped && st.st ≠ .frozen then deliverTo s p c.dest c.data else s

/-- GLOBAL_RESPONSE (R104): the completion `id` of a die's endpoint is delivered to the strand that issued its request. -/
def execGlobalResponse (die : Fin 4) (id : Nat) (s : State) : Result :=
  .next (match (getEp s die.val).completed.find? (fun c => c.id = id) with
    | some c =>
      match c.master with
      | .strand p gen pc => deliver s die.val c p gen pc
      | .gather _ _ _ _ => s
    | none => s)

end Sys2Proof.Machine
end

