-- ==== Sys2Proof/Machine/Gather.lean ====
section
/-! DEFINITION. The gather unit: descriptors, the page walk, its reads and its counting (R90, R125 to R131). -/

namespace Sys2Proof.Machine

/-! ## Descriptor fields (R126, R127) -/

def gaPta (d : BitVec 512) : Word := d.extractLsb' 0 64
def gaCount (d : BitVec 512) : Nat := (d.extractLsb' 64 16).toNat
def gaPsize (d : BitVec 512) : Nat := (d.extractLsb' 80 4).toNat
def gaPtloc (d : BitVec 512) : Bool := d.getLsbD 84
def gaFirst (d : BitVec 512) : Nat := (d.extractLsb' 96 32).toNat
def gaSuboff (d : BitVec 512) : Nat := (d.extractLsb' 128 17).toNat
def gaSublen (d : BitVec 512) : Nat := (d.extractLsb' 160 17).toNat
def gaDest (d : BitVec 512) : Nat := (d.extractLsb' 192 25).toNat
def gaDstride (d : BitVec 512) : Nat := (d.extractLsb' 224 25).toNat
def gaKey (d : BitVec 512) (k : Nat) : Word := d.extractLsb' (256 + 64 * k) 64
def gaPageBytes (d : BitVec 512) : Nat := 512 * 2 ^ gaPsize d

def gaReservedOk (d : BitVec 512) : Bool :=
  d.extractLsb' 85 11 = 0 && d.extractLsb' 145 15 = 0 && d.extractLsb' 177 15 = 0 && d.extractLsb' 217 7 = 0 && d.extractLsb' 249 7 = 0

/-- Every destination byte lies in the felt, or every one in the issuing core's tile store. -/
def gaDestOk (d : BitVec 512) : Bool := localOk (gaDest d) ((gaCount d - 1) * gaDstride d + gaSublen d)

/-- A table read directly lies wholly in the felt (R126). -/
def gaTableOk (d : BitVec 512) : Bool := !gaPtloc d || inFelt ((gaPta d).toNat + 8 * gaFirst d) (8 * gaCount d)

/-- The checks of R130 on the descriptor's own fields. -/
def gaFieldsOk (d : BitVec 512) : Bool :=
  gaReservedOk d && decide (gaPsize d < 8) && decide (gaSuboff d + gaSublen d ≤ gaPageBytes d) &&
  (gaPta d).toNat % 8 = 0 && gaSuboff d % 64 = 0 && gaSublen d % 64 = 0 && gaSublen d ≠ 0 && gaDest d % 64 = 0 && gaDstride d % 64 = 0 &&
  gaCount d ≠ 0 && gaDestOk d && gaTableOk d

/-- A page-table entry with no reserved bit and no bit below the page size set (R128, R130). -/
def entryOk (d : BitVec 512) (e : Word) : Bool :=
  e.extractLsb' 3 6 = 0 && (e.toNat / 512 * 512) % gaPageBytes d = 0

def entrySkip (e : Word) : Bool := e.getLsbD 2
def entryPage (e : Word) : Nat := e.toNat / 512 * 512
def entryKey (d : BitVec 512) (e : Word) : Word := gaKey d (e.toNat % 4)

def gaLines (d : BitVec 512) : Nat := gaSublen d / 64

/-! ## Slots -/

def getGather (s : State) (d l k : Nat) : Option GatherSlot := Tab.find (getCluster s d l).slots k

def modGather (s : State) (d l k : Nat) (f : GatherSlot → GatherSlot) : State :=
  match getGather s d l k with
  | some g => modCluster s d l (fun c => { c with slots := Tab.set c.slots k (f g) })
  | none => s

/-- Reads of a slot that await a response or whose completion is not yet taken. -/
def gatherReads (s : State) (d l k : Nat) : List GatherRead :=
  let f (m : Master) : Option GatherRead :=
    match m with
    | .gather d' l' k' r => if d' = d && l' = l && k' = k then some r else none
    | _ => none
  (getEp s d).outst.filterMap (fun o => f o.master) ++ (getEp s d).completed.filterMap (fun c => f c.master)

/-- Line reads a cluster's unit has outstanding in all (R125). -/
def unitReads (s : State) (d l : Nat) : Nat :=
  let f (m : Master) : Bool :=
    match m with
    | .gather d' l' _ _ => d' = d && l' = l
    | _ => false
  ((getEp s d).outst.filter (fun o => f o.master)).length

/-- The next read of a page that has not been made. -/
def pageNext (g : GatherSlot) (busy : List GatherRead) (i : Nat) : Option GatherRead :=
  match Tab.find g.entries i with
  | none => if busy.contains (.entry i) then none else some (.entry i)
  | some e =>
    if entrySkip e then none
    else
      let got := Tab.getD g.linesDone i []
      ((List.range (gaLines g.desc)).find? (fun n => !got.contains n && !busy.contains (.line i n))).map (fun n => .line i n)

/-- Every line of a page is written, or the page is skipped. -/
def pageDone (g : GatherSlot) (i : Nat) : Bool :=
  match Tab.find g.entries i with
  | none => false
  | some e => entrySkip e || decide ((Tab.getD g.linesDone i []).length = gaLines g.desc)

/-- A page whose entry breaks R130. -/
def pageBad (g : GatherSlot) (i : Nat) : Bool :=
  match Tab.find g.entries i with
  | none => false
  | some e => !entryOk g.desc e

/-- The next read of the pages of a list: lines in page order, so none while an earlier page's entry has not come; later entries may be read meanwhile (R125). -/
def firstRead (g : GatherSlot) (busy : List GatherRead) : Bool → List Nat → Option GatherRead
  | _, [] => none
  | blocked, i :: rest =>
    match pageNext g busy i with
    | some (.entry j) => some (.entry j)
    | some r => if blocked then firstRead g busy true rest else some r
    | none => firstRead g busy (blocked || (Tab.find g.entries i).isNone) rest

/-- The next read of a slot, in page order; nothing beyond a bad entry. -/
def nextRead (s : State) (d l k : Nat) (g : GatherSlot) : Option GatherRead :=
  if g.stopped then none
  else firstRead g (gatherReads s d l k) false (((List.range (gaCount g.desc - g.counted)).map (fun i => g.counted + i)).takeWhile (fun i => !pageBad g i))

/-- Address, key and opcode of a read. -/
def readAddr (g : GatherSlot) (r : GatherRead) : Word × Word × BitVec 8 :=
  match r with
  | .entry i => (gaPta g.desc + BitVec.ofNat 64 (8 * (gaFirst g.desc + i)), gaKey g.desc 0, 0x02)
  | .line i n =>
    let e := Tab.getD g.entries i 0
    (BitVec.ofNat 64 (entryPage e + gaSuboff g.desc + 64 * n), entryKey g.desc e, 0x03)

/-- End a gather: its slot is free; reads outstanding complete and are discarded. A slot number of 32 names no slot. -/
def freeGather (s : State) (d l k : Nat) : State :=
  let own (m : Master) : Bool :=
    match m with
    | .gather d' l' k' _ => d' = d && l' = l && k' = k
    | _ => false
  let s := modEp s d (fun e => { e with
    outst := e.outst.map (fun o => if own o.master then { o with master := .gather d l 32 (.entry 0) } else o)
    completed := e.completed.filter (fun c => !own c.master) })
  modCluster s d l (fun c => { c with slots := Tab.erase c.slots k })

/-- The slice's ring learns of a failure (R130, R508). -/
def gatherEvent (s : State) (g : GatherSlot) (status : BitVec 16) (addr : Word) : State :=
  postEventId s g.slice { kind := 0x04, status := status, strand := strandIdLow g.p, location := g.pc, aux := addr }

/-- A read of a gather completes with a fault (R131). -/
def gatherFault (s : State) (d l k : Nat) (g : GatherSlot) (addr : Word) (cause : Nat) : State :=
  let s := freeGather s d l k
  let status := if cause = cViolation then stViolation else if cause = cTimeout then stTimeout else if cause = cIndeterminate then stIndeterminate else stPoisoned
  asyncFault (gatherEvent s g status addr) g.p g.gen g.pc addr cause

/-- Count pages in ascending order while they are in place; the last frees the slot, and a bad entry whose turn has come ends the gather (R129, R130). -/
def countPages (d l k : Nat) : Nat → State → State
  | 0, s => s
  | n + 1, s =>
    match getGather s d l k with
    | none => s
    | some g =>
      if gaCount g.desc ≤ g.counted then freeGather s d l k
      else if pageBad g g.counted then freeGather (gatherEvent s g stBadParam 0) d l k
      else if pageDone g g.counted then
        countPages d l k n (modGather (bumpCluster (counterAddTo s d g.counter 1) d l 3 1) d l k (fun g => { g with counted := g.counted + 1 }))
      else s

/-- Read a page-table entry straight from the felt (R126); an uncorrectable word is a poisoned read. -/
def feltEntry (s : State) (d l k : Nat) (g : GatherSlot) (i : Nat) : State :=
  let a := (gaPta g.desc).toNat + 8 * (gaFirst g.desc + i)
  let x := localKey (coreOf g.p) a
  if sramBad s x 8 then gatherFault s d l k g (BitVec.ofNat 64 a) cPoisoned
  else
    let v := BitVec.ofNat 64 (leNat (memRead s.mem.bytes x 8))
    countPages d l k (gaCount g.desc + 1) (modGather (bumpCluster s d l 5 1) d l k (fun g => { g with entries := Tab.set g.entries i v }))

/-- Issue one read of a slot, if it has one and it may be sent. -/
def pumpSlot (s : State) (d l k : Nat) : State :=
  match getGather s d l k with
  | none => s
  | some g =>
    match nextRead s d l k g with
    | none => s
    | some r =>
      match r, gaPtloc g.desc with
      | .entry i, true => feltEntry s d l k g i
      | _, _ =>
        let a := readAddr g r
        let m : Master := .gather d l k r
        match decodeReq s a.1 with
        | .violation => completeHere s d m .gather false a.1 4
        | .poisoned => completeHere s d m .gather false a.1 5
        | .send =>
          if 1024 ≤ unitReads s d l then s
          else
            match findFlow s false g.slice (nodeOf s d) (addrNode a.1) with
            | some (f, fl) =>
              if creditFor s d f then sendRequest s d f fl a.2.2 a.1 a.2.1 [] false m .gather false else s
            | none =>
              match openFlow s false g.slice (nodeOf s d) (addrNode a.1) with
              | some (_, s) => s
              | none => s

/-- Active slots in the order of the round-robin, from the one whose turn it is (R125). -/
def slotOrder (c : Cluster) : List Nat :=
  let ks := c.slots.map Prod.fst
  ks.filter (fun k => c.gatherTurn ≤ k) ++ ks.filter (fun k => k < c.gatherTurn)

/-- A slot's turn: where it made a read, the turn passes to the next. -/
def turnSlot (d l : Nat) (s : State) (k : Nat) : State :=
  let s' := pumpSlot s d l k
  if s'.fab.nextId = s.fab.nextId && getCluster s' d l = getCluster s d l then s' else modCluster s' d l (fun c => { c with gatherTurn := k + 1 })

/-- Round-robin over the unit's slots until no read can be made (R125). -/
def pumpGather (d l : Nat) : Nat → State → State
  | 0, s => s
  | n + 1, s =>
    let s' := (slotOrder (getCluster s d l)).foldl (turnSlot d l) s
    if s'.fab.nextId = s.fab.nextId && getCluster s' d l = getCluster s d l then s' else pumpGather d l n s'

/-- Every unit of a die. -/
def pumpDie (s : State) (d : Nat) : State :=
  (List.range 12).foldl (fun s l => if (getCluster s d l).slots.isEmpty then s else pumpGather d l 2048 s) s

/-- The address of the first read a gather would send: its first page-table entry, or, where the table lies in the felt, its first line; none where it sends none. -/
def firstSend (s : State) (g : GatherSlot) : Option Word :=
  if !gaPtloc g.desc then some (readAddr g (.entry 0)).1
  else
    let e := BitVec.ofNat 64 (leNat (memRead s.mem.bytes (localKey (coreOf g.p) ((gaPta g.desc).toNat + 8 * gaFirst g.desc)) 8))
    if entrySkip e || !entryOk g.desc e then none else some (readAddr { g with entries := [(0, e)] } (.line 0 0)).1

/-- No request credit for a gather's first read (R64): its flow is not open or has no room, or none could be opened. The state is that after a flow it needs has been asked for. -/
def gatherCredit (s : State) (g : GatherSlot) : Option (WaitFor × State) :=
  match firstSend s g with
  | none => none
  | some a =>
    match decodeReq s a with
    | .send =>
      match findFlow s false g.slice (nodeOf s g.p.die) (addrNode a) with
      | some (k, _) => if creditFor s g.p.die k then none else some (.credit (some k) a, s)
      | none =>
        match openFlow s false g.slice (nodeOf s g.p.die) (addrNode a) with
        | some (k, s) => some (.credit (some k) a, s)
        | none => some (.credit none a, s)
    | _ => none

/-- A descriptor's verdict: the status of R130, or none. A descriptor address outside the felt or not a multiple of 64, and an SB value with bits [63:14] set, are misaligned or misused fields too: BAD_PARAM in the ring and no trap, where R90 and R105 name no cause (log entry 88). -/
def gatherStatus (s : State) (p : Pos) (a x : Word) (d : BitVec 512) : Option (BitVec 16) :=
  if a.toNat % 64 ≠ 0 || !inFelt a.toNat 64 || x.toNat ≥ 16384 then some stBadParam
  else if !gaFieldsOk d then some stBadParam
  else if !ownsCounter s p.die.val (x.toNat % 16384) (strandSliceId s p) then some stDenied
  else none

/-- GATHER (R90, R125, R130): the descriptor is read from the felt at issue; an uncorrectable word of it is a poisoned read (R131). -/
def execGather (p : Pos) (g : Guard) (sa sb : BitVec 6) (s : State) : Result :=
  .next (issue s p g true [sa, sb] (fun s =>
    let st := getStrand s p
    let d := p.die.val
    let l := p.cluster.val
    let a := rd st sa
    let x := rd st sb
    let desc := BitVec.ofNat 512 (leNat (localRead s (coreOf p) a.toNat 64))
    match Tab.freeIndex (getCluster s d l).slots 32 with
    | none => waitOn s p .gatherSlot
    | some k =>
      let gs : GatherSlot := { p := p, gen := st.gen, pc := st.pc, slice := strandSliceId s p, counter := x.toNat % 16384, desc := desc }
      if a.toNat % 64 = 0 && inFelt a.toNat 64 && sramBad s (localKey (coreOf p) a.toNat) 64 then
        asyncFault (gatherEvent (finish s p id) gs stPoisoned a) p st.gen st.pc a cPoisoned
      else match gatherStatus s p a x desc with
      | some status => finish (gatherEvent s gs status 0) p id
      | none =>
        match gatherCredit s gs with
        | some (w, s) => waitOn s p w
        | none =>
          let s := finish s p id
          let s := modCluster s d l (fun c => { c with slots := Tab.set c.slots k gs })
          pumpGather d l 2048 s))

/-- The bytes of a line read are written where R129 puts them. -/
def writeLine (s : State) (g : GatherSlot) (i n : Nat) (data : List Byte) : State :=
  localWrite s (coreOf g.p) (gaDest g.desc + i * gaDstride g.desc + 64 * n) (padTo 64 data)

/-- GATHER_LINE_RESPONSE (R128 to R131): the completion of one read of a slot is taken. -/
def execGatherLineResponse (die : Fin 4) (cluster : Fin 12) (slot : Fin 32) (rd : GatherRead) (s : State) : Result :=
  let d := die.val
  let l := cluster.val
  let k := slot.val
  .next (match (getEp s d).completed.find? (fun c => c.master = .gather d l k rd), getGather s d l k with
    | some c, some g =>
      let s := dropCompletion s d c.id
      match statusCause c.status with
      | some cause => gatherFault s d l k g c.addr cause
      | none =>
        let s := bumpCluster s d l (match rd with
          | .entry _ => 5
          | .line _ _ => 4) 1
        let s :=
          match rd with
          | .entry i => modGather s d l k (fun g => { g with entries := Tab.set g.entries i (BitVec.ofNat 64 (leNat (c.data.take 8))) })
          | .line i n =>
            let s := writeLine s g i n c.data
            modGather s d l k (fun g => { g with linesDone := Tab.set g.linesDone i (Tab.getD g.linesDone i [] ++ [n]) })
        pumpGather d l 2048 (countPages d l k (gaCount g.desc + 1) s)
    | _, _ => s)

end Sys2Proof.Machine
end

