-- ==== Sys2Proof/Machine/MemErr.lean ====
section
/-! DEFINITION. Memory error records, the decode of an HBM sector, and row errors (R136 to R142, R148, R150, R155, R156). -/

namespace Sys2Proof.Machine

/-! ## Memory error records (R155, R156) -/

/-- Index of an instance in the table of records: HBM stacks, then clusters' SRAM, then the fabric die's regions. -/
def errIx : MemErrSel → Nat
  | .hbm k => k.val
  | .cd d p => 16 + 13 * d.val + p.val
  | .fd r => 68 + r.val

/-- The source ID of an instance (R486). -/
def errSource : MemErrSel → BitVec 16
  | .hbm k => srcKind 4 k.val
  | .cd d p => srcKind 5 (13 * d.val + p.val)
  | .fd r => srcKind 6 r.val

def getErr (s : State) (e : MemErrSel) : MemErr := Tab.getD s.mem.errs (errIx e) {}

def setErr (s : State) (e : MemErrSel) (m : MemErr) : State :=
  { s with mem := { s.mem with errs := Tab.set s.mem.errs (errIx e) m } }

/-- The captured error is replaced by this one (R156). -/
def errCaptures (m : MemErr) (ue : Bool) : Bool := !m.firstValid || (ue && !m.firstUe)

/-- Count an error in its record; a capture goes to the recorder. -/
def memError (s : State) (e : MemErrSel) (ue : Bool) (loc : Nat) : State :=
  let m := getErr s e
  let m1 := if ue then { m with ue := satUp m.ue 1 0xFF } else { m with ce := satUp m.ce 1 0xFFFF }
  let ev : ErrEv := { source := errSource e, event := if ue then evUncorrectable else evCorrected, location := BitVec.ofNat 64 loc }
  if errCaptures m ue then
    record (setErr s e { m1 with firstValid := true, firstUe := ue, firstLoc := loc % 2 ^ 36, firstAt := s.tb.time }) ev
  else countError (setErr s e m1) ev

/-! ## Rows (R148, R150) -/

def getRow (s : State) (r : RowId) : RowErr := (s.mem.rows.find? (fun x => x.row = r)).getD { row := r }

def setRow (s : State) (x : RowErr) : State :=
  { s with mem := { s.mem with rows := s.mem.rows.filter (fun y => y.row ≠ x.row) ++ [x] } }

/-- Four corrected errors in one row within 24 hours call for repair. -/
def rowCorrected (s : State) (r : RowId) (g : Nat) : State :=
  let x := getRow s r
  let now := s.tb.time
  let ts := x.ceTimes.filter (fun t => now < t + 24 * 3600 * secU) ++ [now]
  setRow s { x with ceTimes := ts, repairDue := x.repairDue || decide (4 ≤ ts.length), granule := g }

/-- The number of a row's bank within its stack. -/
def bankIx (r : RowId) : Nat := 192 * r.pch.val + 48 * r.sid.val + r.bank.val

/-- Soft-repair resources a bank has left (R148). -/
def bankLeft (x : Stack) (b : Nat) : Nat :=
  match x.soft with
  | none => 0
  | some n => Config.bankRepairs n b - Tab.getD x.softUsed b 0

/-- SOFT_LEFT (R157): summed over the 6,144 banks, saturating. -/
def softLeft (x : Stack) : Nat :=
  if x.soft.isNone then 0 else min 0xFF ((List.range 6144).map (bankLeft x)).sum

/-- An uncorrectable error in a row calls for repair; it is one occasion. -/
def rowUncorrectable (s : State) (r : RowId) (g : Nat) : State :=
  let x := getRow s r
  setRow s { x with occasions := x.occasions + 1, repairDue := true, dueUe := true, granule := g }

/-! ## Decoding a sector (R137, R138, R141) -/

inductive SectorRead where
  | data
  | poisoned
  deriving DecidableEq, Repr

/-- A free sector: its 32 bytes are no longer what was stored. -/
def scramble (s : State) (k : Nat) : State :=
  memStore { s with freeCtr := s.freeCtr + 1 } k ((List.range 32).map (fun i => Config.freeByte s.freeCtr i))

/-- Add to a counter of the STACK set (R504). -/
def bumpStack (s : State) (stack k n : Nat) : State :=
  { s with net := { s.net with stackCtrs := Tab.upd s.net.stackCtrs (8 * stack + k) 0 (fun v => v + BitVec.ofNat 64 n) } }

/-- Uncorrectable reads in a run of a row's pseudo-channel (R151). -/
def pchRun (s : State) (row : RowId) : Nat := Tab.getD s.mem.pchUe (32 * row.stack.val + row.pch.val) 0

/-- A read of the pseudo-channel found an uncorrectable error, or ended the run of them. -/
def notePch (s : State) (row : RowId) (bad : Bool) : State :=
  let k := 32 * row.stack.val + row.pch.val
  { s with mem := { s.mem with pchUe := if bad then Tab.set s.mem.pchUe k (pchRun s row + 1) else Tab.erase s.mem.pchUe k } }

def sectorCorrected (s : State) (d off : Nat) (row : RowId) : State :=
  let s := bumpStack s (stackOf s d off) 2 1
  rowCorrected (memError s (.hbm (stackFin (stackOf s d off))) false (off / 32)) row (16 * d + granOf off)

def sectorUncorrectable (s : State) (d off : Nat) (row : RowId) : State :=
  let s := memError s (.hbm (stackFin (stackOf s d off))) true (off / 32)
  rowUncorrectable (poisonSector s (memKey d off / 32)) row (16 * d + granOf off)

/-- Four or more symbols in error: read as any row of R137's table, miscorrected or not; which, and the data, are free (log entry 18). -/
def sectorLost (s : State) (d off : Nat) (row : RowId) : SectorRead × State :=
  let f := takeFree s
  let k := f.1.toNat % 4
  if k = 0 then (.data, scramble f.2 (memKey d off / 32 * 32))
  else if k = 1 then (.data, sectorCorrected (scramble f.2 (memKey d off / 32 * 32)) d off row)
  else if k = 2 then (.poisoned, sectorUncorrectable f.2 d off row)
  else (.poisoned, poisonSector f.2 (memKey d off / 32))

/-- The controller decodes the sector at a die offset with `symbols` in error. A poison mark is read through one symbol in error, and neither adds to nor ends a run of R151; with more it is one of R137's last row (log entry 18). A transfer whose parity has failed a fourth time is a sector with two symbols in error (R135). -/
def sectorDecode (s : State) (d off symbols : Nat) (row : RowId) : SectorRead × State :=
  if s.mem.poison.contains (memKey d off / 32) then (if symbols ≤ 1 then (.poisoned, s) else sectorLost s d off row)
  else if symbols = 0 then (.data, notePch s row false)
  else if symbols = 1 then (.data, sectorCorrected (notePch s row false) d off row)
  else if symbols ≤ 3 then (.poisoned, sectorUncorrectable (notePch s row true) d off row)
  else sectorLost s d off row

/-! ## Granules (R144, R146, R150) -/

/-- A row of the granule has held an uncorrectable error on more than one occasion (R150). -/
def granuleBad (s : State) (d g : Nat) : Bool := s.mem.rows.any (fun r => r.granule = 16 * d + g && decide (2 ≤ r.occasions))

/-- Every byte and every poison mark of a granule is gone. -/
def zeroGranule (s : State) (d g : Nat) : State :=
  let lo := memKey d (g * 2 ^ 34)
  { s with mem := { s.mem with
      bytes := memZero s.mem.bytes lo (lo + 2 ^ 34)
      poison := s.mem.poison.filter (fun c => !(lo / 32 ≤ c && c < (lo + 2 ^ 34) / 32)) } }

/-- A descriptor names granule `k`, counted 16 to a die (R398). -/
def descNames (desc : List Byte) (k : Nat) : Bool := (leAt desc (32 + 2 * (k / 16)) 2).testBit (k % 16)

/-- A repulped slice whose granules have all left SCRUBBING leaves its slot (R410, step 5); a reset of their die takes their OWNER and leaves them the slice's still. -/
def granulesClear (s : State) (sl : Slice) : Bool :=
  s.mem.granules.all (fun g => !(g.2.st = .scrubbing && (g.2.owner = sl.id || (g.2.owner = 0 && descNames sl.desc g.1))))

def finishScrub (s : State) : State :=
  let gone := (s.ctl.slices.filter (fun e => e.2.st = .scrubbing && granulesClear s e.2)).map Prod.fst
  { s with ctl := { s.ctl with slices := s.ctl.slices.filter (fun e => !gone.contains e.1) } }

/-- A granule's zeroing completes: FREE, or RETIRED under R150. -/
def granuleDone (s : State) (d g : Nat) : State :=
  let s := modPwDie (zeroGranule s d g) d (fun x => { x with idleSince := s.tb.time })
  modGran s d g (fun x => { x with st := if granuleBad s d g then .retired else .free, owner := 0, zeroing := false })

/-! ## Register writes (R9, R10, R155 to R158) -/

/-- A write of a memory error record: writing 1 to FIRST_VALID clears it, and rearms capture. An error captured in the same cycle keeps the bit at 1; whether an error of the present 32 ns fell in the write's own cycle is a free value (log entry 93). -/
def rearmErr (s : State) (sel : MemErrSel) (value : Word) : State :=
  if !value.getLsbD 39 then s
  else if (getErr s sel).firstValid && decide (s.tb.base ≤ (getErr s sel).firstAt) then
    let f := takeFree s
    if f.1.getLsbD 0 then f.2 else setErr f.2 sel { getErr s sel with firstValid := false }
  else setErr s sel { getErr s sel with firstValid := false }

/-- A write of MM_DIE_CTRL (R9, R157, R158): 0 in PERIOD_H is a reserved encoding, and the write is refused. -/
def writePeriodH (s : State) (d : Nat) (value : Word) : Option State :=
  let p := (value.extractLsb' 24 8).toNat
  if p = 0 then none else some (modHbm s d (fun h => { h with periodH := p }))

end Sys2Proof.Machine
end

