-- ==== Sys2Proof/Machine/TileMath.lean ====
section
/-! DEFINITION. The arithmetic of one TMMA: operands, accumulation in the three modes, output conversion, and the digests that tap it (R42, R46 to R48, R51 to R58, R112, R114, R516). -/

namespace Sys2Proof.Machine

/-! ## Operands (R40, R42, R112) -/

/-- Element `i` of a packed row whose bytes are given as a number. -/
def packedElem (c : Code) (row i : Nat) : FVal := elemVal c (fieldN row (i * c.width) c.width)

/-- The values of elements K0 to K0 + KCNT - 1 of a row, the block's scale applied to each. -/
def rowVals (s : State) (p : CorePos) (c : Code) (base k0 n scaleAt : Nat) : List FVal :=
  let r := packedRun base c.width k0 n
  let row := leNat (localRead s p r.1 r.2)
  (List.range n).map (fun i =>
    let v := packedElem c row i
    if c.isMx then scaled (leNat (localRead s p (scaleAt + (k0 + i) / 32) 1)) v else v)

def aRow (s : State) (p : CorePos) (d : BitVec 256) (sa sb : Word) (m : Nat) : List FVal :=
  match codeOf (tdAfmt d) with
  | some c => rowVals s p c (saA sa + m * tdAstr d) (sbK0 sb) (tdKcnt d) (tdAscl d + 8 * m * tdAsstr d)
  | none => []

def bCol (s : State) (p : CorePos) (d : BitVec 256) (sa sb : Word) (n : Nat) : List FVal :=
  match codeOf (tdBfmt d) with
  | some c => rowVals s p c (saB sa + n * tdBstr d) (sbK0 sb) (tdKcnt d) (tdBscl d + 8 * n * tdBsstr d)
  | none => []

/-! ## Addends (R45 to R47) -/

def products (a b : List FVal) : List FVal := (a.zip b).map (fun x => valMul x.1 x.2)

/-- The exact sum of a block's products; one that is not finite is the IEEE value it denotes. A sum of exactly zero is +0 whatever the signs of its products: R47 says nothing of it, and only an accumulator of -0 shows it (DESIGN CHOICE, log entry 96). -/
def blockSum (vs : List FVal) : FVal := vs.foldl valAdd (.fin false 0 0)

/-- Blocks of 32 products, in ascending K. -/
def blockSums : Nat → List FVal → List FVal
  | 0, _ => []
  | n + 1, vs => blockSum (vs.take 32) :: blockSums n (vs.drop 32)

/-- The addends of one output element, in ascending K. -/
def addends (d : BitVec 256) (a b : List FVal) : List FVal :=
  match codeOf (tdAfmt d) with
  | some c => if c.blocky then blockSums (tdKcnt d / 32) (products a b) else products a b
  | none => []

/-! ## Accumulation -/

/-- The accumulator of one output element: an FP32 pattern in FP32 mode, an integer otherwise, and its flags. -/
structure Acc where
  f32 : F32 := 0
  n : Int := 0
  flags : Flags4 := 0
  deriving DecidableEq, Repr

/-- The accumulator an initial value gives (R114): `bits` is the element as it lies at C. -/
def accInit (d : BitVec 256) (bits : Nat) : Acc :=
  if tdAcc d = accFp32 then { f32 := BitVec.ofNat 32 bits }
  else if tdAcc d = accInt32 then { n := sInt 32 bits }
  else if tdIfp32 d then
    let r := anchAdd 96 (tdAnchor d) 0 (f32Val (BitVec.ofNat 32 bits))
    { n := r.1, flags := r.2 }
  else { n := ancSum (BitVec.ofNat 128 bits), flags := ancFlags (BitVec.ofNat 128 bits) }

/-- Add one addend (R47, R48, R51). -/
def accAdd (d : BitVec 256) (x : Acc) (v : FVal) : Acc :=
  if tdAcc d = accFp32 then
    { x with f32 := f32Add x.f32 (f32Round v), flags := x.flags ||| flagIf (v.finite && f32Inx v) flINX }
  else if tdAcc d = accInt32 then
    let r := satAdd 32 x.n (match v.dy? with
      | some y => (dyRne y 0).1
      | none => 0)
    { x with n := r.1, flags := x.flags ||| r.2 }
  else
    let r := anchAdd 96 (tdAnchor d) x.n v
    { x with n := r.1, flags := x.flags ||| r.2 }

/-- An infinite or NaN FP32 accumulator sets NAN (R115). -/
def accFlags (d : BitVec 256) (x : Acc) : Flags4 :=
  if tdAcc d = accFp32 then x.flags ||| flagIf (!(f32Val x.f32).finite) flNAN else x.flags

/-- The value an output conversion reads (R54, R57). -/
def accVal (d : BitVec 256) (x : Acc) : FVal :=
  if tdAcc d = accFp32 then f32Val x.f32
  else if tdAcc d = accInt32 then dyVal ⟨x.n, 0⟩
  else if x.flags.getLsbD 3 then .nan
  else anchVal (tdAnchor d) x.n

/-! ## Output (R112, R114, R115) -/

/-- One element without FINAL: bits and flags; a NaN is written canonical (R36). -/
def formElem (d : BitVec 256) (x : Acc) : Nat × Flags4 :=
  if tdAcc d = accFp32 then ((f32Round (f32Val x.f32)).toNat, accFlags d x)
  else if tdAcc d = accInt32 then (sBits 32 x.n, x.flags)
  else if tdAform d = 1 then
    let r := satInt 64 x.n
    (sBits 64 r.1, x.flags ||| flagIf r.2 flOVF)
  else if tdAform d = 2 then (sBits 128 x.n, x.flags)
  else ((ancPack (tdAnchor d) x.flags x.n).toNat, x.flags)

/-- One element converted to a format that is not MX: bits and flags (R33, R38, R39). -/
def convElem (c : Code) (sat : Bool) (v : FVal) : Nat × Flags4 :=
  match c with
  | .int8 => let r := intConvert 8 v; (sBits 8 r.1, r.2)
  | .int32 => let r := intConvert 32 v; (sBits 32 r.1, r.2)
  | _ =>
    match c.fmt with
    | some f => let r := fmtConvert f sat v; (r.bits, r.flags)
    | none => (0, 0)

/-- Elements packed from bit 0 upward. -/
def packBits (w : Nat) : List Nat → Nat
  | [] => 0
  | x :: t => x % 2 ^ w + 2 ^ w * packBits w t

/-- MX blocks of 32 of a row: elements, scales and flags. -/
def mxRow (c : Code) : Nat → List FVal → List Nat × List Nat × Flags4
  | 0, _ => ([], [], 0)
  | n + 1, vs =>
    let b := mxBlock c (vs.take 32)
    let r := mxRow c n (vs.drop 32)
    (b.2.1 ++ r.1, b.1 :: r.2.1, b.2.2 ||| r.2.2)

/-- OR of the flags of a row's elements. -/
def orFl (l : List Flags4) : Flags4 := l.foldl (· ||| ·) 0

/-- One output row: its bytes and the OR of its flags. -/
def outRow (d : BitVec 256) (final : Bool) (xs : List Acc) : List Byte × Flags4 :=
  if final then
    match codeOf (tdOfmt d) with
    | none => ([], 0)
    | some c =>
      let vs := xs.map (accVal d)
      let fl := orFl (xs.map (accFlags d))
      if c.isMx then
        let r := mxRow c (tdN d / 32) vs
        (leBytes (tdN d * c.width / 8) (packBits c.width r.1) ++ r.2.1.map (fun x => BitVec.ofNat 8 x), fl ||| r.2.2)
      else
        let es := vs.map (convElem c (tdSat d))
        (leBytes (tdN d * c.width / 8) (packBits c.width (es.map (·.1))), fl ||| orFl (es.map (·.2)))
  else
    let es := xs.map (formElem d)
    (leBytes (tdN d * formBytes d) (packBits (8 * formBytes d) (es.map (·.1))), orFl (es.map (·.2)))

/-- The initial value's bits at row m, column n. -/
def initBits (s : State) (p : CorePos) (t : Tmma) (m n : Nat) : Nat :=
  leNat (localRead s p (sbC t.sb + m * tdCstr t.td + n * initBytes t.td) (initBytes t.td))

/-- Every output row of a TMMA, from memory as it stands (R114). -/
def tmmaRows (s : State) (p : CorePos) (t : Tmma) : List (List Byte × Flags4) :=
  let d := t.td
  let bs := (List.range (tdN d)).map (bCol s p d t.sa t.sb)
  (List.range (tdM d)).map (fun m =>
    let a := aRow s p d t.sa t.sb m
    outRow d t.final ((List.range (tdN d)).map (fun n =>
      (addends d a (bs.getD n [])).foldl (accAdd d) (if t.init then accInit d (initBits s p t m n) else {}))))

/-- An ANC96 initial value whose anchor differs (R51, R92). -/
def anchorDiffers (s : State) (p : CorePos) (t : Tmma) : Bool :=
  t.init && tdAcc t.td = accAnchored && !tdIfp32 t.td &&
  (List.range (tdM t.td)).any (fun m => (List.range (tdN t.td)).any (fun n =>
    ancAnchor (BitVec.ofNat 128 (initBits s p t m n)) ≠ tdAnchor t.td))

/-! ## Watermark taps (R516) -/

/-- The FP32 value, or the integer, of an element that the statistics read; none for another format. -/
def wmVal (elem : Nat) (bits : Nat) : Option FVal :=
  match codeOf elem with
  | some .fp32 => some (f32Val (BitVec.ofNat 32 bits))
  | some .bf16 => some (elemVal .bf16 bits)
  | some .fp16 => some (elemVal .fp16 bits)
  | some .int32 => some (dyVal ⟨sInt 32 bits, 0⟩)
  | _ => none

/-- Minimum and maximum over the non-NaN elements: FP32 patterns, or INT32 for INT32 elements. -/
def wmBound (elem : Nat) (lower : Bool) (old : Option (BitVec 32)) (v : FVal) (bits : Nat) : Option (BitVec 32) :=
  let x : BitVec 32 := if codeOf elem = some .int32 then BitVec.ofNat 32 bits else f32Round v
  match old with
  | none => some x
  | some o =>
    if codeOf elem = some .int32 then some (if lower then (if x.slt o then x else o) else (if o.slt x then x else o))
    else some (if lower then f32Min o x else f32Max o x)

/-- Width in bytes of the elements the statistics read: those of ELEM; 0 where it names none. -/
def wmWidth (elem : Nat) : Nat :=
  match codeOf elem with
  | some c => c.width / 8
  | none => 0

/-- Count one element in the statistics. -/
def wmStat (c : WatermarkCfg) (a : WmAcc) (bs : List Byte) : WmAcc :=
  match if bs.length = wmWidth c.elem then wmVal c.elem (leNat bs) else none with
  | none => a
  | some v =>
    let r := anchAdd 128 c.anchor a.sum v
    let isNan := isNanV v
    { a with
      count := a.count + 1
      nans := if isNan then a.nans + 1 else a.nans
      infs := if !isNan && !v.finite then a.infs + 1 else a.infs
      zeros := if v.finite && v.dy?.all (fun y => y.n = 0) then a.zeros + 1 else a.zeros
      flags := a.flags ||| r.2
      mn := if isNan then a.mn else wmBound c.elem true a.mn v (leNat bs)
      mx := if isNan then a.mx else wmBound c.elem false a.mx v (leNat bs)
      sum := r.1 }

/-- Add one item into a step's digest: the hash of the step, the offset or index, and the bytes, as a little-endian number. -/
def wmDigest (a : WmAcc) (step ix : Nat) (bs : List Byte) : WmAcc :=
  { a with dig := (a.dig + leNat (sha384 (leBytes 8 step ++ leBytes 4 ix ++ bs))) % 2 ^ 384 }

/-- One element of a tapped write. -/
def wmElem (c : WatermarkCfg) (step : Nat) (a : WmAcc) (off : Nat) (bs : List Byte) : WmAcc :=
  wmStat c (wmDigest a step off bs) bs

/-- The units that tap a tile store for the slice whose state it holds (R514). -/
def wmTile (c : CorePos) (id : BitVec 16) (unit : Nat) (w : Watermark) : Option WatermarkCfg :=
  match w.cfg with
  | some k => if w.st = 1 && w.owner = id && unit / 64 = c.die.val && k.tap = 1 && k.cluster = c.cluster.val && k.core = c.core.val then some k else none
  | none => none

/-- A FINAL output row of `width`-byte elements written at a local address is tapped: each element that lies in the range. -/
def wmTapRow (s : State) (c : CorePos) (a width : Nat) (bs : List Byte) : State :=
  let id := (sliceOn s c.die c.cluster).elim 0xFFFF (fun e => e.2.id)
  { s with ctl := { s.ctl with watermarks := Tab.mapVals s.ctl.watermarks (fun u w =>
      match wmTile c id u w with
      | none => w
      | some k =>
        { w with acc := (List.range (bs.length / width)).foldl (fun x i =>
            let e := a + i * width
            if k.start ≤ e && e + width ≤ k.start + k.length then wmElem k w.step x (e - k.start) ((bs.drop (i * width)).take width) else x) w.acc }) } }

/-- Bytes of one element of an output row as a tap sees it: sub-byte formats are tapped by the byte. -/
def tapWidth (d : BitVec 256) : Nat :=
  match codeOf (tdOfmt d) with
  | some c => if c.isMx then 1 else max 1 (c.width / 8)
  | none => 1

end Sys2Proof.Machine
end

