-- ==== Sys2Proof/Machine/Home.lean ====
section
/-! DEFINITION. The home of a request: admission, the deckle checks, the single update of its line, the replay table and the responses (R161 to R187, R313, R324). -/

namespace Sys2Proof.Machine

/-! ## Operations (R166, R169) -/

inductive OpKind where
  | load | store | atomic | reds
  deriving DecidableEq, Repr

/-- Kind of a request opcode; none for a reserved one. -/
def opKind (op : BitVec 8) : Option OpKind :=
  let n := op.toNat
  if 1 ≤ n && n ≤ 3 then some .load
  else if 8 ≤ n && n ≤ 10 then some .store
  else if 0x10 ≤ n && n ≤ 0x19 then some .atomic
  else if 0x40 ≤ n && n ≤ 0x44 then some .reds
  else if 0x50 ≤ n && n ≤ 0x55 then some .reds
  else none

/-- Bytes a request touches; 0 where its payload is not of a width the opcode has. -/
def accessBytes (r : Req) : Nat :=
  let n := r.opcode.toNat
  let w := r.data.length
  if n = 1 then 4 else if n = 2 then 8 else if n = 3 then 64
  else if n = 8 then (if w = 4 then 4 else 0)
  else if n = 9 then (if w = 8 then 8 else 0)
  else if n = 10 then (if w = 64 then 64 else 0)
  else if n = 0x19 then (if w = 8 then 4 else if w = 16 then 8 else 0)
  else if n < 0x20 then (if w = 4 || w = 8 then w else 0)
  else if n < 0x50 then
    match sumFmtOf (n % 16) with
    | some f => if w = f.bytes then w else 0
    | none => 0
  else if w = 64 then 64 else 0

/-! ## Targets (R162 to R165) -/

inductive Target where
  | hbm
  | window (l : Nat)
  | counter (k : Nat)
  | flags (j : Nat)
  | timePage
  | unmapped
  deriving DecidableEq, Repr

/-- The mapped range that holds all of [off, off + n) of a compute endpoint. -/
def targetOf (off n : Nat) : Target :=
  if off + n ≤ 2 ^ 38 then .hbm
  else if 0x10000000000 ≤ off && off + n ≤ 0x10000000000 + 12 * 0x800000 &&
      (off - 0x10000000000) / 0x800000 = (off + n - 1 - 0x10000000000) / 0x800000 then .window ((off - 0x10000000000) / 0x800000)
  else if 0x20000000000 ≤ off && off + n ≤ 0x20000000000 + 12 * 0x1000000 &&
      (off - 0x20000000000) / 0x100000 = (off + n - 1 - 0x20000000000) / 0x100000 then .window ((off - 0x20000000000) / 0x1000000)
  else if 0x30000000000 ≤ off && off + n ≤ 0x30000020000 && (off % 8) + n ≤ 8 then .counter ((off - 0x30000000000) / 8)
  else if 0x30001000000 ≤ off && off + n ≤ 0x30001200000 && (off % 8) + n ≤ 8 then .flags ((off - 0x30001000000) / 8)
  else .unmapped

/-- The operation is permitted at the target (R164, R166). -/
def permitted (t : Target) (k : OpKind) (r : Req) (n : Nat) : Bool :=
  match t with
  | .hbm | .window _ => true
  | .counter _ => n = 8 && (r.opcode = 0x02 ||
      ((r.opcode = 0x10 || r.opcode = 0x43) && decide (leNat r.data < 2 ^ 63)))
  | .flags _ => r.opcode = 0x02 || r.opcode = 0x09
  | .timePage => k = .load
  | .unmapped => false

/-! ## Deckles (R174 to R178) -/

def keyIndex (k : Word) : Nat := k.toNat % 2 ^ 18
def keySecret (k : Word) : BitVec 46 := k.extractLsb' 18 46

def getDeckle (s : State) (j : Nat) : Deckle := Tab.getD s.fab.deckles j {}

def modDeckle (s : State) (j : Nat) (f : Deckle → Deckle) : State :=
  { s with fab := { s.fab with deckles := Tab.upd s.fab.deckles j {} f } }

/-- The slice through whose definition a window is reached (R163): the status VIOLATION unless it owns the cluster and the cluster is in service. -/
def windowSlice (s : State) (d l : Nat) (owner : BitVec 16) : Option (Nat × Slice) :=
  if physCluster s d l = 0xF then none
  else match findSlice s owner with
    | some e => if e.2.clusters.contains (d, l) && e.2.st ≠ .scrubbing then some e else none
    | none => none

/-- The ownership of R145 or R163. -/
def ownerOk (s : State) (d : Nat) (t : Target) (off n : Nat) (owner : BitVec 16) : Bool :=
  match t with
  | .hbm => ownsHbm s d off n owner
  | .window l => (windowSlice s d l owner).isSome
  | .counter k => ownsCounter s d k owner
  | _ => true

/-- PERM bit of a kind: [3] D, [2] A, [1] W, [0] R. -/
def permBit : OpKind → Nat
  | .load => 0
  | .store => 1
  | .atomic => 2
  | .reds => 3

/-- How a request fares at the checks of R176. -/
inductive Check where
  | pass
  /-- It fails at check 1 or 2: counted in no deckle. -/
  | early
  /-- It fails at check 3 or later (R177). -/
  | late
  /-- The entry it names holds an uncorrectable error (R154). -/
  | spoiled
  deriving DecidableEq, Repr

/-- Checks 2 to 7 of R176, with the shortened ones of R164 for a flag word. -/
def deckleCheck (s : State) (d : Nat) (t : Target) (k : OpKind) (r : Req) (n : Nat) : Check :=
  let off := addrOff r.addr
  let x := getDeckle s (keyIndex r.key)
  if x.spoiled then .spoiled
  else if !x.valid || x.endpoint ≠ d then .early
  else if keySecret r.key ≠ x.secret then .late
  else match t with
    | .flags j => if keyIndex r.key = j then .pass else .late
    | _ =>
      let base := x.base.toNat * 2 ^ 16
      if !(decide (base ≤ off) && decide (off + n ≤ base + 2 ^ x.log2size)) then .late
      else if !x.perm.getLsbD (permBit k) then .late
      else if x.sameSlice && r.slice ≠ x.owner then .late
      else if !ownerOk s d t off n x.owner then .late
      else .pass

/-- Every check, in the order of R176. -/
def homeCheck (s : State) (d : Nat) (t : Target) (r : Req) : Check :=
  match opKind r.opcode with
  | none => .early
  | some k =>
    let n := accessBytes r
    if n = 0 || addrOff r.addr % n ≠ 0 || !permitted t k r n then .early
    else if t = .timePage then .pass
    else deckleCheck s d t k r n

/-! ## The update (R170, R185) -/

/-- An atomic's new value (R88). -/
def atomicNew (op : BitVec 8) (w old x y : Nat) : Nat :=
  let bits := 8 * w
  let so := sInt bits old
  let sx := sInt bits x
  let n := op.toNat
  if n = 0x10 then (old + x) % 2 ^ bits
  else if n = 0x11 then old &&& x
  else if n = 0x12 then old ||| x
  else if n = 0x13 then old ^^^ x
  else if n = 0x14 then (if sx < so then x else old)
  else if n = 0x15 then (if so < sx then x else old)
  else if n = 0x16 then min old x
  else if n = 0x17 then max old x
  else if n = 0x18 then x
  else if old = x then y else old

/-- Elements of a reduction-store added into memory (R52, R59, R170). -/
def redsElems (f : SumFmt) : Nat → List Byte → List Byte → List Byte × Flags4
  | 0, _, _ => ([], 0)
  | n + 1, m, p =>
    let a := sumWiden f (leNat (m.take f.bytes))
    let b := sumWiden f (leNat (p.take f.bytes))
    let x := sumAdd f a b
    let y := sumFinal f x.1
    let r := redsElems f n (m.drop f.bytes) (p.drop f.bytes)
    (leBytes f.bytes y.1 ++ r.1, x.2 ||| y.2 ||| r.2)

/-- What an update answers: status, flags, data, and the state. -/
structure Answer where
  status : BitVec 4 := 0
  flags : BitVec 4 := 0
  data : List Byte := []
  st : State

/-- New bytes, data returned and flags of a request that finds `old` in memory. -/
def newBytes (r : Req) (n : Nat) (old : List Byte) : List Byte × List Byte × Flags4 :=
  match opKind r.opcode with
  | some .store => (r.data, [], 0)
  | some .atomic =>
    let x := leNat (r.data.take n)
    let y := leNat ((r.data.drop n).take n)
    (leBytes n (atomicNew r.opcode n (leNat old) x y), old, 0)
  | some .reds =>
    match sumFmtOf (r.opcode.toNat % 16) with
    | some f => let p := redsElems f (n / f.bytes) old r.data; (p.1, [], p.2)
    | none => (old, [], 0)
  | _ => (old, old, 0)

/-- The kind writes memory. -/
def writes (r : Req) : Bool := opKind r.opcode ≠ some .load

/-- The update of plain memory at a key, the reads having found no poison. -/
def updateAt (s : State) (key : Nat) (r : Req) (n : Nat) : Answer :=
  let x := newBytes r n (memRead s.mem.bytes key n)
  { status := 0, flags := x.2.2, data := x.2.1, st := if writes r then memStore s key x.1 else s }

/-- A request to HBM at a die offset (R136 to R138, R190). A full-line store reads nothing; everything else decodes its first sector. -/
def updateHbm (s : State) (d off : Nat) (r : Req) (n symbols : Nat) (row : RowId) : Answer :=
  if r.opcode = 0x0A then
    let a := updateAt s (memKey d off) r n
    { a with st := monitorWake a.st d off n }
  else
    let x := sectorDecode s d off symbols row
    if x.1 = .poisoned || poisonedAt x.2 (memKey d off) n then { status := 5, st := x.2 }
    else
      let a := updateAt x.2 (memKey d off) r n
      { a with st := if writes r then monitorWake a.st d off n else a.st }

/-- The die offset, in the saved image of a slice, of an offset in the windows of logical cluster l (R406). -/
def imageOff (sl : Slice) (d l off : Nat) : Nat :=
  ctxOff sl d + (clustersOn sl d).findIdx (fun k => k = l) * 0x1900000 +
  (if off < 0x20000000000 then off - 0x10000000000 - l * 0x800000 else 0x800000 + (off - 0x20000000000 - l * 0x1000000))

/-- A request to a window: the arrays themselves, or the saved image of a slice that is OUT, in granules it owns (R145, R163, R406). -/
def updateWindow (s : State) (d l off : Nat) (r : Req) (n symbols : Nat) (row : RowId) (e : Nat × Slice) : Answer :=
  if e.2.st = .out then
    let img := imageOff e.2 d l off
    if ownsHbm s d img n e.2.id then updateHbm s d img r n symbols row else { status := 4, st := s }
  else
    let s := bumpCluster s d l 6 1
    if (n < 8 || opKind r.opcode ≠ some .store) && sramBad s (memKey d off) n then { status := 5, st := s }
    else updateAt s (memKey d off) r n

/-- The time page (R165). -/
def timePage (s : State) : List Byte :=
  leBytes 8 s.tb.time ++ leBytes 4 (fdNode s).toNat ++ leBytes 1 (match s.net.route.cur with
    | some b => b.epoch.toNat
    | none => 0) ++ List.replicate 51 0

/-- An arrival counter (R164). -/
def updateCounter (s : State) (d k : Nat) (r : Req) : Answer :=
  let old := leBytes 8 (counterVal s d k).toNat
  if r.opcode = 0x02 then { data := old, st := s }
  else
    let s := counterAddTo s d k (leNat r.data)
    { data := if r.opcode = 0x10 then old else [], st := s }

/-- A deckle's flag word (R164). -/
def updateFlags (s : State) (j : Nat) (r : Req) : Answer :=
  let x := getDeckle s j
  if r.opcode = 0x02 then { data := leBytes 8 x.flags.toNat, st := s }
  else { st := modDeckle s j (fun x => { x with flags := x.flags &&& ~~~ (BitVec.ofNat 4 (leNat r.data)) }) }

/-- The target of a request at an endpoint; 4 is the fabric die's. -/
def reqTarget (ep : Nat) (r : Req) : Target :=
  let off := addrOff r.addr
  let n := accessBytes r
  if ep = 4 then (if off + n ≤ 64 then .timePage else .unmapped) else targetOf off n

/-- The update once every check has passed. -/
def doUpdate (s : State) (d : Nat) (t : Target) (r : Req) (symbols : Nat) (row : RowId) : Answer :=
  let off := addrOff r.addr
  let n := accessBytes r
  match t with
  | .hbm => updateHbm s d off r n symbols row
  | .window l =>
    match windowSlice s d l (getDeckle s (keyIndex r.key)).owner with
    | some e => updateWindow s d l off r n symbols row e
    | none => { status := 4, st := s }
  | .counter k => updateCounter s d k r
  | .flags j => updateFlags s j r
  | .timePage =>
    let s := passTime s
    { data := ((timePage s).drop off).take n, st := s }
  | .unmapped => { status := 4, st := s }

/-- A VIOLATION at check 3 or later is held in the entry the key names (R177). -/
def countViolation (s : State) (r : Req) : State :=
  modDeckle s (keyIndex r.key) (fun x => { x with
    vfirst := if x.vcount = 0 then r.src else x.vfirst
    vcount := satUp x.vcount 1 (2 ^ 28 - 1) })

/-- Perform a request: the checks, then the update; flags are kept in the deckle (R170, R176, R177). -/
def perform (s : State) (ep : Nat) (r : Req) (symbols : Nat) (row : RowId) : Answer :=
  let t := reqTarget ep r
  match homeCheck s ep t r with
  | .pass =>
    let a := doUpdate s ep t r symbols row
    let fl := a.flags ||| r.flags
    if a.status = 0 && opKind r.opcode = some .reds then
      { a with flags := fl, st := modDeckle a.st (keyIndex r.key) (fun x => { x with flags := x.flags ||| fl }) }
    else a
  | .spoiled => { status := 5, st := s }
  | .late => { status := 4, st := modEp (countViolation s r) ep (fun e => { e with violHome := satUp e.violHome 1 0xFF }) }
  | .early => { status := 4, st := modEp s ep (fun e => { e with violHome := satUp e.violHome 1 0xFF }) }

/-! ## Responses and the replay table (R167, R179, R181) -/

/-- The response word (R167). -/
def respWord (status flags : BitVec 4) (replayed : Bool) : Word :=
  BitVec.ofNat 64 (status.toNat + (if replayed then 256 else 0) + flags.toNat * 4096)

/-- The response opcode (R166): DATA or LINEDATA where a value is returned, else ACK. -/
def respOpcode (r : Req) : BitVec 8 :=
  match opKind r.opcode with
  | some .load => if r.opcode = 0x03 then 0x82 else 0x81
  | some .atomic => 0x81
  | _ => 0x80

/-- Bytes of data a response to the opcode carries. -/
def respBytes (r : Req) : Nat := if opKind r.opcode = some .load || opKind r.opcode = some .atomic then accessBytes r else 0

def respond (s : State) (r : Req) (status flags : BitVec 4) (replayed : Bool) (data : List Byte) : State :=
  emit s (responseOut s (addrNode r.addr) r.src { opcode := respOpcode r, flow := r.flow, seq := r.seq, word := respWord status flags replayed, data := padTo (respBytes r) (if status = 0 then data else []), crowd := r.crowd })

/-- An entry is kept for every atomic performed and for every status other than OK. -/
def keepsReplay (r : Req) (status : BitVec 4) : Bool := status ≠ 0 || opKind r.opcode = some .atomic

def keepReplay (s : State) (ep : Nat) (r : Req) (status flags : BitVec 4) (data : List Byte) : State :=
  if !keepsReplay r status then s
  else
    let x : Replay := { src := r.src, flow := r.flow, seq := r.seq, status := status, flags := flags, isAtomic := decide (opKind r.opcode = some .atomic), data := data, made := s.tb.time, slice := r.slice }
    modEp s ep (fun e => { e with replay := e.replay ++ [x], replayHigh := max e.replayHigh (e.replay.length + 1) })

def findReplay (s : State) (ep : Nat) (src flow : BitVec 20) (seq : BitVec 24) : Option Replay :=
  (getEp s ep).replay.find? (fun x => x.src = src && x.flow = flow && x.seq = seq)

/-! ## Admission (R171, R172, R179, R324) -/

def isFlow (src flow : BitVec 20) (h : HomeFlow) : Bool := h.src = src && h.flow = flow

def findHome (s : State) (ep : Nat) (src flow : BitVec 20) : Option HomeFlow := (getEp s ep).homeFlows.find? (isFlow src flow)

def modHome (s : State) (ep : Nat) (src flow : BitVec 20) (f : HomeFlow → HomeFlow) : State :=
  modEp s ep (fun e => { e with homeFlows := e.homeFlows.map (fun h => if isFlow src flow h then f h else h) })

def lineOf (a : Word) : Nat := a.toNat / 64

/-- Another request to the line waits at the home (R184). -/
def lineBusy (s : State) (ep : Nat) (a : Word) : Bool :=
  (getEp s ep).homeFlows.any (fun h => h.admitted.any (fun r => lineOf r.addr = lineOf a)) || (getEp s ep).combined.any (fun r => lineOf r.addr = lineOf a)

/-- The replay table has no room for `n` more entries (R179). -/
def replayShort (s : State) (ep n : Nat) : Bool := decide (81920 < (getEp s ep).replay.length + n)

def replayFull (s : State) (ep : Nat) : Bool := replayShort s ep 1

/-- A request is admitted: it takes its place in the order of its line. -/
def enterOrder (s : State) (ep : Nat) (r : Req) : State :=
  modEp s ep (fun e => { e with order := e.order ++ [(lineOf r.addr, r.src, r.flow, r.seq)] })

/-- A request has been performed, or is gone: it leaves the order. -/
def leaveOrder (s : State) (ep : Nat) (src flow : BitVec 20) (seq : BitVec 24) : State :=
  modEp s ep (fun e => { e with order := e.order.filter (fun o => o.2 ≠ (src, flow, seq)) })

/-- Admit what is next in a flow, passing entries already done. -/
def admitUpTo (ep : Nat) (src flow : BitVec 20) : Nat → State → State
  | 0, s => s
  | k + 1, s =>
    match findHome s ep src flow with
    | none => s
    | some h =>
      if h.doneAhead.contains h.n then
        admitUpTo ep src flow k (modHome s ep src flow (fun h => { h with n := h.n + 1, doneAhead := h.doneAhead.filter (fun q => q ≠ h.n) }))
      else match h.window.find? (fun r => r.seq = h.n) with
        | none => s
        | some r =>
          if replayFull s ep && (opKind r.opcode = some .atomic || decide (1 < h.window.length)) then s
          else
            let r := { r with crowd := r.crowd || lineBusy s ep r.addr }
            admitUpTo ep src flow k (enterOrder (modHome s ep src flow (fun h => { h with
              n := h.n + 1, window := h.window.filter (fun q => q.seq ≠ r.seq), admitted := h.admitted ++ [r] })) ep r)

/-- A copy of the request is held and not yet answered. -/
def isPending (s : State) (ep : Nat) (h : HomeFlow) (seq : BitVec 24) : Bool :=
  h.window.any (fun r => r.seq = seq) || h.admitted.any (fun r => r.seq = seq) ||
  (getEp s ep).combined.any (fun r => (r.src = h.src && r.flow = h.flow && r.seq = seq) || r.parts.contains (h.src, h.flow, seq))

/-- The answer to a sequence that is behind (R181). -/
def answerBehind (s : State) (ep : Nat) (r : Req) : State :=
  match findReplay s ep r.src r.flow r.seq with
  | some x => respond s r x.status x.flags true x.data
  | none =>
    if opKind r.opcode = some .store || opKind r.opcode = some .reds then respond s r 2 0 true []
    else respond s r 6 0 true []

/-- Close a flow at its home: nothing more is accepted, what waits in the window is discarded, and requests already admitted are performed and answered to no one (R182, R204). -/
def closeHome (s : State) (ep : Nat) (src flow : BitVec 20) : State :=
  let s := modHome s ep src flow (fun h => { h with window := [], closed := true })
  modEp s ep (fun e => { e with homeFlows := e.homeFlows.filter (fun h => !(h.closed && h.admitted.isEmpty)) })

/-- How a constituent of a combined packet stands in its flow at the home. -/
inductive PartSt where
  /-- The home has closed its flow, or knows none (R182, R204). -/
  | closed
  | fresh
  /-- A copy is held or has been performed already, or it lies beyond the window. -/
  | stale
  deriving DecidableEq, Repr

def partSt (s : State) (ep : Nat) (c : BitVec 20 × BitVec 20 × BitVec 24) : PartSt :=
  match findHome s ep c.1 c.2.1 with
  | none => .closed
  | some h => if h.closed then .closed else if isPending s ep h c.2.2 || decide (1024 ≤ (c.2.2 - h.n).toNat) || h.doneAhead.contains c.2.2 then .stale else .fresh

/-- Every constituent of a request with COMB set. -/
def constituents (r : Req) : List (BitVec 20 × BitVec 20 × BitVec 24) := if r.parts = [] then [(r.src, r.flow, r.seq)] else r.parts

/-- A request with COMB set waits for its line's turn. -/
def holdCombined (s : State) (ep : Nat) (r : Req) : State :=
  enterOrder (modEp s ep (fun e => { e with combined := e.combined ++ [{ r with crowd := r.crowd || lineBusy s ep r.addr }] })) ep r

/-- A packet of several constituents arrives (R324): each is taken in its own flow, one whose flow is closed with the others. Where one has been performed or is held already, adding the packet would add it twice, and the whole packet is discarded, for the others' resends to perform (log entry 92). -/
def arriveCombined (s : State) (ep : Nat) (r : Req) : State :=
  let ps := (constituents r).map (partSt s ep)
  if ps.contains .fresh && !ps.contains .stale then holdCombined s ep r else s

/-- A request reaches its home endpoint (R172, R181, R324). -/
def arriveHome (s : State) (ep : Nat) (r : Req) : State :=
  if r.comb && decide (1 < r.parts.length) then arriveCombined s ep r else
  match findHome s ep r.src r.flow with
  | none => s
  | some h =>
    if h.closed then s else
    let ahead := (r.seq - h.n).toNat
    if isPending s ep h r.seq then s
    else if 2 ^ 23 ≤ ahead then answerBehind s ep r
    else if 1024 ≤ ahead then s
    else if h.doneAhead.contains r.seq then respond s r 2 0 true []
    else if r.comb then holdCombined s ep r
    else admitUpTo ep r.src r.flow 1025 (modHome s ep r.src r.flow (fun h => { h with window := h.window ++ [r] }))

/-- The endpoint an address names here: the compute die, or the fabric die's. -/
def homeEp (die : Nat) (a : Word) : Nat := if nodeEp (addrNode a) = 4 then 4 else die

/-- HOME_REQUEST (R172, R181): a request arrives at an endpoint of this module. -/
def execHomeRequest (die : Fin 4) (r : Req) (s : State) : Result := .next (arriveHome s (homeEp die.val r.addr) r)

/-! ## Performing an admitted request -/

/-- Requests to one line of one flow are performed in admission order. -/
def mayPerform (h : HomeFlow) (seq : BitVec 24) : Option Req :=
  match h.admitted.find? (fun r => r.seq = seq) with
  | none => none
  | some r => if (h.admitted.find? (fun q => lineOf q.addr = lineOf r.addr)) = some r then some r else none

/-- No request to the line was admitted before this one, of whatever flow (R89, R172, R185). -/
def firstOnLine (s : State) (ep : Nat) (r : Req) : Bool :=
  match (getEp s ep).order.find? (fun o => o.1 = lineOf r.addr) with
  | some o => o.2 = (r.src, r.flow, r.seq)
  | none => true

/-- A logical cluster stands empty until its spare takes its place: requests to its windows are held (R133). -/
def awaitsSpare (s : State) (d l : Nat) : Bool :=
  (getMap s d).failedCl.contains l && (getMap s d).spare ≠ 0xF && (sliceOn s d l).isNone

/-- The home holds the request back: its stack is in HOLD (R147), its window's slice is being switched, or its cluster awaits a spare (R163). -/
def heldBack (s : State) (ep : Nat) (r : Req) : Bool :=
  match reqTarget ep r with
  | .hbm => hbmHeld s ep (addrOff r.addr) 1
  | .window l =>
    awaitsSpare s ep l ||
    (match findSlice s (getDeckle s (keyIndex r.key)).owner with
    | some e => e.2.clusters.contains (ep, l) && (e.2.st = .switching || (e.2.st = .out && hbmHeld s ep (imageOff e.2 ep l (addrOff r.addr)) 1))
    | none => false)
  | _ => false

/-- Mark one constituent done in its flow and acknowledge it (R324). -/
def ackPart (ep : Nat) (r : Req) (status flags : BitVec 4) (s : State) (c : BitVec 20 × BitVec 20 × BitVec 24) : State :=
  match findHome s ep c.1 c.2.1 with
  | none => s
  | some h =>
    if h.closed then s else
    let q := { r with src := c.1, flow := c.2.1, seq := c.2.2 }
    let s := modHome s ep c.1 c.2.1 (fun h => { h with doneAhead := h.doneAhead ++ [c.2.2] })
    let s := admitUpTo ep c.1 c.2.1 1025 s
    keepReplay (respond s q status flags false []) ep q status flags []

/-- Perform a combined request, alone or with others in it; while the replay table has no room for the entries it would make, it waits (R179). -/
def performCombined (s : State) (ep : Nat) (r : Req) (symbols : Nat) (row : RowId) : State :=
  let s1 := leaveOrder (modEp s ep (fun e => { e with combined := e.combined.filter (fun q => q ≠ r) })) ep r.src r.flow r.seq
  let q := { r with crowd := r.crowd || lineBusy s1 ep r.addr }
  let a := perform s1 ep q symbols row
  if keepsReplay q a.status && replayShort s ep (constituents r).length then s
  else (constituents r).foldl (ackPart ep q a.status a.flags) a.st

/-- Perform one admitted request of a flow and answer it; while the replay table has no room for the entry it would make, it waits (R179). -/
def performOne (s : State) (ep : Nat) (h : HomeFlow) (r : Req) (symbols : Nat) (row : RowId) : State :=
  let s1 := leaveOrder (modHome s ep h.src h.flow (fun h => { h with admitted := h.admitted.filter (fun q => q.seq ≠ r.seq) })) ep h.src h.flow r.seq
  let q := { r with crowd := r.crowd || lineBusy s1 ep r.addr }
  let a := perform s1 ep q symbols row
  if h.closed then closeHome a.st ep h.src h.flow
  else if keepsReplay q a.status && replayFull s ep then s
  else
    let s := keepReplay (respond a.st q a.status a.flags false a.data) ep q a.status a.flags a.data
    admitUpTo ep h.src h.flow 1025 s

/-- One endpoint's part of HOME_UPDATE. -/
def updateEp (s : State) (ep : Nat) (src flow : BitVec 20) (seq : BitVec 24) (symbols : Nat) (row : RowId) : State :=
  match (getEp s ep).combined.find? (fun r => (constituents r).contains (src, flow, seq)) with
  | some r => if heldBack s ep r || !firstOnLine s ep r then s else performCombined s ep r symbols row
  | none =>
    match findHome s ep src flow with
    | none => s
    | some h =>
      match mayPerform h seq with
      | none => s
      | some r => if heldBack s ep r || !firstOnLine s ep r then s else performOne s ep h r symbols row

/-- A replay entry is past its period. -/
def replayDue (s : State) (src flow : BitVec 20) (seq : BitVec 24) (x : Replay) : Bool :=
  x.src = src && x.flow = flow && x.seq = seq && decide (x.made + (if x.status = 0 then 100 * usU else 200 * usU) ≤ s.tb.time)

/-- REPLAY_ENTRY_EXPIRE (R179): an entry of the die's endpoint, or of the fabric die's, that is past its period is removed; flows that waited for room go on. -/
def execReplayEntryExpire (die : Fin 4) (src : BitVec 20) (flow : BitVec 20) (seq : BitVec 24) (s : State) : Result :=
  let ep := if (getEp s die.val).replay.any (replayDue s src flow seq) then die.val else 4
  let s1 := modEp s ep (fun e => { e with replay := e.replay.filter (fun x => !replayDue s src flow seq x) })
  .next ((getEp s1 ep).homeFlows.foldl (fun s h => admitUpTo ep h.src h.flow 1025 s) s1)

/-! ## The source's side (R104, R167, R180, R186, R314) -/

/-- The crowd window after a response (R314). -/
def crowdStep (f : Flow) (crowd : Bool) : Flow :=
  let since := f.cwSince + 1
  if crowd then
    if f.cw ≤ since then { f with cw := max (f.cw / 2) 4, cwSince := 0, cwRun := 0 } else { f with cwSince := since, cwRun := 0 }
  else if f.cw ≤ f.cwRun + 1 then { f with cw := min (f.cw + 32) 1024, cwSince := since, cwRun := 0 }
  else { f with cwSince := since, cwRun := f.cwRun + 1 }

def halves (f : Flow) (crowd : Bool) : Bool := crowd && decide (f.cw ≤ f.cwSince + 1)

/-- A gather that has ended takes no completion (R131). -/
def isEnded (m : Master) : Bool :=
  match m with
  | .gather _ _ k _ => 32 ≤ k
  | .strand _ _ _ => false

/-- A request has completed at its source. -/
def complete (s : State) (d : Nat) (o : Outst) (status : BitVec 4) (data : List Byte) : State :=
  let c : Completion := { id := o.id, master := o.master, dest := o.dest, isLoad := o.isLoad, addr := o.req.addr, status := status, data := data }
  modEp s d (fun e => { e with
    outst := e.outst.filter (fun x => x.id ≠ o.id)
    completed := if isEnded o.master then e.completed else e.completed ++ [c] })

/-- The counts a completion's status moves (R186, R487, R504). -/
def countStatus (s : State) (d : Nat) (o : Outst) (status : BitVec 4) : State :=
  let s := modEp s d (fun e => { e with
    violSrc := if status = 4 then satUp e.violSrc 1 0xFF else e.violSrc
    indeterminate := if status = 6 then satUp e.indeterminate 1 0xFF else e.indeterminate
    timeouts := if status = 7 then satUp e.timeouts 1 0xFF else e.timeouts })
  let s := if status = 4 then bumpFlowCtr s o.req.slice d 3 1 else s
  if statusCause status = some cPoisoned then
    recordSlice s { source := srcKind 2 d, event := evPoisonUsed, status := stPoisoned, location := o.req.addr } o.req.slice
  else s

/-- The opcode is one of the three of class C1 (R166). -/
def isRespOpcode (op : BitVec 8) : Bool := op = 0x80 || op = 0x81 || op = 0x82

/-- RESPONSE_ARRIVE (R166 to R168, R180): the first response for a sequence completes its request; any later one, and a packet of another opcode, is discarded. -/
def execResponseArrive (die : Fin 4) (r : Resp) (s : State) : Result :=
  let d := die.val
  .next (if !isRespOpcode r.opcode then s else match (getEp s d).outst.find? (fun o => o.req.flow = r.flow && o.req.seq = r.seq) with
    | none => s
    | some o =>
      let status : BitVec 4 := r.word.extractLsb' 0 4
      let k := r.flow.toNat
      let halved := match getFlow s k with
        | some f => halves f r.crowd
        | none => false
      let s := modFlow s k (fun f => { crowdStep f r.crowd with lastUse := s.tb.time })
      let s := if r.crowd then bumpFlowCtr s o.req.slice d 1 1 else s
      let s := if halved then bumpFlowCtr s o.req.slice d 6 1 else s
      countStatus (complete s d o status r.data) d o status)

/-- RESPONSE_TIMEOUT (R180, R321): 50 us after a send the request goes again, COMB clear, at most three times; then it completes with TIMEOUT. -/
def execResponseTimeout (die : Fin 4) (flow : BitVec 20) (seq : BitVec 24) (s : State) : Result :=
  let d := die.val
  .next (match (getEp s d).outst.find? (fun o => o.req.flow = flow && o.req.seq = seq) with
    | none => s
    | some o =>
      if s.tb.time < o.sent + 50 * usU then s
      else if o.resends < 3 then
        let r := { o.req with comb := false }
        let s := modEp s d (fun e => { e with
          outst := e.outst.map (fun x => if x.id = o.id then { x with resends := x.resends + 1, sent := s.tb.time, req := r } else x)
          resends := satUp e.resends 1 0xFFFF })
        let s := bumpFlowCtr s o.req.slice d 2 1
        emit s (requestOut s o.dst r)
      else countStatus (complete s d o 7 []) d o 7)

/-! ## A failed stack (R151) -/

/-- A request in flight to a stack: to HBM, or to the saved image of a window's slice (R163). -/
def inFlightTo (s : State) (d k : Nat) (r : Req) : Bool :=
  match reqTarget d r with
  | .hbm => stackOf s d (addrOff r.addr) = k
  | .window l => (match windowSlice s d l (getDeckle s (keyIndex r.key)).owner with
    | some e => e.2.st = .out && stackOf s d (imageOff e.2 d l (addrOff r.addr)) = k
    | none => false)
  | _ => false

/-- An admitted request of a flow completes with POISONED; of a closed flow, to no one. -/
def poisonOne (d : Nat) (h : HomeFlow) (s : State) (r : Req) : State :=
  let s := leaveOrder (modHome s d h.src h.flow (fun h => { h with admitted := h.admitted.filter (fun q => q.seq ≠ r.seq) })) d h.src h.flow r.seq
  if h.closed then s else keepReplay (respond s r 5 0 false []) d r 5 0 []

/-- A combined request completes with POISONED, each constituent on its own flow (R324). -/
def poisonCombined (d : Nat) (s : State) (r : Req) : State :=
  let s := leaveOrder (modEp s d (fun e => { e with combined := e.combined.filter (fun q => q ≠ r) })) d r.src r.flow r.seq
  (constituents r).foldl (ackPart d r 5 0) s

/-- Requests in flight to a stack complete with POISONED. -/
def poisonAdmitted (s : State) (d : Nat) (hit : Req → Bool) : State :=
  let s1 := (getEp s d).homeFlows.foldl (fun s h => (h.admitted.filter hit).foldl (poisonOne d h) s) s
  ((getEp s1 d).combined.filter hit).foldl (poisonCombined d) s1

/-- Granules a stack failure takes out of service. -/
def retireGranules (s : State) (d : Nat) : State :=
  (List.range 16).foldl (fun s g =>
    let st := (getGran s d g).st
    if st = .free || st = .owned || st = .scrubbing then modGran s d g (fun x => { x with st := .retired, zeroing := false }) else s) s

/-- Owners of a die's granules. -/
def granuleOwners (s : State) (d : Nat) : List (BitVec 16) :=
  ((List.range 16).filterMap (fun g => if (getGran s d g).st = .owned then some (getGran s d g).owner else none)).dedup

/-- A stack fails in service (R151): the die's granules are RETIRED and their owners' jobs stopped. -/
def failStack (s : State) (k : Nat) : State :=
  let d := k / 4
  let owners := granuleOwners s d
  let s := poisonAdmitted s d (inFlightTo s d k)
  let s := modStack s k (fun x => { x with link := 2 })
  let s := { s with rst := { s.rst with hbmOk := s.rst.hbmOk &&& ~~~ (1#16 <<< k) } }
  let s := record s { source := srcKind 4 k, event := evUncorrectable, status := stPoisoned }
  let s := finishScrub (retireGranules s d)
  owners.foldl (fun s id => raiseStopFor s id stPoisoned) s

/-- STACK_FAIL (R151). -/
def execStackFail (stack : Fin 16) (s : State) : Result :=
  .next (if (getStack s stack.val).link ≠ 1 then s else failStack s stack.val)

/-- A read that is the sixteenth in a row of its pseudo-channel to find an uncorrectable error fails the stack (R151). -/
def failDue (before after : State) (row : RowId) : State :=
  if pchRun before row < pchRun after row && decide (16 ≤ pchRun after row) && (getStack after row.stack.val).link = 1 then failStack after row.stack.val
  else after

/-- HOME_UPDATE (R151, R170): the home performs an admitted request; `symbols` of the first sector it reads are in error, in `row`. -/
def execHomeUpdate (die : Fin 4) (src : BitVec 20) (flow : BitVec 20) (seq : BitVec 24) (symbols : Nat) (row : RowId) (s : State) : Result :=
  let inDie := (findHome s die.val src flow).isSome || (getEp s die.val).combined.any (fun r => (constituents r).contains (src, flow, seq))
  .next (failDue s (updateEp s (if inDie then die.val else 4) src flow seq symbols row) row)

end Sys2Proof.Machine
end

