-- ==== Sys2Proof/Machine/CouchRun.lean ====
section
/-! DEFINITION. Copies as they run: the sending half, the receiving half, bulk flows, metering and moulds (R198 to R211, R316, R317, R431). -/

namespace Sys2Proof.Machine

/-! ## Reading and writing under a key (R145, R176, R206, R207) -/

/-- A request of a copy, as the checks of R176 see it. -/
def copyReq (node : BitVec 20) (slice : BitVec 16) (a key : Word) (wr : Bool) : Req :=
  { src := node, flow := 0, seq := 0, slice := slice, opcode := if wr then 0x0A else 0x03, addr := a, key := key, data := [], comb := false, crowd := false, parts := [], flags := 0 }

/-- Where the bytes of a window are: its arrays, or the image of a slice that is OUT (R163, R406). -/
def windowKey (d l off : Nat) (e : Nat × Slice) : Nat :=
  if e.2.st = .out then
    memKey d (imageOff e.2 d l off)
  else memKey d off

/-- The memory key of a range of a copy under R176, or the status that refuses it. A refusal at check 3 or later is counted at the home. -/
def copyKey (s : State) (r : Req) (n : Nat) (k : OpKind) : Except (BitVec 16 × State) Nat :=
  let d := nodeEp (addrNode r.addr)
  let off := addrOff r.addr
  let t := targetOf off n
  let bad (s : State) : Except (BitVec 16 × State) Nat := .error (stViolation, modEp s d (fun e => { e with violHome := satUp e.violHome 1 0xFF }))
  match t with
  | .hbm | .window _ =>
    match deckleCheck s d t k r n with
    | .spoiled => .error (stPoisoned, s)
    | .early => bad s
    | .late => bad (countViolation s r)
    | .pass =>
      match t with
      | .window l =>
        match windowSlice s d l (getDeckle s (keyIndex r.key)).owner with
        | some e => if e.2.st = .out && !ownsHbm s d (imageOff e.2 d l off) n e.2.id then bad s else .ok (windowKey d l off e)
        | none => bad s
      | _ => .ok (memKey d off)
  | _ => bad s

/-- The memory holds an access for a slice back: a stack in HOLD (R147), or a window whose slice is being switched or whose cluster awaits its spare (R133, R163). -/
def rangeHeld (s : State) (d off n : Nat) (owner : BitVec 16) : Bool :=
  match targetOf off n with
  | .hbm => hbmHeld s d off n
  | .window l =>
    awaitsSpare s d l ||
    (match windowSlice s d l owner with
    | some e => e.2.st = .switching || (e.2.st = .out && hbmHeld s d (imageOff e.2 d l off) n)
    | none => false)
  | _ => false

/-- The memory holds an access of a copy back. -/
def copyHeld (s : State) (r : Req) (n : Nat) : Bool :=
  rangeHeld s (nodeEp (addrNode r.addr)) (addrOff r.addr) n (getDeckle s (keyIndex r.key)).owner

/-- Read a range of a source: status, bytes and state. -/
def copyRead (s : State) (r : Req) (n : Nat) : BitVec 16 × List Byte × State :=
  match copyKey s r n .load with
  | .error e => (e.1, [], e.2)
  | .ok key =>
    if poisonedAt s key n || sramBad s key n then (stPoisoned, [], s) else (stOk, memRead s.mem.bytes key n, s)

/-- Write a range of a destination, whole lines: status and state. -/
def copyWrite (s : State) (r : Req) (bs : List Byte) : BitVec 16 × State :=
  match copyKey s r bs.length .store with
  | .error e => e
  | .ok key =>
    let d := nodeEp (addrNode r.addr)
    (stOk, monitorWake (memStore s key bs) d (addrOff r.addr) bs.length)

/-! ## Copies in the table -/

def findCopy (s : State) (tag : BitVec 16) : Option Copy := s.fab.copies.find? (fun c => !c.atDest && c.tag = tag)

def findDest (s : State) (peer : BitVec 20) (tag : BitVec 16) : Option Copy :=
  s.fab.copies.find? (fun c => c.atDest && c.tag = tag && nodeModule c.peer = nodeModule peer)

def modCopies (s : State) (f : Copy → Copy) : State := { s with fab := { s.fab with copies := s.fab.copies.map f } }

def modCopy (s : State) (tag : BitVec 16) (f : Copy → Copy) : State :=
  modCopies s (fun c => if !c.atDest && c.tag = tag then f c else c)

def modDest (s : State) (peer : BitVec 20) (tag : BitVec 16) (f : Copy → Copy) : State :=
  modCopies s (fun c => if c.atDest && c.tag = tag && nodeModule c.peer = nodeModule peer then f c else c)

/-- A tag no sending copy of the module uses. -/
def freshTag (s : State) : BitVec 16 :=
  let used := (s.fab.copies.filter (fun c => !c.atDest)).map (fun c => c.tag)
  (((List.range (used.length + 1)).map (fun i => BitVec.ofNat 16 (s.fab.nextTag + i))).find? (fun t => !used.contains t)).getD 0

/-! ## The end of a copy at its sender (R207, R211) -/

/-- A ring's descriptor in progress with a tag of its issuer. -/
def progOf (s : State) (ring tagLow : Nat) : Option DescProg := (getRing s ring).prog.find? (fun p => p.index % 16 = tagLow)

/-- A copy's end reaches the ring that issued it: VIOLATION freezes the ring (R177, R211). -/
def issuerEnd (s : State) (ring index : Nat) (status : BitVec 16) (counted : Nat) : State :=
  if ((getRing s ring).prog.any (fun p => p.index = index && p.code.isNone)) then
    if status = stViolation then freezeRing s ring index counted else endDesc s ring index status counted
  else s

/-- COPY_END's payload. -/
def copyEndBytes (tag status : BitVec 16) (counted : Nat) : List Byte := leBytes 2 tag.toNat ++ leBytes 2 status.toNat ++ leBytes 8 counted

/-- An ended half may be forgotten: no packet of it is outstanding and its C4 packets can arrive no more. -/
def forgotten (s : State) (c : Copy) : Bool :=
  c.ended.isSome && (if c.atDest then decide (c.endedAt + 200 * usU ≤ s.tb.time)
    else (outsOf s c).isEmpty && (c.issuer = fdNode s || decide (c.endedAt + 200 * usU ≤ s.tb.time)))

/-- Drop the halves that may be forgotten. -/
def tidyCopies (s : State) : State :=
  { s with fab := { s.fab with copies := s.fab.copies.filter (fun c => !forgotten s c) } }

/-- The end of a copy reaches its issuer. -/
def tellIssuer (s : State) (c : Copy) (status : BitVec 16) (counted : Nat) : State :=
  if c.issuer = fdNode s then issuerEnd s c.ring c.slot status counted
  else emit s (.c4 c.issuer 0xB7 c.slice c.ring (copyEndBytes (descTag c.ring c.slot) status counted))

/-- The sending half ends: it reads and sends no more, and the issuer learns. It stays listed while packets of it are outstanding. -/
def senderEnd (s : State) (tag : BitVec 16) (status : BitVec 16) (counted : Nat) : State :=
  match findCopy s tag with
  | none => s
  | some c =>
    if c.ended.isSome then s
    else
      let s := dropC4 s 0xB6 tag.toNat
      let s := if status = stOk then s else endOwnDest s c status
      let s := modCopy s tag (fun c => { c with ended := some status, endedAt := s.tb.time, units := counted })
      tellIssuer (tidyCopies s) c status counted

/-- The sender ends a copy of its own accord. -/
def senderStop (s : State) (tag : BitVec 16) (status : BitVec 16) : State :=
  match findCopy s tag with
  | none => s
  | some c => let x := countedOf s c; senderEnd x.2 tag status x.1

/-! ## Metering (R316) -/

/-- Tokens are counted in fortieths of a byte: 0.1 GB/s for one unit of fabric time is one of them. -/
def refill (m : Meter) (now : Nat) : Meter :=
  let dt := now - m.lastFill
  { m with
    tp := min (m.tp + m.pir * dt) (m.pbs * 1024 * 40)
    tc := min (m.tc + m.cir * dt) (m.cbs * 1024 * 40)
    lastFill := now }

/-- The two-rate three-colour marker of RFC 2698, colour-blind: colour and the marker after it. -/
def meterMark (m : Meter) (now bytes : Nat) : BitVec 2 × Meter :=
  if !m.en then (0, m)
  else
    let m := refill m now
    let b := bytes * 40
    if m.tp < b then (2, m)
    else if m.tc < b then (1, { m with tp := m.tp - b })
    else (0, { m with tp := m.tp - b, tc := m.tc - b })

/-- The slot of a slice on this module; 64 names none. -/
def slotOfSlice (s : State) (id : BitVec 16) : Nat :=
  match findSlice s id with
  | some e => e.1
  | none => 64

/-! ## Sending (R205 to R207) -/

/-- Data of a copy from an offset: the pattern of a FILL, or the source under SKEY. -/
def copyData (s : State) (c : Copy) (off n : Nat) : BitVec 16 × List Byte × State :=
  if c.op = 2 then (stOk, (List.replicate (n / 8) (leBytes 8 c.src.toNat)).flatten, s)
  else copyRead s (copyReq (addrNode c.src) c.slice (c.src + BitVec.ofNat 64 off) c.skey false) n

/-- The source's memory holds the copy's next read back (R147, R163). -/
def dataHeld (s : State) (c : Copy) (off n : Nat) : Bool :=
  c.op ≠ 2 && copyHeld s (copyReq (addrNode c.src) c.slice (c.src + BitVec.ofNat 64 off) c.skey false) n

/-- The prefix of a BULK_DATA packet (R205). -/
def bulkPrefix (tag : BitVec 16) (off : Nat) : List Byte := leBytes 5 off ++ leBytes 1 0 ++ leBytes 2 tag.toNat

/-- The CRC-32C trailer (R205) over the header's source node, flow context and sequence, the prefix and the data; the three header fields as 3, 3 and 3 bytes, low byte first (log entry 97). -/
def bulkCrc (src flow : BitVec 20) (seq : BitVec 24) (tag : BitVec 16) (off : Nat) (data : List Byte) : BitVec 32 :=
  crc32c (leBytes 3 src.toNat ++ leBytes 3 flow.toNat ++ leBytes 3 seq.toNat ++ bulkPrefix tag off ++ data)

/-- Send one BULK_DATA packet: a header of 24 bytes, the prefix, the data and its CRC. -/
def sendBulk (s : State) (f : Flow) (flow : Nat) (seq : BitVec 24) (tag : BitVec 16) (off : Nat) (bs : List Byte) : State :=
  let slot := slotOfSlice s f.slice
  let m := Tab.getD s.net.meters slot {}
  let x := meterMark m s.tb.time (24 + 8 + bs.length + 4)
  let s := if slot < 64 then { s with net := { s.net with meters := Tab.set s.net.meters slot x.2 } } else s
  let s := bumpFlowCtr s f.slice (nodeEp f.src) 4 bs.length
  emit s (.bulk f.dst (BitVec.ofNat 20 flow) seq tag off x.1 m.grade bs (bulkCrc f.src (BitVec.ofNat 20 flow) seq tag off bs))

/-- Room in a bulk flow's window. -/
def bulkRoom (f : Flow) : Bool := f.st = .opened && decide (f.out.length < f.window)

/-- Send the packets of a copy that its flow's window has room for. -/
def pumpCopy (tag : BitVec 16) : Nat → State → State
  | 0, s => s
  | k + 1, s =>
    match findCopy s tag with
    | none => s
    | some c =>
      match c.flow with
      | none => s
      | some fn =>
        match getFlow s fn.toNat with
        | none => s
        | some f =>
          if c.ended.isSome || c.length ≤ c.sent || !bulkRoom f then s
          else
            let n := min 4096 (c.length - c.sent)
            if dataHeld s c c.sent n then s else
            match copyData s c c.sent n with
            | (st, bs, s) =>
              if st ≠ stOk then senderStop s tag st
              else
                let off := c.sent
                let s := modCopy s tag (fun c => { c with sent := c.sent + n })
                let s := modFlow s fn.toNat (fun f => { f with
                  seqNext := f.seqNext + 1
                  lastUse := s.tb.time
                  sentSinceHalve := f.sentSinceHalve + 1
                  timerFrom := if f.out.isEmpty then s.tb.time else f.timerFrom
                  progress := if f.out.isEmpty then s.tb.time else f.progress
                  out := f.out ++ [{ seq := f.seqNext, tag := tag, offset := off, len := n }] })
                pumpCopy tag k (sendBulk s f fn.toNat f.seqNext tag off bs)

/-- The node a copy's data leaves from: its source's, or for FILL and SIGNAL the ring's compute die (R177). -/
def copySrcNode (s : State) (op : BitVec 4) (src : Word) (die : Nat) : BitVec 20 :=
  if op = 1 || op = 3 then addrNode src else nodeOf s die

/-- A copy that has no flow yet looks for one, and opens it where there is none (R203). -/
def takeFlow (s : State) (c : Copy) : State :=
  if c.flow.isSome || c.ended.isSome || c.op = 5 then s
  else
    let dst := addrNode c.dst
    match findFlow s true c.slice c.peer dst with
    | some (k, _) => modCopy s c.tag (fun c => { c with flow := some (BitVec.ofNat 20 k) })
    | none =>
      match openFlow s true c.slice c.peer dst with
      | some (k, s) => modCopy s c.tag (fun c => { c with flow := some (BitVec.ofNat 20 k) })
      | none => s

/-- Every sending copy goes on: a flow for those without, data for those with room. -/
def pumpCopies (s : State) : State :=
  let tags := (s.fab.copies.filter (fun c => !c.atDest && c.ended.isNone)).map (fun c => c.tag)
  tags.foldl (fun s t =>
    match findCopy s t with
    | none => s
    | some c => pumpCopy t 257 (takeFlow s c)) s

/-- COPY_START's payload (R205). -/
def copyStartBytes (c : Copy) : List Byte :=
  leBytes 2 c.tag.toNat ++ leBytes 1 c.op.toNat ++ leBytes 8 c.dst.toNat ++ leBytes 8 c.dkey.toNat ++ leBytes 2 c.dctr.toNat ++
  leBytes 1 (if c.dcen then 1 else 0) ++ leBytes 1 c.cunit ++ leBytes 5 c.length ++ leBytes 1 c.mkh

/-- Start a copy at the module of its source (R207): COPY_START, then data. A destination outside the extent or excluded ends it at once (R161). -/
def startCopy (s : State) (issuer : BitVec 20) (ring index die : Nat) (slice : BitVec 16) (d : BitVec 512) : State :=
  let tag := freshTag s
  let c : Copy := { tag := tag, atDest := false, peer := copySrcNode s (dOp d) (dSrc d) die, issuer := issuer, ring := ring, slot := index, slice := slice, op := dOp d, src := dSrc d, dst := dDst d, skey := dSkey d, dkey := dDkey d, dctr := dDctr d, dcen := dDcen d, cunit := dCunit d, length := dLength d, mkh := dMkh d }
  let s := { s with fab := { s.fab with copies := s.fab.copies ++ [c], nextTag := (tag.toNat + 1) % 65536 } }
  match decodeReq s c.dst with
  | .violation => senderEnd s tag stViolation 0
  | .poisoned => senderEnd s tag stPoisoned 0
  | .send => pumpCopies (sendC4 s (fdOf (addrNode c.dst)) 0xB6 slice tag.toNat (copyStartBytes c))

/-- Copies that wait on, or run over, a send context end with a status. -/
def endCopiesOn (s : State) (flow : Nat) (status : BitVec 16) : State :=
  let mine (c : Copy) : Bool := !c.atDest && c.flow = some (BitVec.ofNat 20 flow)
  let tags := (s.fab.copies.filter (fun c => mine c && c.ended.isNone)).map (fun c => c.tag)
  let s := tags.foldl (fun s t => senderStop s t status) s
  tidyCopies (modCopies s (fun c => if mine c then { c with flow := none } else c))

/-! ## Receiving (R200, R206, R209) -/

def findRecv (s : State) (src flow : BitVec 20) : Option RecvFlow := s.fab.recvFlows.find? (fun f => f.src = src && f.flow = flow)

def modRecv (s : State) (src flow : BitVec 20) (f : RecvFlow → RecvFlow) : State :=
  { s with fab := { s.fab with recvFlows := s.fab.recvFlows.map (fun x => if x.src = src && x.flow = flow then f x else x) } }

/-- The 256-bit map of a BULK_ACK (R205). -/
def ackMap (f : RecvFlow) : BitVec 256 :=
  (List.range 256).foldl (fun b i => if f.arrived.contains (f.cum + 1 + BitVec.ofNat 24 i) then b ||| (1#256 <<< i) else b) 0

/-- Send BULK_ACK for a receive context. -/
def sendBulkAck (s : State) (src flow : BitVec 20) : State :=
  match findRecv s src flow with
  | none => s
  | some f =>
    let s := emit s (.c4 (fdOf src) 0xB4 f.slice flow.toNat (leBytes 4 f.cum.toNat ++ leBytes 4 0 ++ leBytes 32 (ackMap f).toNat))
    modRecv s src flow (fun f => { f with uncovered := 0 })

/-- Advance CUM over what has arrived. -/
def advanceCum : Nat → RecvFlow → RecvFlow
  | 0, f => f
  | k + 1, f =>
    if f.arrived.contains f.cum then advanceCum k { f with cum := f.cum + 1, arrived := f.arrived.filter (fun q => q ≠ f.cum) } else f

/-- Bytes of a range that have arrived. -/
def gotIn (got : List (Nat × Nat)) (lo hi : Nat) : Nat :=
  (got.map (fun g => min hi (g.1 + g.2) - max lo g.1)).foldl (· + ·) 0

/-- The receiving half ends: COPY_END goes to the sender (R207). -/
def destEnd (s : State) (peer : BitVec 20) (tag : BitVec 16) (status : BitVec 16) (counted : Nat) : State :=
  let s := modDest s peer tag (fun c => { c with ended := some status, endedAt := s.tb.time, got := [], stash := [], sent := counted })
  emit s (.c4 (fdOf peer) 0xB7 0xFFFF tag.toNat (copyEndBytes tag status counted))

/-- One count on DCTR (R200). -/
def countUnit (s : State) (c : Copy) : State :=
  if c.dcen then counterAddTo s (nodeEp (addrNode c.dst)) c.dctr.toNat 1 else s

/-- Count the units that are complete, in order; the last ends the copy. -/
def countUnits (peer : BitVec 20) (tag : BitVec 16) : Nat → State → State
  | 0, s => s
  | k + 1, s =>
    match findDest s peer tag with
    | none => s
    | some c =>
      let u := unitBytes c
      let lo := c.units * u
      let hi := min c.length (lo + u)
      if c.length ≤ lo then destEnd s peer tag stOk c.length
      else if gotIn c.got lo hi < hi - lo then s
      else countUnits peer tag k (modDest (countUnit s c) peer tag (fun c => { c with units := c.units + 1 }))

/-! ## Moulds (R209, R431) -/

def mhSeglen (h : List Byte) : Nat := leAt h 4 4
def mhTotal (h : List Byte) : Nat := leAt h 8 8
def mhNseg (h : List Byte) : Nat := leAt h 16 4

/-- The header's own checks; the tag's verdict is the caller's. -/
def mouldHeaderOk (h : List Byte) (keyId : BitVec 32) (length : Nat) : Bool :=
  leAt h 0 2 = 1 && leAt h 2 2 = 0 && mhSeglen h % 65536 = 0 && decide (65536 ≤ mhSeglen h) && decide (mhSeglen h ≤ 16 * 2 ^ 20) &&
  mhTotal h ≠ 0 && mhTotal h % 64 = 0 && mhNseg h = (mhTotal h + mhSeglen h - 1) / mhSeglen h && leAt h 20 4 = keyId.toNat &&
  leAt h 24 8 = 0 && ((h.drop 72).take 40).all (fun b => b = 0) && length = 128 + mhTotal h + 64 * mhNseg h

/-- Plaintext bytes of segment i. -/
def segLen (h : List Byte) (i : Nat) : Nat := min (mhSeglen h) (mhTotal h - i * mhSeglen h)

/-- Container offset of segment i. -/
def segOff (h : List Byte) (i : Nat) : Nat := 128 + i * (mhSeglen h + 64)

/-- Bytes of the stash at a container offset, if all are there. -/
def stashByte (st : List (Nat × List Byte)) (x : Nat) : Option Byte :=
  (st.find? (fun e => e.1 ≤ x && x < e.1 + e.2.length)).bind (fun e => e.2[x - e.1]?)

def stashBytes (st : List (Nat × List Byte)) (off n : Nat) : Option (List Byte) :=
  (List.range n).foldr (fun i acc => match acc, stashByte st (off + i) with
    | some l, some b => some (b :: l)
    | _, _ => none) (some [])

/-- Decrypt segment `i` of a container under the nonce NB and `i` (R431). -/
def mouldPlain (key h : List Byte) (i : Nat) (ct : List Byte) : List Byte := gcmOpen key ((h.drop 64).take 8 ++ leBytes 4 i) ct

/-- Write plaintext of a mould from a destination offset. -/
def mouldWrite (s : State) (c : Copy) (off : Nat) (bs : List Byte) : BitVec 16 × State :=
  copyWrite s (copyReq c.peer c.slice (c.dst + BitVec.ofNat 64 off) c.dkey true) bs

/-- A segment whose tag fails leaves zeros, and the copy ends (R209). -/
def mouldFail (s : State) (c : Copy) (h : List Byte) (i counted : Nat) : State :=
  let s := (mouldWrite s c (i * mhSeglen h) (List.replicate (segLen h i) 0)).2
  destEnd s c.peer c.tag stCheckFailed counted

/-- Segments that have all arrived, in order: decrypted, written and counted, the last ending the copy. `bad` names the tags that fail: 0 the header's, i + 1 segment i's. -/
def mouldSegments (peer : BitVec 20) (tag : BitVec 16) (bad : List Nat) : Nat → State → State
  | 0, s => s
  | k + 1, s =>
    match findDest s peer tag with
    | none => s
    | some c =>
      let h := c.header
      let i := c.units
      if h.isEmpty then s
      else if mhNseg h ≤ i then destEnd s peer tag stOk (mhTotal h)
      else match stashBytes c.stash (segOff h i) (segLen h i + 64) with
        | none => s
        | some bs =>
          let padOk := ((bs.drop (segLen h i + 16)).all (fun b => b = 0))
          if bad.contains (i + 1) || !padOk then mouldFail s c h i (i * mhSeglen h)
          else
            let key := (Tab.getD s.fab.mouldKeys c.mkh { slice := 0, keyId := 0 }).key
            let w := mouldWrite s c (i * mhSeglen h) (mouldPlain key h i (bs.take (segLen h i)))
            if w.1 ≠ stOk then destEnd w.2 peer tag w.1 (i * mhSeglen h)
            else
              let s := modDest (countUnit w.2 c) peer tag (fun c => { c with units := c.units + 1, stash := c.stash.filter (fun e => segOff h (i + 1) < e.1 + e.2.length) })
              mouldSegments peer tag bad k s

/-- A packet of a container arrives: the header is checked before anything is written. -/
def mouldData (s : State) (c : Copy) (off : Nat) (bs : List Byte) (bad : List Nat) : State :=
  let s := modDest s c.peer c.tag (fun c => { c with stash := c.stash ++ [(off, bs)] })
  let st := c.stash ++ [(off, bs)]
  if !c.header.isEmpty then mouldSegments c.peer c.tag bad 256 s
  else match stashBytes st 0 128 with
    | none => s
    | some h =>
      let k := Tab.find s.fab.mouldKeys c.mkh
      let bound := match k with
        | some x => x.slice = c.slice && mouldHeaderOk h x.keyId c.length
        | none => false
      if !bound || bad.contains 0 then destEnd s c.peer c.tag stCheckFailed 0
      else mouldSegments c.peer c.tag bad 256 (modDest s c.peer c.tag (fun c => { c with header := h }))

/-- Data of a COPY or FILL arrives: written under R176, and counted. -/
def plainData (s : State) (c : Copy) (off : Nat) (bs : List Byte) : State :=
  let w := copyWrite s (copyReq c.peer c.slice (c.dst + BitVec.ofNat 64 off) c.dkey true) bs
  if w.1 ≠ stOk then destEnd w.2 c.peer c.tag w.1 (destCounted c)
  else
    let s := modDest w.2 c.peer c.tag (fun c => { c with got := c.got ++ [(off, bs.length)] })
    countUnits c.peer c.tag (c.length / 64 + 1) s

end Sys2Proof.Machine
end

