-- ==== Sys2Proof/Machine/LineCode.lean ====
section
/-! DEFINITION. The line code of a port: 66-bit blocks, the scrambler, the Reed-Solomon code and its frame, the spread over lanes and the PAM4 levels, as a port sends them and as a receiver undoes them (R328 to R337, R340). Bits are listed in the order in which they leave. -/

namespace Sys2Proof.Machine

/-! ## Blocks (R329, R330) -/

/-- The bits of a number, the least significant first. -/
def bitsOf (n v : Nat) : List Bool := (List.range n).map (fun i => v.testBit i)

/-- The number whose bits these are, the least significant first. -/
def natOfBits (l : List Bool) : Nat := l.foldr (fun b n => 2 * n + b.toNat) 0

/-- A block: a data block of eight bytes, or a control block of a type and seven bytes of fields. -/
inductive Block where
  | data (payload : BitVec 64)
  | control (type : BitVec 8) (fields : BitVec 56)
  deriving DecidableEq, Repr

/-- The two bits of the sync header: a data block sends 0 and then 1, a control block 1 and then 0. -/
def blockSync (b : Block) : List Bool :=
  match b with
  | .data _ => [false, true]
  | .control _ _ => [true, false]

/-- The 64 payload bits: byte 0 of a control block is its type, and its fields begin at bit 8. -/
def blockPayload (b : Block) : List Bool :=
  match b with
  | .data w => bitsOf 64 w.toNat
  | .control t f => bitsOf 64 (t.toNat + 2 ^ 8 * f.toNat)

/-- The block that a sync header and a payload make; none for an invalid header. -/
def blockOf (sync payload : List Bool) : Option Block :=
  match sync with
  | [false, true] => some (.data (BitVec.ofNat 64 (natOfBits payload)))
  | [true, false] => some (.control (BitVec.ofNat 8 (natOfBits (payload.take 8))) (BitVec.ofNat 56 (natOfBits (payload.drop 8))))
  | _ => none

/-- The types of R330; every other is reserved. -/
def blockTypes : List (BitVec 8) := [0x00, 0x1E, 0x2D, 0x33, 0x4B, 0x55, 0x66, 0x78, 0x87, 0x99]

/-- START, CREDIT, STOMP and every data block are carried inside a segment. -/
def isProtected (b : Block) : Bool :=
  match b with
  | .data _ => true
  | .control t _ => t = 0x1E || t = 0x2D || t = 0x33

/-! ## The scrambler (R331) -/

/-- One bit through x^58 + x^39 + 1: the state holds the last 58 bits sent, the latest in bit 0. -/
def scrambleBit (st : BitVec 58) (b : Bool) : Bool := b ^^ st.getLsbD 38 ^^ st.getLsbD 57

def lineShift (st : BitVec 58) (b : Bool) : BitVec 58 := (st <<< 1) ||| BitVec.ofNat 58 b.toNat

/-- Scramble a payload: its bits as sent, and the state after them. -/
def scramblePayload (st : BitVec 58) : List Bool → List Bool × BitVec 58
  | [] => ([], st)
  | b :: bs =>
    let x := scrambleBit st b
    let r := scramblePayload (lineShift st x) bs
    (x :: r.1, r.2)

/-- The same at the receiver: the state holds the last 58 bits received. -/
def descramblePayload (st : BitVec 58) : List Bool → List Bool × BitVec 58
  | [] => ([], st)
  | x :: xs =>
    let r := descramblePayload (lineShift st x) xs
    (scrambleBit st x :: r.1, r.2)

/-- Blocks as a stream; the sync headers are not scrambled. -/
def streamOf (st : BitVec 58) : List Block → List Bool × BitVec 58
  | [] => ([], st)
  | b :: bs =>
    let x := scramblePayload st (blockPayload b)
    let r := streamOf x.2 bs
    (blockSync b ++ x.1 ++ r.1, r.2)

/-- `n` blocks read from a stream; none in the place of one whose sync header is invalid. -/
def blocksOf (st : BitVec 58) : Nat → List Bool → List (Option Block)
  | 0, _ => []
  | n + 1, l =>
    let x := descramblePayload st ((l.drop 2).take 64)
    blockOf (l.take 2) x.1 :: blocksOf x.2 n (l.drop 66)

/-! ## The field of 1,024 elements (R335) -/

/-- Multiply by α, modulo x^10 + x^3 + 1. -/
def gfTimesA (a : Nat) : Nat := if 512 ≤ a then ((a * 2) ^^^ 1033) else a * 2

/-- The product of two elements. -/
def gfMul (a b : Nat) : Nat := (List.range 10).foldr (fun i acc => gfTimesA acc ^^^ (if b.testBit i then a else 0)) 0

/-- A power of α. -/
def gfExp : Nat → Nat
  | 0 => 1
  | n + 1 => gfTimesA (gfExp n)

/-- The inverse of an element other than 0: its power 1,022. -/
def gfInv (a : Nat) : Nat :=
  ((List.range 9).foldl (fun x _ => let sq := gfMul x.1 x.1; (sq, gfMul x.2 sq)) (a, 1)).2

/-- A polynomial, its lowest coefficient first, at a point. -/
def gfEval (p : List Nat) (x : Nat) : Nat := p.foldr (fun c acc => gfMul acc x ^^^ c) 0

/-- The sum of two polynomials. -/
def gfAdd : List Nat → List Nat → List Nat
  | [], q => q
  | p, [] => p
  | a :: p, b :: q => (a ^^^ b) :: gfAdd p q

/-- Their product. -/
def gfPolyMul : List Nat → List Nat → List Nat
  | [], _ => []
  | a :: p, q => gfAdd (q.map (gfMul a)) (0 :: gfPolyMul p q)

/-! ## RS(170,160) (R335) -/

/-- The generator, with roots α^0 to α^9. -/
def rsGenerator : List Nat := (List.range 10).foldl (fun g i => gfPolyMul g [gfExp i, 1]) [1]

/-- The remainder after the data symbols, the highest coefficient first. -/
def rsCheck (data : List Nat) : List Nat :=
  let g := (rsGenerator.take 10).reverse
  data.foldl (fun r m =>
    let f := m ^^^ r.headD 0
    List.zipWith (fun a c => a ^^^ gfMul f c) (r.tail ++ [0]) g) (List.replicate 10 0)

/-- A codeword: 160 data symbols, then the ten check symbols. -/
def rsEncode (data : List Nat) : List Nat := data ++ rsCheck data

/-- The ten syndromes of a word whose first symbol has the highest power. -/
def rsSyndromes (w : List Nat) : List Nat := (List.range 10).map (fun j => let a := gfExp j; w.foldl (fun acc c => gfMul acc a ^^^ c) 0)

/-- The search for the error locator. -/
structure Locator where
  c : List Nat
  b : List Nat
  len : Nat
  gap : Nat
  last_ : Nat
  deriving DecidableEq, Repr

/-- One syndrome of the search. -/
def locatorStep (syn : List Nat) (x : Locator) (n : Nat) : Locator :=
  let d := (List.range (x.len + 1)).foldl (fun acc i => acc ^^^ gfMul (x.c.getD i 0) (syn.getD (n - i) 0)) 0
  if d = 0 then { x with gap := x.gap + 1 }
  else
    let k := gfMul d (gfInv x.last_)
    let c := gfAdd x.c (List.replicate x.gap 0 ++ x.b.map (gfMul k))
    if 2 * x.len ≤ n then { c := c, b := x.c, len := n + 1 - x.len, gap := 1, last_ := d } else { x with c := c, gap := x.gap + 1 }

def locatorOf (syn : List Nat) : Locator := (List.range 10).foldl (locatorStep syn) { c := [1], b := [1], len := 0, gap := 1, last_ := 1 }

/-- The error value at a root of the locator. -/
def errorValue (loc omega : List Nat) (x xinv : Nat) : Nat :=
  let slope := gfEval (((List.range loc.length).drop 1).map (fun i => if i % 2 = 1 then loc.getD i 0 else 0)) xinv
  gfMul x (gfMul (gfEval omega xinv) (gfInv slope))

/-- A received word corrected, with the symbols that were in error: up to five; none where it is uncorrectable. -/
def rsDecode (w : List Nat) : Option (List Nat × Nat) :=
  let syn := rsSyndromes w
  if syn.all (fun x => x = 0) then some (w, 0)
  else
    let l := locatorOf syn
    let omega := (gfPolyMul syn l.c).take 10
    let fixed := (List.range w.length).map (fun i =>
      let x := gfExp (w.length - 1 - i)
      let xinv := gfInv x
      (w.getD i 0, if gfEval l.c xinv = 0 then errorValue l.c omega x xinv else 0))
    let out := fixed.map (fun e => e.1 ^^^ e.2)
    let n := (fixed.filter (fun e => e.2 ≠ 0)).length
    if l.len ≤ 5 && n = l.len && (rsSyndromes out).all (fun x => x = 0) then some (out, n) else none

/-! ## Groups, lanes and levels (R335 to R337) -/

/-- Cut a list in pieces. -/
def pieces {α : Type} (n : Nat) : Nat → List α → List (List α)
  | 0, _ => []
  | k + 1, l => l.take n :: pieces n k (l.drop n)

/-- The four codewords of a group: codeword j carries stream bits 1,600j to 1,600j + 1,599, ten to a symbol, the earlier bit the less significant. -/
def groupWords (bits : List Bool) : List (List Nat) :=
  (pieces 1600 4 bits).map (fun w => rsEncode ((pieces 10 160 w).map natOfBits))

/-- Symbol q of lane p: of codeword (p + q) mod 4 the next one not yet sent, in the order 8q + p. -/
def laneSymbol (p q : Nat) : Nat × Nat := ((p + q) % 4, 2 * q + p / 4)

/-- The 85 symbols of each of the eight lanes. -/
def spread (words : List (List Nat)) : List (List Nat) :=
  (List.range 8).map (fun p => (List.range 85).map (fun q => (words.getD (laneSymbol p q).1 []).getD (laneSymbol p q).2 0))

/-- The lane and position at which symbol i of codeword j was sent. -/
def laneOf (j i : Nat) : Nat × Nat :=
  let q := i / 2
  ((j + 3 * q) % 4 + 4 * (i % 2), q)

/-- The four words that the lanes' symbols make. -/
def gather4 (lanes : List (List Nat)) : List (List Nat) :=
  (List.range 4).map (fun j => (List.range 170).map (fun i => (lanes.getD (laneOf j i).1 []).getD (laneOf j i).2 0))

/-- A pair of bits, the first the more significant, to a PAM4 level: 00, 01, 11, 10 to 0, 1, 2, 3. -/
def pamLevel (first second : Bool) : Nat := if first then 3 - second.toNat else second.toNat

/-- The pair that a level stands for. -/
def pamBits (level : Nat) : List Bool := [decide (2 ≤ level), level = 1 || level = 2]

/-- The five levels of a symbol, its least significant bits first. -/
def symbolLevels (v : Nat) : List Nat := (List.range 5).map (fun i => pamLevel (v.testBit (2 * i)) (v.testBit (2 * i + 1)))

def levelsSymbol (l : List Nat) : Nat := natOfBits (l.flatMap pamBits)

/-- What the eight lanes send of a group of 6,400 stream bits: 425 levels each. -/
def groupLevels (bits : List Bool) : List (List Nat) := (spread (groupWords bits)).map (fun l => l.flatMap symbolLevels)

/-- The codewords that the levels of a group are received as. -/
def levelsWords (lanes : List (List Nat)) : List (List Nat) := gather4 (lanes.map (fun l => (pieces 5 85 l).map levelsSymbol))

/-- The stream bits of a codeword's data symbols. -/
def wordBits (w : List Nat) : List Bool := (w.take 160).flatMap (bitsOf 10)

/-! ## What a port sends -/

/-- The 24 bytes of a packet's header, 32 in class C0 (R332). -/
def headerBytes (p : Packet) (length : Nat) : List Byte :=
  let n := p.ver.toNat + p.cls.toNat * 2 ^ 2 + p.epoch.toNat * 2 ^ 5 + p.dst.toNat * 2 ^ 8 + p.src.toNat * 2 ^ 28 + p.slice.toNat * 2 ^ 48 +
    p.flow.toNat * 2 ^ 64 + p.seq.toNat * 2 ^ 84 + p.opcode.toNat * 2 ^ 108 + p.crowd.toNat * 2 ^ 116 + p.comb.toNat * 2 ^ 117 +
    p.colour.toNat * 2 ^ 118 + p.grade.toNat * 2 ^ 120 + length * 2 ^ 128 + (if p.cls = 0 then p.key.toNat * 2 ^ 192 else 0)
  (List.range (if p.cls = 0 then 32 else 24)).map (fun i => BitVec.ofNat 8 (n >>> (8 * i)))

/-- The twelve bytes of a box mask (R282). -/
def boxBytes (b : Box) : List Byte :=
  let n := b.stage.toNat + b.reserved.toNat * 2 ^ 3 + b.wmask.toNat * 2 ^ 16 + b.xmask.toNat * 2 ^ 32 + b.ymask.toNat * 2 ^ 48 + b.zmask.toNat * 2 ^ 64 + b.epmask.toNat * 2 ^ 80
  (List.range 12).map (fun i => BitVec.ofNat 8 (n >>> (8 * i)))

/-- Data blocks of a run of bytes; unused bytes of the last are zero (R334). -/
def dataBlocks (bs : List Byte) : List Block :=
  (pieces 8 ((bs.length + 7) / 8) bs).map (fun w => .data (BitVec.ofNat 64 (natOfBits (w.flatMap (fun b => bitsOf 8 b.toNat)))))

/-- A packet: START with its virtual channel, then header and payload (R330, R334). -/
def packetBlocks (vc : Nat) (p : Packet) : List Block :=
  let body := (match p.box with
    | some b => boxBytes b
    | none => []) ++ p.data
  .control 0x1E (BitVec.ofNat 56 vc) :: dataBlocks (headerBytes p body.length ++ body)

/-- The protected blocks of an item of a segment. -/
def itemBlocks (i : SegItem) : List Block :=
  match i with
  | .packet vc p => packetBlocks vc.val p
  | .stomped vc p => packetBlocks vc.val p ++ [.control 0x33 0]
  | .credit vc count => [.control 0x2D (BitVec.ofNat 56 (vc.val + count.toNat * 16))]
  | .host bs void => .control 0x1E 0 :: dataBlocks bs ++ (if void then [.control 0x33 0] else [])

/-- The bytes of a block that are encrypted: all of a data block, bytes 1 to 7 of a control block (R339). -/
def plainBytes (b : Block) : List Byte :=
  let all := (pieces 8 8 (blockPayload b)).map (fun w => BitVec.ofNat 8 (natOfBits w))
  match b with
  | .data _ => all
  | .control _ _ => all.tail

/-- What is authenticated and not encrypted: the sync header and type byte (R339). -/
def clearBytes (b : Block) : List Byte :=
  match b with
  | .data _ => [BitVec.ofNat 8 (natOfBits (blockSync b))]
  | .control t _ => [BitVec.ofNat 8 (natOfBits (blockSync b)), t]

/-- A block with its bytes replaced by those of the cipher. -/
def withBytes (b : Block) (bs : List Byte) : Block :=
  let n := natOfBits (bs.flatMap (fun x => bitsOf 8 x.toNat))
  match b with
  | .data _ => .data (BitVec.ofNat 64 n)
  | .control t _ => .control t (BitVec.ofNat 56 n)

/-- Blocks with their encrypted bytes replaced, in order. -/
def withCipher : List Block → List Byte → List Block
  | [], _ => []
  | b :: bs, c =>
    let n := (plainBytes b).length
    withBytes b (c.take n) :: withCipher bs (c.drop n)

/-- The nonce of a segment: the direction's salt in the high bits, then SSEQ, the most significant byte first (R339; DESIGN CHOICE of the order, log entry 5). -/
def segNonce (salt : List Byte) (sseq : Nat) : List Byte := salt ++ (leBytes 8 sseq).reverse

/-- Encrypt the blocks of a segment under a key and salt: the blocks, and the tag truncated to 96 bits (R339). -/
def sealBlocks (key salt : List Byte) (sseq : Nat) (bs : List Block) : List Block × BitVec 96 :=
  let r := gcmSeal key (segNonce salt sseq) (leBytes 8 sseq ++ bs.flatMap clearBytes) (bs.flatMap plainBytes)
  (withCipher bs r.1, BitVec.ofNat 96 (leNat (r.2.take 12)))

/-- TAGA and TAGB (R340). -/
def closingBlocks (kph : Bool) (sseq n : Nat) (tag : BitVec 96) : List Block :=
  [.control 0x4B (BitVec.ofNat 56 (tag.toNat / 2 ^ 56 + (n - 1) % 256 * 2 ^ 40 + sseq % 128 * 2 ^ 48 + kph.toNat * 2 ^ 55)),
   .control 0x55 (BitVec.ofNat 56 (tag.toNat % 2 ^ 56))]

/-- A segment on the line: its protected blocks, encrypted, and the two that close it. -/
def segmentBlocks (k : LinkKeys) (g : Seg) (bs : List Block) : List Block :=
  let c := sealBlocks k.txKey k.txSalt g.sseq bs
  c.1 ++ closingBlocks g.kph g.sseq bs.length c.2

/-- What a port is given to send, as blocks: a packet of more than one segment begins in those before the one that lists it. Blocks of a later segment that belong to earlier ones come first in the answer. -/
def sentBlocks (l : LinkPort) (port : Nat) : List Emit → List Block × List Block
  | [] => ([], [])
  | .segment p g :: es =>
    let r := sentBlocks l port es
    if p ≠ port then r
    else
      let all := if g.items.isEmpty then r.1 else g.items.flatMap itemBlocks
      let k := all.length - g.blocks
      (all.take k, segmentBlocks (keysOf l g.kph) g (all.drop k) ++ r.2)
  | .linkCtl p type sseq :: es =>
    let r := sentBlocks l port es
    if p ≠ port then r else (r.1, .control type (BitVec.ofNat 56 (sseq % 2 ^ 24)) :: r.2)
  | _ :: es => sentBlocks l port es

/-- IDLE fills what is left of a frame of 3,200 blocks (R330, R335). -/
def fillFrame (bs : List Block) : List Block := bs ++ List.replicate ((3200 - bs.length % 3200) % 3200) (.control 0x00 0)

/-! ## The training stream (R347 to R349, R358) -/

/-- What a port's transmit fibre carries. R347 and R348 have a port in LIGHT send the training stream, and R270 has a MISWIRED one carry time packets; R358 has both dark: the model follows the former (DEDUCED, log entry 110). -/
inductive LineUse where
  | dark | training | coded
  deriving DecidableEq, Repr

def lineUse : PortSt → LineUse
  | .off => .dark
  | .authFailed => .dark
  | .levelFailed => .dark
  | .light => .training
  | .lock => .training
  | .eq => .training
  | .deskew => .training
  | .keying => .coded
  | .ident => .coded
  | .active => .coded
  | .miswired => .coded

/-- TRAIN (R349): the lane, the sender's state, MAXLEVEL 1 and the counter. -/
def trainBlock (st : PortSt) (tcount : BitVec 16) (lane : Nat) : Block :=
  .control 0x99 (BitVec.ofNat 56 (lane % 8 + portCode st * 2 ^ 16 + 2 ^ 24 + tcount.toNat * 2 ^ 32))

/-- Blocks of a lane in training: TRAIN, then 31 IDLE, the counter rising with each TRAIN. -/
def trainBlocks (st : PortSt) (lane : Nat) : Nat → BitVec 16 → List Block
  | 0, _ => []
  | n + 1, tcount => trainBlock st tcount lane :: List.replicate 31 (.control 0x00 0) ++ trainBlocks st lane n (tcount + 1)

/-- Levels of a stream that is not coded into codewords: a pair of bits each. -/
def plainLevels (bits : List Bool) : List Nat := (pieces 2 (bits.length / 2) bits).map (fun w => pamLevel (w.getD 0 false) (w.getD 1 false))

/-- What the eight lanes of a port in training send in `n` periods of 32 blocks, from a counter that is the same on all lanes and each lane's own scrambler. -/
def trainingLight (st : PortSt) (tcount : BitVec 16) (lanes : Nat → BitVec 58) (n : Nat) : List (List Nat) :=
  (List.range 8).map (fun lane => plainLevels (streamOf (lanes lane) (trainBlocks st lane n tcount)).1)

/-- What a receiver reads of a TRAIN block: the counter, MAXLEVEL and the lane. -/
def trainFields : Block → Option (BitVec 16 × BitVec 4 × Nat)
  | .control t f => if t = 0x99 then some (BitVec.ofNat 16 (f.toNat / 2 ^ 32), BitVec.ofNat 4 (f.toNat / 2 ^ 24), f.toNat % 8) else none
  | .data _ => none

/-! ## The light of a port -/

/-- The light of a trained port: for what it is given to send under the keys it holds, from the start of a frame and a state of its scrambler, the levels of every group, lane by lane (R328 to R337). -/
def lightOf (l : LinkPort) (port : Nat) (st : BitVec 58) (es : List Emit) : List (List (List Nat)) :=
  let bits := (streamOf st (fillFrame (sentBlocks l port es).2)).1
  (pieces 6400 (bits.length / 6400) bits).map groupLevels

end Sys2Proof.Machine

namespace Sys2Proof

open Machine

/-! ## What a receiver makes of a segment (R329, R331, R335 to R337, R341) -/

/-- The codewords received, decoded. -/
def SegVerdict.words (v : SegVerdict) : List (Option (List Nat × Nat)) := (v.groups.flatMap levelsWords).map rsDecode

/-- Every codeword that overlaps the segment's blocks decoded. -/
def SegVerdict.codewordsOk (v : SegVerdict) : Bool := v.words.all Option.isSome

/-- Codewords corrected. -/
def SegVerdict.corrected (v : SegVerdict) : Nat := (v.words.filter (fun w => w.any (fun x => 0 < x.2))).length

/-- The blocks of the segment, from its first to the TAGB that closes it, as the decoded stream gives them: block n of a frame begins at bit 66n. -/
def SegVerdict.received (v : SegVerdict) : List (Option Block) :=
  blocksOf v.before v.blocks ((v.words.flatMap (fun w => match w with
    | some x => wordBits x.1
    | none => List.replicate 1600 false)).drop (66 * v.first % 6400))

/-- Every sync header is valid and no type is reserved. -/
def SegVerdict.blocksOk (v : SegVerdict) : Bool :=
  v.received.all (fun b => match b with
    | some (.data _) => true
    | some (.control t _) => blockTypes.contains t
    | none => false)

/-- TAGA and TAGB close the segment, with its key phase, its number and how many protected blocks it has (R340). -/
def SegVerdict.closingOk (v : SegVerdict) (sseq : Nat) (kph : Bool) : Bool :=
  let bs := (v.received.filterMap id).filter (fun b => match b with
    | .data _ => true
    | .control t _ => isProtected b || t = 0x4B || t = 0x55)
  let n := bs.length - 2
  decide (1 ≤ n) && decide (n ≤ 256) && (bs.take n).all isProtected &&
    (match bs.drop n with
    | [.control 0x4B f, .control 0x55 _] => f.toNat / 2 ^ 40 % 256 = n - 1 && f.toNat / 2 ^ 48 % 128 = sseq % 128 && f.getLsbD 55 = kph
    | _ => false)

end Sys2Proof
end

