-- ==== Sys2Proof/Machine/CollRun.lean ====
section
/-! DEFINITION. A collective operation as it runs: the entry's checks, contributions and their order, chunks up and down, retention, windows, acknowledgements, barriers, pair-compares and the decision point (R218 to R245, R315, R496). -/

namespace Sys2Proof.Machine

/-! ## The entry (R226 to R230) -/

def ceilDiv (a b : Nat) : Nat := (a + b - 1) / b

/-- The sum format of an entry. -/
def eSum (e : BitVec 512) : SumFmt := (sumFmtOf (eFmt e)).getD .int32

/-- Bytes of the source and of the destination on a local rank's die (R229). -/
def eSrcLen (g : Group) (e : BitVec 512) : Nat :=
  let p := gNranks g.desc
  let op := eOp e
  if op = opReduceScatter || op = opAlltoall then p * eLength e else if op = opBarrier then 0 else eLength e

def eDstLen (g : Group) (e : BitVec 512) : Nat :=
  let p := gNranks g.desc
  let op := eOp e
  if op = opAllgather || op = opAlltoall then p * eLength e
  else if op = opBarrier then 0
  else if op = opPaircmp then 128
  else eLength e

/-- Check 1 of R230, with R228's word on BARRIER and PAIRCMP. -/
def eCheck1 (e : BitVec 512) : Bool :=
  let op := eOp e
  e.extractLsb' 350 34 = 0 && e.extractLsb' 224 32 = 0 && e.extractLsb' 164 28 = 0 && e.extractLsb' 146 2 = 0 &&
  e.extractLsb' 102 26 = 0 && e.extractLsb' 38 26 = 0 &&
  decide (1 ≤ op) && decide (op ≤ 7) && decide (eChunk e ≤ 6) && ((op ≠ opBarrier && op ≠ opPaircmp) || eChunk e = 0) &&
  (if opAdds op then decide (eFmt e ≤ 5) else eFmt e = 0) &&
  ((opAdds op && decide (eFmt e ≤ 1)) || eAnchor e = 0) &&
  (op = opBarrier || eTime e = 0) && (op = opBroadcast || eRoot e = 0)

/-- SRC is read here: BROADCAST ignores it but at rank ROOT (R229). -/
def usesSrc (s : State) (g : Group) (e : BitVec 512) : Bool := eOp e ≠ opBroadcast || (localRanks s g).contains (eRoot e)

/-- Check 2 of R230. -/
def eCheck2 (s : State) (g : Group) (e : BitVec 512) : Bool :=
  let op := eOp e
  eLength e % 64 = 0 && (if op = opBarrier then eLength e = 0 else eLength e ≠ 0) &&
  (op = opBarrier || ((!usesSrc s g e || decide (eSrc e + eSrcLen g e ≤ 2 ^ 38)) && decide (eDst e + eDstLen g e ≤ 2 ^ 38))) &&
  decide (eRoot e < gNranks g.desc) && (op ≠ opPaircmp || gNranks g.desc % 2 = 0)

/-- Check 3 of R230. -/
def eCheck3 (s : State) (g : Group) (e : BitVec 512) : Bool :=
  let op := eOp e
  let apart := decide (eSrc e + eSrcLen g e ≤ eDst e) || decide (eDst e + eDstLen g e ≤ eSrc e)
  op = opBarrier || !usesSrc s g e || apart || ((op = opAllreduce || op = opBroadcast) && eSrc e = eDst e)

/-- Check 4 of R230. -/
def eCheck4 (s : State) (g : Group) (e : BitVec 512) : Bool :=
  !opAdds (eOp e) || (eSum e).exact || (match findSlice s (gOwner g.desc) with
    | some x => !x.2.exact
    | none => true)

/-- Check 5 of R230. -/
def eCheck5 (s : State) (g : Group) (e : BitVec 512) : Bool :=
  (!eAcen e || (localDies s g).all (fun d => ownsCounter s d (eActr e) (gOwner g.desc))) &&
  (!eCcen e || ownsCounter s (gQdie g.desc) (eCctr e) (gOwner g.desc))

/-- The first check that fails gives the status (R230); a module with every lane fenced refuses what adds (R236). -/
def entryCheck (s : State) (g : Group) (e : BitVec 512) : Option (BitVec 16) :=
  if !eCheck1 e || !eCheck2 s g e || !eCheck3 s g e || !eCheck4 s g e then some stBadParam
  else if opAdds (eOp e) && decide (64 ≤ s.fab.coll.fencedLanes.length) then some stBadParam
  else if !eCheck5 s g e then some stDenied
  else none

/-! ## Chunks of a result (R229, R233) -/

/-- Operations whose chunks go up and down the tree. -/
def isTreeOp (op : Nat) : Bool := op = opAllreduce || op = opReduceScatter || op = opAllgather || op = opBroadcast

/-- Chunks of one block of L bytes. -/
def blockChunks (e : BitVec 512) : Nat := ceilDiv (eLength e) (chunkBytes e)

/-- Chunks of the result of a tree operation; blocks of a REDUCESCATTER are cut apart. -/
def totalChunks (g : Group) (e : BitVec 512) : Nat :=
  let op := eOp e
  if op = opReduceScatter then gNranks g.desc * blockChunks e
  else if op = opAllgather then ceilDiv (gNranks g.desc * eLength e) (chunkBytes e)
  else blockChunks e

/-- Offset in the result, and bytes, of chunk k. -/
def chunkSpan (g : Group) (e : BitVec 512) (k : Nat) : Nat × Nat :=
  let c := chunkBytes e
  let l := eLength e
  if eOp e = opReduceScatter then
    let j := k / blockChunks e
    let i := k % blockChunks e
    (j * l + i * c, min c (l - i * c))
  else
    let all := if eOp e = opAllgather then gNranks g.desc * l else l
    (k * c, min c (all - k * c))

/-- Whether chunk k of a result is written on the die of a local rank. -/
def chunkFor (e : BitVec 512) (r k : Nat) : Bool := eOp e ≠ opReduceScatter || k / blockChunks e = r

/-- Die offset at which a local rank's die receives chunk k. -/
def chunkDst (g : Group) (e : BitVec 512) (r k : Nat) : Nat :=
  let off := (chunkSpan g e k).1
  eDst e + (if eOp e = opReduceScatter then off - r * eLength e else off)

/-! ## Sums (R59, R219) -/

/-- Bytes of an element of a partial sum: BF16 is carried as FP32 until the root rounds it. -/
def wideBytes (f : SumFmt) : Nat := if f = .bf16 then 4 else f.bytes

/-- Elements of a contribution as a partial sum carries them. -/
def widenBytes (f : SumFmt) : Nat → List Byte → List Byte
  | 0, _ => []
  | n + 1, bs => leBytes (wideBytes f) (sumWiden f (leNat (bs.take f.bytes))) ++ widenBytes f n (bs.drop f.bytes)

/-- Two partial sums added element by element. -/
def addBytes (f : SumFmt) : Nat → List Byte → List Byte → List Byte × BitVec 4
  | 0, _, _ => ([], 0)
  | n + 1, a, b =>
    let w := wideBytes f
    let x := sumAdd f (leNat (a.take w)) (leNat (b.take w))
    let r := addBytes f n (a.drop w) (b.drop w)
    (leBytes w x.1 ++ r.1, x.2 ||| r.2)

/-- NAN of a floating-point sum: a NaN or an infinity reached it, and stays in it (R53). -/
def sumNan (f : SumFmt) (x : Nat) : BitVec 4 := if (f = .fp32 || f = .bf16) && !(f32Val (BitVec.ofNat 32 x)).finite then flNAN else 0

/-- The final result of a sum. -/
def finalBytes (f : SumFmt) : Nat → List Byte → List Byte × BitVec 4
  | 0, _ => ([], 0)
  | n + 1, a =>
    let w := leNat (a.take (wideBytes f))
    let x := sumFinal f w
    let r := finalBytes f n (a.drop (wideBytes f))
    (leBytes f.bytes x.1 ++ r.1, x.2 ||| sumNan f w ||| r.2)

/-- Combine two contributions: added for a reduction, laid over each other where each rank has its own bytes. -/
def combine (e : BitVec 512) (a b : List Byte) : List Byte × BitVec 4 :=
  if a.isEmpty then (b, 0)
  else if opAdds (eOp e) then addBytes (eSum e) (a.length / wideBytes (eSum e)) a b
  else (List.zipWith (· ||| ·) a b, 0)

/-- A chunk's bytes in the form a partial result has, from those of the source. -/
def asPartial (e : BitVec 512) (bs : List Byte) : List Byte :=
  if opAdds (eOp e) then widenBytes (eSum e) (bs.length / (eSum e).bytes) bs else bs

/-- The bytes one local rank gives to chunk k: status and bytes (R229, R145). -/
def rankBytes (s : State) (g : Group) (e : BitVec 512) (k r : Nat) : BitVec 16 × List Byte :=
  let sp := chunkSpan g e k
  let d := rankDie g r
  let owner := gOwner g.desc
  let l := eLength e
  if eOp e = opAllgather then
    let lo := max sp.1 (r * l)
    let hi := min (sp.1 + sp.2) ((r + 1) * l)
    if hi ≤ lo then (stOk, List.replicate sp.2 0)
    else
      let v := hbmRead s d (eSrc e + (lo - r * l)) (hi - lo) owner
      (v.1, List.replicate (lo - sp.1) 0 ++ v.2 ++ List.replicate (sp.1 + sp.2 - hi) 0)
  else if eOp e = opBroadcast && r ≠ eRoot e then (stOk, List.replicate sp.2 0)
  else
    let v := hbmRead s d (eSrc e + sp.1) sp.2 owner
    (v.1, asPartial e v.2)

/-- The controller of a stack holds what this module would read for chunk k (R147). -/
def srcHeld (s : State) (g : Group) (e : BitVec 512) (k : Nat) : Bool :=
  (localRanks s g).any (fun r =>
    if eOp e = opAllgather then hbmHeld s (rankDie g r) (eSrc e) (max 1 (eLength e))
    else (eOp e ≠ opBroadcast || r = eRoot e) && hbmHeld s (rankDie g r) (eSrc e + (chunkSpan g e k).1) (max 1 (chunkSpan g e k).2))

/-- It holds what this module would write of chunk k. -/
def dstHeld (s : State) (g : Group) (e : BitVec 512) (k : Nat) : Bool :=
  (localRanks s g).any (fun r => chunkFor e r k && hbmHeld s (rankDie g r) (chunkDst g e r k) (max 1 (chunkSpan g e k).2))

/-- It holds a line or slot of the quire that a retirement writes. -/
def quireHeld (s : State) (g : Group) (index : Nat) : Bool :=
  hbmHeld s (gQdie g.desc) (quireSlot g index) 64 || hbmHeld s (gQdie g.desc) (gCioff g.desc) 64

/-- The local contribution, in ascending logical rank (R219). -/
def localBytes (s : State) (g : Group) (e : BitVec 512) (k : Nat) : List Nat → List Byte → BitVec 4 → BitVec 16 × List Byte × BitVec 4
  | [], acc, fl => (stOk, acc, fl)
  | r :: rs, acc, fl =>
    let v := rankBytes s g e k r
    if v.1 ≠ stOk then (v.1, acc, fl)
    else
      let x := combine e acc v.2
      localBytes s g e k rs x.1 (fl ||| x.2)

/-! ## The operation in progress -/

def modOp (s : State) (c : Nat) (f : CollOp → CollOp) : State := modGroup s c (fun g => { g with op := g.op.map f })

def getAcc (o : CollOp) (k : Nat) : ChunkAcc := (o.accs.find? (fun a => a.chunk = k)).getD { chunk := k }

def setAcc (o : CollOp) (a : ChunkAcc) : CollOp := { o with accs := o.accs.filter (fun x => x.chunk ≠ a.chunk) ++ [a] }

/-- Add what is held from the children whose turn has come, in their order (R219). -/
def absorb (e : BitVec 512) : List Member → ChunkAcc → ChunkAcc
  | [], a => a
  | m :: ms, a =>
    if a.added.contains m.node then absorb e ms a
    else match a.held.find? (fun h => h.1 = m.node) with
      | none => a
      | some h =>
        let x := combine e a.sum h.2.1
        absorb e ms { a with added := a.added ++ [m.node], held := a.held.filter (fun q => q.1 ≠ m.node), sum := x.1, flags := a.flags ||| h.2.2 ||| x.2 }

def accDone (cs : List Member) (a : ChunkAcc) : Bool := a.own && cs.all (fun m => a.added.contains m.node)

/-- Bytes a module retains for one operation (R234, R235). -/
def opRetained (o : CollOp) : Nat :=
  (((o.accs.filter (fun a => a.sentUp)).map (fun a => a.sum.length)) ++ (o.retained.map (fun r => r.2.length))).foldl (· + ·) 0

/-- Bytes it retains across all operations. -/
def allRetained (s : State) : Nat :=
  (s.fab.groups.map (fun g => match g.2.op with
    | some o => opRetained o
    | none => 0)).foldl (· + ·) 0

/-- Room under both limits of R234 for `n` bytes more; a chunk beyond them waits. -/
def retainRoom (s : State) (o : CollOp) (n : Nat) : Bool := decide (opRetained o + n ≤ 2 * 2 ^ 20) && decide (allRetained s + n ≤ 12 * 2 ^ 20)

/-- An entry of a list keyed by node. -/
def nodeVal {α : Type} (l : List (BitVec 20 × α)) (n : BitVec 20) (d : α) : α :=
  match l.find? (fun e => e.1 = n) with
  | some e => e.2
  | none => d

def nodeSet {α : Type} (l : List (BitVec 20 × α)) (n : BitVec 20) (v : α) : List (BitVec 20 × α) := l.filter (fun e => e.1 ≠ n) ++ [(n, v)]

/-- The window towards a neighbour (R315). -/
def windowOf (o : CollOp) (n : BitVec 20) : Nat := (nodeVal o.cwin n (16, 0)).1

/-- Chunks towards a neighbour that it has not acknowledged. -/
def inFlight (o : CollOp) (n : BitVec 20) : Nat := o.sentN - nodeVal o.acks n 0

/-- The window after a CHUNK_ACK that acknowledges `n` chunks more (R315). -/
def windowStep (o : CollOp) (peer : BitVec 20) (n : Nat) (crowd : Bool) : CollOp :=
  let w := nodeVal o.cwin peer (16, 0)
  let w' := if crowd then (max (w.1 / 2) 1, 0) else if w.1 ≤ w.2 + n then (min (w.1 + 1) 16, w.2 + n - w.1) else (w.1, w.2 + n)
  { o with cwin := nodeSet o.cwin peer w' }

/-- The least number not listed. -/
def leastAbsent (l : List Nat) : Nat := ((List.range (l.length + 1)).find? (fun i => !l.contains i)).getD 0

/-- Chunks accepted from a sender, in a row from 0. -/
def heardCum (o : CollOp) (n : BitVec 20) : Nat := leastAbsent ((o.heard.filter (fun h => h.1 = n)).map (fun h => h.2.1))

def heardHas (o : CollOp) (n : BitVec 20) (k : Nat) : Bool := o.heard.any (fun h => h.1 = n && h.2.1 = k)

/-! ## Faults and refusals (R230, R243) -/

/-- This module refuses the operation: REFUSE goes to the root, which takes its own at once. -/
def refuseOp (s : State) (c : Nat) (status : BitVec 16) : State :=
  let g := getGroup s c
  match g.op with
  | none => s
  | some o =>
    if isRoot s g then rootAbort s c status 0 false
    else if o.refused then s
    else sendColl4 (modOp s c (fun o => { o with refused := true })) (rootOf g) 0xCD (opHdr g o 0) (leBytes 2 status.toNat)

/-- A quire or range access met a fault: VIOLATION freezes the context, and either raises the abort (R243). -/
def collFault (s : State) (c : Nat) (status : BitVec 16) : State :=
  let s := modOp s c (fun o => { o with refused := true })
  if status = stViolation then raiseAbort (freezeGroup s c) c stViolation false else raiseAbort s c stPoisoned false

/-! ## Sending chunks (R233) -/

/-- A chunk cut into packets: prefix, bytes and whether it is the last; the last carries the CRC-32C, then the flags of the chunk. -/
def chunkPackets (h : CollHdr) (bs : List Byte) (flags : BitVec 4) : List (CollHdr × List Byte) :=
  let n := max 1 (ceilDiv bs.length 4096)
  (List.range n).map (fun i =>
    let hi := { h with part := i }
    let part := (bs.drop (4096 * i)).take 4096
    (hi, if i + 1 = n then part ++ leBytes 4 (crc32c ((hdrBytes hi).take 12 ++ bs)).toNat ++ leBytes 1 flags.toNat else part))

/-- Send a chunk to one module. -/
def sendChunk (s : State) (dst : BitVec 20) (opcode : BitVec 8) (h : CollHdr) (bs : List Byte) (flags : BitVec 4) : State :=
  emitAll s ((chunkPackets h bs flags).map (fun p => .coll dst opcode p.1 p.2 false))

/-- Multicast a result chunk to the member modules. -/
def castChunk (s : State) (g : Group) (h : CollHdr) (bs : List Byte) : State :=
  if g.members.length ≤ 1 then s
  else emitAll s ((chunkPackets h bs 0).map (fun p => .multicast (groupBox g) 0xC1 p.1 p.2))

/-- Send CHUNK_ACK, with CROWD if a packet of that neighbour carried it (R315). -/
def sendAck (s : State) (c : Nat) (dst : BitVec 20) (h : CollHdr) (cum : Nat) : State :=
  match (getGroup s c).op with
  | none => s
  | some o =>
    let s := modOp s c (fun o => { o with crowdFrom := o.crowdFrom.filter (fun n => n ≠ dst) })
    emit s (.coll dst 0xC2 h (leBytes 4 cum) (o.crowdFrom.contains dst))

/-- Ask a sender for a chunk again, or raise the abort once three re-requests have failed (R234, R235). -/
def rerequest (s : State) (c : Nat) (dst : BitVec 20) (k : Nat) (cause : BitVec 16) : State :=
  let g := getGroup s c
  match g.op with
  | none => s
  | some o =>
    let n := (o.rereqs.filter (fun r => r.1 = dst && r.2.1 = k)).foldl (fun a r => a + r.2.2) 0
    if 3 ≤ n then raiseAbort (modOp s c (fun o => { o with refused := true })) c cause false
    else
      let s := modOp s c (fun o => { o with rereqs := o.rereqs.filter (fun r => !(r.1 = dst && r.2.1 = k)) ++ [(dst, k, n + 1)] })
      let s := bumpColl (modColl s (fun e => { e with rereq := satUp e.rereq 1 0xFFFF })) c 4 1
      sendColl s dst 0xC3 (opHdr g o 0) (leBytes 4 k)

/-! ## Counting (R200, R229, R235, R516) -/

/-- A COLL unit of a die that taps a group. -/
def wmColl (d : Nat) (gid owner : BitVec 16) (unit : Nat) (w : Watermark) : Option WatermarkCfg :=
  match w.cfg with
  | some k => if w.st = 1 && w.owner = owner && unit / 64 = d && k.tap = 2 && k.gid = gid.toNat then some k else none
  | none => none

/-- Elements of a chunk in the statistics. -/
def wmStats (k : WatermarkCfg) : Nat → WmAcc → List Byte → WmAcc
  | 0, a, _ => a
  | n + 1, a, bs => if wmWidth k.elem = 0 then a else wmStats k n (wmStat k a (bs.take (wmWidth k.elem))) (bs.drop (wmWidth k.elem))

/-- A chunk counted on a die enters the steps that tap its group. -/
def wmTapChunk (s : State) (d : Nat) (gid owner : BitVec 16) (ix : Nat) (bs : List Byte) : State :=
  { s with ctl := { s.ctl with watermarks := Tab.mapVals s.ctl.watermarks (fun u w =>
      match wmColl d gid owner u w with
      | none => w
      | some k => { w with acc := wmStats k (bs.length / max 1 (wmWidth k.elem)) (wmDigest w.acc w.step ix bs) bs }) } }

/-- Count one chunk on one die: its bytes are those now in DST. -/
def countOn (s : State) (c : Nat) (d ix off len : Nat) : State :=
  let g := getGroup s c
  match g.op with
  | none => s
  | some o =>
    let s := wmTapChunk s d g.gid (gOwner g.desc) ix (memRead s.mem.bytes (memKey d off) len)
    let s := bumpColl s c 3 1
    if eAcen o.entry then counterAddTo s d (eActr o.entry) 1 else s

/-- Count the chunks of a tree operation from `lo` up to `hi` on every local rank's die. -/
def countRange (s : State) (c lo hi : Nat) : State :=
  let g := getGroup s c
  match g.op with
  | none => s
  | some o =>
    let e := o.entry
    ((List.range (hi - lo)).map (fun i => lo + i)).foldl (fun s k =>
      (localRanks s g).foldl (fun s r =>
        if chunkFor e r k then countOn s c (rankDie g r) k (chunkDst g e r k) (chunkSpan g e k).2 else s) s) s

/-- Write chunk k of a result into DST of every local rank that receives it: the status, and the state. -/
def writeChunk (s : State) (g : Group) (e : BitVec 512) (k : Nat) (bs : List Byte) : List Nat → BitVec 16 × State
  | [] => (stOk, s)
  | r :: rs =>
    if !chunkFor e r k then writeChunk s g e k bs rs
    else
      let w := hbmWrite s (rankDie g r) (chunkDst g e r k) bs (gOwner g.desc)
      if w.1 ≠ stOk then w
      else writeChunk w.2 g e k bs rs

/-! ## The decision point (R242) -/

/-- DONE's payload. -/
def doneBytes (code : BitVec 16) (flags : BitVec 4) (t : Nat) : List Byte := leBytes 2 code.toNat ++ leBytes 1 flags.toNat ++ leBytes 8 t

/-- The root decides: DONE goes to every member, and its own entry retires. -/
def decide_ (s : State) (c : Nat) (code : BitVec 16) (flags : BitVec 4) : State :=
  let g := getGroup s c
  match g.op with
  | none => s
  | some o =>
    let s := modOp s c (fun o => { o with decided := true })
    retireEntry (multicast4 (dropSeen s g o.opseq) g 0xCC (opHdr g o 0) (doneBytes code flags 0)) c code 0 flags false

/-- What this module's subtree has counted in all. -/
def subtreeCum (s : State) (g : Group) (own : Nat) (o : CollOp) : Nat :=
  (childrenOf s g).foldl (fun m x => min m (nodeVal o.acks x.node 0)) own

/-- An ALLTOALL is complete at this module: every block of every local rank is counted. -/
def a2aDone (s : State) (g : Group) (o : CollOp) : Bool :=
  decide ((localRanks s g).length * gNranks g.desc * blockChunks o.entry ≤ o.counted.length)

/-- What the root must see acknowledged: every chunk of the result; of an ALLTOALL, of all its blocks. -/
def finalCum (g : Group) (o : CollOp) : Nat :=
  if eOp o.entry = opAlltoall then gNranks g.desc * gNranks g.desc * blockChunks o.entry else totalChunks g o.entry

/-- The count a module reports: chunks in a row from 0; of an ALLTOALL, all of them once it is complete here. -/
def ownCum (s : State) (g : Group) (o : CollOp) : Nat :=
  if eOp o.entry = opAlltoall then (if a2aDone s g o then finalCum g o else 0) else leastAbsent o.counted

/-- The count for the subtree may have advanced: the parent hears of it; at the root retained chunks are released, the last of them being the decision point (R235, R242). -/
def afterCount (s : State) (c : Nat) : State :=
  let g := getGroup s c
  match g.op with
  | none => s
  | some o =>
    let cum := subtreeCum s g (ownCum s g o) o
    if isRoot s g then
      let s := if eOp o.entry = opAlltoall then s else modOp s c (fun o => { o with retained := o.retained.filter (fun r => cum ≤ r.1) })
      if finalCum g o ≤ cum && !o.decided && !quireHeld s g o.index then decide_ s c (if o.flags.getLsbD 2 then stOverflow else stOk) o.flags else s
    else if o.ackSent < cum then
      sendAck (modOp s c (fun o => { o with ackSent := cum })) c (parentOf s g) (opHdr g o 0) cum
    else s

/-- A result chunk that has passed its check is written, counted in its turn, and acknowledged. -/
def takeChunk (s : State) (c k : Nat) (bs : List Byte) : State :=
  let g := getGroup s c
  match g.op with
  | none => s
  | some o =>
    if o.counted.contains k then s
    else
      let w := writeChunk s g o.entry k bs (localRanks s g)
      if w.1 ≠ stOk then collFault w.2 c w.1
      else
        let old := leastAbsent o.counted
        let new := leastAbsent (o.counted ++ [k])
        afterCount (countRange (modOp w.2 c (fun o => { o with counted := o.counted ++ [k] })) c old new) c

/-! ## Moving chunks up and down (R234, R235) -/

/-- Additions have passed their lanes' checks: each lane's next one has its three tries again (R236). -/
def lanesGood (s : State) (e : BitVec 512) : State := if opAdds (eOp e) then modColl s (fun x => { x with laneFails := [] }) else s

/-- Read the local contribution of the next chunk. -/
def formChunk (s : State) (c : Nat) : State :=
  let g := getGroup s c
  match g.op with
  | none => s
  | some o =>
    let k := o.formed
    let v := localBytes s g o.entry k (localRanks s g) [] 0
    if v.1 ≠ stOk then collFault s c v.1
    else
      let a := getAcc o k
      let a := absorb o.entry (childrenOf s g) { a with own := true, sum := v.2.1, flags := v.2.2 }
      bumpColl (modOp (lanesGood s o.entry) c (fun o => { setAcc o a with formed := k + 1 })) c 2 ((localRanks s g).length * (chunkSpan g o.entry k).2)

/-- Send the next whole partial chunk to the parent, or at the root its result to every member. -/
def sendNext (s : State) (c : Nat) : State :=
  let g := getGroup s c
  match g.op with
  | none => s
  | some o =>
    let k := o.sentN
    let a := getAcc o k
    let now := s.tb.time
    if isRoot s g then
      let r := if opAdds (eOp o.entry) then finalBytes (eSum o.entry) (a.sum.length / wideBytes (eSum o.entry)) a.sum else (a.sum, 0)
      let s := castChunk (dropSeen s g o.opseq) g (opHdr g o k) r.1
      let s := modOp s c (fun o => { o with
        sentN := k + 1, sentAt := now, flags := o.flags ||| a.flags ||| r.2, accs := o.accs.filter (fun x => x.chunk ≠ k)
        retained := o.retained ++ [(k, r.1)] })
      takeChunk s c k r.1
    else
      let s := sendChunk s (parentOf s g) 0xC0 (opHdr g o k) a.sum a.flags
      modOp s c (fun o => { setAcc o { a with sentUp := true } with sentN := k + 1, sentAt := now })

/-- The next chunk may be sent: it is whole, and the window and the retention limits have room. -/
def mayForward (s : State) (g : Group) (o : CollOp) : Bool :=
  let a := getAcc o o.sentN
  let cs := childrenOf s g
  decide (o.sentN < totalChunks g o.entry) && accDone cs a && !(isRoot s g && dstHeld s g o.entry o.sentN) && retainRoom s o a.sum.length &&
  (if isRoot s g then cs.all (fun m => decide (inFlight o m.node < windowOf o m.node))
   else decide (inFlight o (parentOf s g) < windowOf o (parentOf s g)))

/-- The next chunk's local contribution may be read: a window's worth ahead of what has been sent. -/
def mayForm (s : State) (g : Group) (o : CollOp) : Bool :=
  decide (o.formed < totalChunks g o.entry) && decide (o.formed < o.sentN + 16) && !srcHeld s g o.entry o.formed

/-- A tree operation goes on as far as it can. -/
def pumpTree (c : Nat) : Nat → State → State
  | 0, s => s
  | n + 1, s =>
    let g := getGroup s c
    match g.op with
    | none => s
    | some o =>
      if !o.begun || o.refused || g.st ≠ .ready then s
      else if mayForward s g o then pumpTree c n (sendNext s c)
      else if mayForm s g o then pumpTree c n (formChunk s c)
      else s

/-! ## ALLTOALL (R229, R242) -/

/-- Source rank, destination rank and chunk of block of an index. -/
def a2aIx (g : Group) (e : BitVec 512) (ix : Nat) : Nat × Nat × Nat :=
  let nc := max 1 (blockChunks e)
  let p := max 1 (gNranks g.desc)
  (ix / nc / p, ix / nc % p, ix % nc)

def a2aNum (g : Group) (e : BitVec 512) (i j c : Nat) : Nat := (i * gNranks g.desc + j) * blockChunks e + c

/-- Chunks of blocks from every rank to rank j that are counted in a row. -/
def a2aCum (g : Group) (e : BitVec 512) (j : Nat) (counted : List Nat) : Nat :=
  leastAbsent ((counted.filter (fun x => (a2aIx g e x).2.1 = j)).map (fun x =>
    let t := a2aIx g e x
    t.1 * blockChunks e + t.2.2))

/-- The ranks of a member module. -/
def ranksOf (g : Group) (n : BitVec 20) : List Nat :=
  match memberOf g n with
  | some m => m.ranks
  | none => []

/-- Chunks of the blocks that go from one member module to another, in the order they are sent. -/
def a2aBetween (g : Group) (e : BitVec 512) (a b : BitVec 20) : List Nat :=
  (ranksOf g a).flatMap (fun i => (ranksOf g b).flatMap (fun j => (List.range (blockChunks e)).map (a2aNum g e i j)))

/-- Acknowledge a sender's blocks: how many are written here in a row (R242; log entry 102). -/
def ackBlocks (s : State) (c : Nat) (n : BitVec 20) : State :=
  let g := getGroup s c
  match g.op with
  | none => s
  | some o => sendAck s c n (opHdr g o 0) ((a2aBetween g o.entry n (fdNode s)).takeWhile (fun x => o.counted.contains x)).length

/-- The controller of a stack holds the bytes of a block chunk, in DST or in SRC (R147). -/
def blockHeld (s : State) (g : Group) (e : BitVec 512) (ix : Nat) (dst : Bool) : Bool :=
  let t := a2aIx g e ix
  let n := max 1 (min (chunkBytes e) (eLength e - t.2.2 * chunkBytes e))
  if dst then (localRanks s g).contains t.2.1 && hbmHeld s (rankDie g t.2.1) (eDst e + t.1 * eLength e + t.2.2 * chunkBytes e) n
  else hbmHeld s (rankDie g t.1) (eSrc e + t.2.1 * eLength e + t.2.2 * chunkBytes e) n

/-- A block chunk is written, counted in ascending order of source rank and chunk, and acknowledged to its sender. -/
def writeBlock (s : State) (c ix : Nat) (bs : List Byte) : State :=
  let g := getGroup s c
  match g.op with
  | none => s
  | some o =>
    let e := o.entry
    let t := a2aIx g e ix
    let d := rankDie g t.2.1
    let off := eDst e + t.1 * eLength e + t.2.2 * chunkBytes e
    let w := hbmWrite s d off bs (gOwner g.desc)
    if w.1 ≠ stOk then collFault w.2 c w.1
    else
      let old := a2aCum g e t.2.1 o.counted
      let new := a2aCum g e t.2.1 (o.counted ++ [ix])
      let s := modOp w.2 c (fun o => { o with counted := o.counted ++ [ix] })
      let s := ((List.range (new - old)).map (fun i => old + i)).foldl (fun s m =>
        let i := m / max 1 (blockChunks e)
        let k := m % max 1 (blockChunks e)
        countOn s c d (a2aNum g e i t.2.1 k) (eDst e + i * eLength e + k * chunkBytes e) (min (chunkBytes e) (eLength e - k * chunkBytes e))) s
      let from_ := moduleNode (g.map.getD t.1 0)
      let s := if from_ = fdNode s then s else ackBlocks s c from_
      afterCount s c

/-- Every other member module has sent a block: each has passed its checks, and none refuses the operation (R230; log entry 102). -/
def allBegun (s : State) (g : Group) (o : CollOp) : Bool := g.members.all (fun m => m.node = fdNode s || o.heard.any (fun h => h.1 = m.node))

/-- Write the blocks that were held. -/
def writeHeld (c : Nat) : Nat → State → State
  | 0, s => s
  | n + 1, s =>
    match (getGroup s c).op with
    | none => s
    | some o =>
      match o.blocks with
      | [] => s
      | b :: bs => if blockHeld s (getGroup s c) o.entry b.1 true then s else writeHeld c n (writeBlock (modOp s c (fun o => { o with blocks := bs })) c b.1 b.2)

/-- A block chunk reaches the module of its rank: DST stays unchanged until no member can refuse (R230). One that is written is acknowledged again. -/
def takeBlock (s : State) (c ix : Nat) (bs : List Byte) : State :=
  let g := getGroup s c
  match g.op with
  | none => s
  | some o =>
    let t := a2aIx g o.entry ix
    let from_ := moduleNode (g.map.getD t.1 0)
    if !(localRanks s g).contains t.2.1 then s
    else if o.counted.contains ix then (if from_ = fdNode s then s else ackBlocks s c from_)
    else
      let s := modOp s c (fun o => if o.blocks.any (fun b => b.1 = ix) then o else { o with blocks := o.blocks ++ [(ix, bs)] })
      if allBegun s g o then writeHeld c (o.blocks.length + 1) s else s

/-- The n-th chunk this module has to send in an ALLTOALL: its index. -/
def a2aNth (s : State) (g : Group) (e : BitVec 512) (n : Nat) : Nat :=
  let per := max 1 (gNranks g.desc * blockChunks e)
  a2aNum g e ((localRanks s g).getD (n / per) 0) (n % per / max 1 (blockChunks e)) (n % max 1 (blockChunks e))

/-- Send or copy one block chunk. -/
def sendBlock (s : State) (c : Nat) : State :=
  let g := getGroup s c
  match g.op with
  | none => s
  | some o =>
    let e := o.entry
    let ix := a2aNth s g e o.sentN
    let t := a2aIx g e ix
    let len := min (chunkBytes e) (eLength e - t.2.2 * chunkBytes e)
    let v := hbmRead s (rankDie g t.1) (eSrc e + t.2.1 * eLength e + t.2.2 * chunkBytes e) len (gOwner g.desc)
    if v.1 ≠ stOk then collFault s c v.1
    else
      let now := s.tb.time
      let s := bumpColl (modOp s c (fun o => { o with sentN := o.sentN + 1, sentAt := now })) c 2 len
      let dst := moduleNode (g.map.getD t.2.1 0)
      if dst = fdNode s then takeBlock s c ix v.2
      else modOp (sendChunk s dst 0xC1 (opHdr g o ix) v.2 0) c (fun o => { o with retained := o.retained ++ [(ix, v.2)] })

def pumpBlocks (c : Nat) : Nat → State → State
  | 0, s => s
  | n + 1, s =>
    let g := getGroup s c
    match g.op with
    | none => s
    | some o =>
      if !o.begun || o.refused || g.st ≠ .ready then s
      else if o.sentN < (localRanks s g).length * gNranks g.desc * blockChunks o.entry && retainRoom s o (chunkBytes o.entry) && !blockHeld s g o.entry (a2aNth s g o.entry o.sentN) false then pumpBlocks c n (sendBlock s c)
      else s

/-- The operation in progress goes on as far as it can. -/
def pumpColl (s : State) (c : Nat) : State :=
  let g := getGroup s c
  match g.op with
  | none => s
  | some o =>
    if eOp o.entry = opAlltoall then pumpBlocks c ((localRanks s g).length * gNranks g.desc * blockChunks o.entry + 1) s
    else if isTreeOp (eOp o.entry) then pumpTree c (2 * totalChunks g o.entry + 1) s
    else s

/-- A stack has left HOLD: what waited for it goes on (R147). -/
def resumeColl (s : State) : State :=
  (s.fab.groups.map Prod.fst).foldl (fun s c =>
    match (getGroup s c).op with
    | some o =>
      if o.begun && !o.refused && (eOp o.entry = opAlltoall || isTreeOp (eOp o.entry)) then
        afterCount (pumpColl (if allBegun s (getGroup s c) o then writeHeld c o.blocks.length s else s) c) c
      else s
    | none => s) s

/-! ## Barriers (R238 to R240, R496) -/

/-- The lead of a barrier's release, in units of fabric time (R239). -/
def barLead (g : Group) : Nat := if gRlead g.desc = 0 then (200 + 400 * sendingLevels g) * nsU else gRlead g.desc * nsU

/-- E of R496, exactly. -/
def suspectE (w : List (Bool × Nat)) : Rat := w.foldl (fun a x => a + 1 / (x.2 : Rat)) 0

/-- L of R496. -/
def suspectL (w : List (Bool × Nat)) : Nat := (w.filter (fun x => x.1)).length

/-- The suspect flag after a counted barrier (R496). -/
def suspectNext (old : Bool) (w : List (Bool × Nat)) : Bool :=
  if 16 ≤ suspectL w && decide (4 * suspectE w < (suspectL w : Rat)) then true
  else if decide ((suspectL w : Rat) ≤ 2 * suspectE w) then false
  else old

/-- A barrier enters the window of the last 4,096 (R496); one of a DRILL group only counts a late arrival (R501). -/
def countBarrier (s : State) (g : Group) (late : Bool) : State :=
  if gDrill g.desc then
    { s with fleet := { s.fleet with drillLate := if late then s.fleet.drillLate + 1 else s.fleet.drillLate } }
  else if g.members.length < 4 then s
  else
    let w := s.fleet.window ++ [(late, g.members.length)]
    let w := w.drop (w.length - 4096)
    let new := suspectNext s.fleet.suspect w
    if new = s.fleet.suspect then { s with fleet := { s.fleet with window := w } }
    else
      record { s with fleet := { s.fleet with window := w, suspect := new, suspectAt := s.tb.time } }
        { source := srcKind 0xA 1, event := evSuspect, location := if new then 1 else 0 }

/-- RELEASE names the node of the last arrival: the barrier is counted, as one of this module's where it is its own (R240, R496). -/
def countRelease (s : State) (c : Nat) (node : BitVec 20) : State :=
  let g := getGroup s c
  let mine := isHere s node
  let s := if mine then bumpColl (modGroup s c (fun g => { g with lastBar := satUp g.lastBar 1 0xFFFF })) c 6 1 else s
  countBarrier s g mine

/-- A module learns a barrier's release time, by RELEASE with the node of the last arrival or by DONE without: its comparator is armed, and a release that comes late is counted (R239). -/
def takeRelease (s : State) (c : Nat) (t : Nat) (node : Option (BitVec 20)) : State :=
  let g := getGroup s c
  match g.op with
  | none => s
  | some o =>
    let late := decide (t < s.tb.time)
    let s := if o.t.isSome then s
      else
        let s := modOp s c (fun o => { o with t := some t })
        if late then bumpColl (modColl s (fun e => { e with late := satUp e.late 1 0x3F })) c 5 1 else s
    match node with
    | some n => if o.released then s else countRelease (modOp s c (fun o => { o with released := true })) c n
    | none => s

/-- The root has every arrival of a barrier: RELEASE is its decision point, and DONE carries T (R238, R242). -/
def releaseBarrier (s : State) (c : Nat) : State :=
  let g := getGroup s c
  match g.op with
  | none => s
  | some o =>
    let t := max (s.tb.time + barLead g) (eTime o.entry)
    let s := multicast s g 0xC5 (opHdr g o 0) (leBytes 8 t ++ leBytes 4 o.lastNode.toNat)
    let s := multicast4 (dropSeen s g o.opseq) g 0xCC (opHdr g o 0) (doneBytes stOk 0 t)
    takeRelease (modOp s c (fun o => { o with decided := true, ownArrived := true })) c t (some o.lastNode)

/-! ## Pair-compares (R241) -/

def pairOf (r : Nat) : Nat := if r % 2 = 0 then r + 1 else r - 1

def digestOf (o : CollOp) (r : Nat) : Option (List Byte) := (o.digests.find? (fun d => d.1 = r)).map (fun d => d.2)

/-- Every even local rank has its partner's digest. -/
def pairsReady (s : State) (g : Group) (o : CollOp) : Bool :=
  (localRanks s g).all (fun r => r % 2 = 1 || ((digestOf o r).isSome && (digestOf o (pairOf r)).isSome))

/-- A pair of an even local rank differs. -/
def pairsDiffer (s : State) (g : Group) (o : CollOp) : Bool :=
  (localRanks s g).any (fun r => r % 2 = 0 && digestOf o r ≠ digestOf o (pairOf r))

/-- The digests of the local ranks; each goes to its partner's module, the odd rank's to be compared there, the even rank's to be written (R241; log entry 103). -/
def makeDigests (s : State) (c : Nat) : List Nat → State
  | [] => s
  | r :: rs =>
    let g := getGroup s c
    match g.op with
    | none => s
    | some o =>
      let v := hbmRead s (rankDie g r) (eSrc o.entry) (eLength o.entry) (gOwner g.desc)
      if v.1 ≠ stOk then collFault s c v.1
      else
        let dg := sha384 v.2
        let s := modOp s c (fun o => { o with digests := o.digests ++ [(r, dg)] })
        let dst := moduleNode (g.map.getD (pairOf r) 0)
        let s := if dst ≠ fdNode s then sendColl s dst 0xC6 (opHdr g o 0) dg else s
        makeDigests s c rs

/-- The partner's digest as a member writes it at DONE: its own where every pair agreed; where the even rank's has not come, the bytes are free (log entry 3). -/
def partnerDigest (s : State) (o : CollOp) (r : Nat) (code : BitVec 16) : List Byte :=
  match digestOf o (pairOf r) with
  | some d => d
  | none => if code = stOk then (digestOf o r).getD [] else (List.range 48).map (fun i => Config.freeByte s.freeCtr (64 * r + i))

/-- Every local rank's die receives both digests, and the count (R241); VIOLATION freezes the context, after the decision point (R243, R244). -/
def writePairs (s : State) (c : Nat) (code : BitVec 16) : State :=
  let g := getGroup s c
  match g.op with
  | none => s
  | some o =>
    let f := takeFree s
    (localRanks s g).foldl (fun s' r =>
      let d := rankDie g r
      let bs := padTo 48 ((digestOf o r).getD []) ++ padTo 48 (partnerDigest s o r code) ++ List.replicate 32 0
      let w := hbmWrite s' d (eDst o.entry) bs (gOwner g.desc)
      let s' := if w.1 = stViolation then freezeGroup w.2 c else w.2
      if eAcen o.entry then counterAddTo s' d (eActr o.entry) 1 else s') f.2

/-! ## Arrivals (R238, R241) -/

/-- A subtree whose members have all arrived passes it up; at the root it decides. -/
def tryArrive (s : State) (c : Nat) : State :=
  let g := getGroup s c
  match g.op with
  | none => s
  | some o =>
    let bar := eOp o.entry = opBarrier
    let here := o.begun && !o.refused && g.st = .ready && !o.ownArrived && (bar || pairsReady s g o) &&
      (childrenOf s g).all (fun m => o.arrived.contains m.node)
    if !here then s
    else
      let bad := o.verdictBad || (!bar && pairsDiffer s g o)
      let held := bar && (match o.barHeld with
        | some t => decide (s.tb.time < t)
        | none => false)
      if bar && g.holdArrive.isSome && o.barHeld.isNone then
        modOp (modGroup s c (fun g => { g with holdArrive := none })) c (fun o => { o with barHeld := some (s.tb.time + g.holdArrive.getD 0) })
      else if held then s
      else
      let s := if o.barHeld.isSome then endDrill s (srcKind 0xA 1) else s
      if isRoot s g then
        if bar then releaseBarrier s c
        else decide_ (writePairs s c (if bad then stCheckFailed else stOk)) c (if bad then stCheckFailed else stOk) 0
      else
        sendColl (modOp s c (fun o => { o with ownArrived := true })) (parentOf s g) 0xC4 (opHdr g o 0)
          (leBytes 4 o.lastNode.toNat ++ leBytes 1 (if bad then 1 else 0))

/-- Contexts whose ARRIVE a drill has held long enough (R500). -/
def heldDue (s : State) : List Nat :=
  (s.fab.groups.filter (fun g => match g.2.op with
    | some o => !o.ownArrived && (match o.barHeld with
      | some t => decide (t ≤ s.tb.time)
      | none => false)
    | none => false)).map Prod.fst

/-! ## The stand-in (R245) -/

/-- Member modules that are not lost. -/
def surviving (s : State) (g : Group) : List Member := g.members.filter (fun m => !s.net.route.lost.contains (nodeCoord m.node))

/-- The surviving member module with the lowest surviving rank. -/
def standIn (s : State) (g : Group) : BitVec 20 := ((sortLead (surviving s g)).head?.map (fun m => m.node)).getD 0

def rootLost (s : State) (g : Group) : Bool := s.net.route.lost.contains (nodeCoord (rootOf g))

/-- The outcome of a retired operation of the epoch. -/
def outcomeOf (g : Group) (opseq : BitVec 32) : Option LastOut := g.outcomes.find? (fun l => l.opseq = opseq)

def LastOut.completed (l : LastOut) : Bool := l.code = stOk || l.code = stOverflow || l.code = stCheckFailed

/-- What this module saw of an operation: 1 for DONE or RELEASE, 2 for ABORT, else 0, with CODE, FLAGS and T. -/
def sawOutcome (g : Group) (opseq : BitVec 32) : Nat × BitVec 16 × BitVec 4 × Nat :=
  match outcomeOf g opseq, g.op with
  | some l, _ => (if l.completed then 1 else 2, l.code, l.flags, l.t)
  | none, some o => (match o.t with
    | some t => if o.opseq = opseq then (1, stOk, 0, t) else (0, 0, 0, 0)
    | none => (0, 0, 0, 0))
  | none, none => (0, 0, 0, 0)

/-- An operation's outcome reaches this module with DONE (R239, R241, R242). -/
def takeDone (s : State) (c : Nat) (code : BitVec 16) (flags : BitVec 4) (t : Nat) : State :=
  match (getGroup s c).op with
  | none => s
  | some o =>
    if eOp o.entry = opBarrier then takeRelease s c t none
    else if eOp o.entry = opPaircmp then retireEntry (writePairs s c code) c code 0 flags false
    else retireEntry s c code 0 flags false

/-- Once every surviving member has answered, the stand-in multicasts the outcome. -/
def standInDecide (s : State) (c : Nat) : State :=
  let g := getGroup s c
  match g.op with
  | none => s
  | some o =>
    let others := (surviving s g).filter (fun m => m.node ≠ fdNode s)
    if !o.querying || !others.all (fun m => o.replies.any (fun r => r.1 = m.node)) then s
    else
      let mine := sawOutcome g o.opseq
      let all := (fdNode s, mine.1, mine.2.1, mine.2.2.1, mine.2.2.2) :: o.replies
      match all.find? (fun r => r.2.1 = 1) with
      | some r =>
        takeDone (multicast4 s g 0xCC (opHdr g o 0) (doneBytes r.2.2.1 r.2.2.2.1 r.2.2.2.2)) c r.2.2.1 r.2.2.2.1 r.2.2.2.2
      | none =>
        let s := multicast4 s g 0xCB (opHdr g o 0) (abortBytes stAborted stPoisoned false)
        retireEntry s c stAborted stPoisoned 0 false

/-- What the stand-in knows of the operation that retired here last goes to every member. -/
def tellLast (s : State) (g : Group) : State :=
  match g.outcomes.head? with
  | some l =>
    let h := collHdr g l.opseq 0 l.paramcrc
    if l.completed then multicast4 s g 0xCC h (doneBytes l.code l.flags l.t) else multicast4 s g 0xCB h (abortBytes l.code l.cause l.drill)
  | none => s

/-- The root is lost: the stand-in tells of the last operation what it knows, and asks every other surviving member of the one in progress (R245). -/
def standInAct (s : State) (c : Nat) : State :=
  let g := getGroup s c
  if !rootLost s g || standIn s g ≠ fdNode s then s
  else match g.op with
    | none => tellLast s g
    | some o =>
      if o.querying then standInDecide s c
      else
        let s := modOp (tellLast s g) c (fun o => { o with querying := true })
        let others := (surviving s g).filter (fun m => m.node ≠ fdNode s)
        standInDecide (others.foldl (fun s m => sendColl4 s m.node 0xCE (opHdr g o 0) []) s) c

/-- A lost module could lie on a path between two modules (R182). -/
def couldCross (a b l : Coord) : Bool := decide (l = a) || decide (l = b) || dims.all (fun d => coordGet l d = coordGet a d || coordGet l d = coordGet b d)

/-- A lost module could lie between two tree neighbours of a group. -/
def cutsTree (g : Group) (l : Coord) : Bool := g.members.any (fun m => m.level < 4 && couldCross (nodeCoord m.node) (nodeCoord m.parent) l)

/-- A node-loss notice reaches the groups (R243, R245). -/
def collNodeLost (s : State) (l : Coord) : State :=
  (s.fab.groups.map Prod.fst).foldl (fun s c =>
    let g := getGroup s c
    if g.st = .undefined then s
    else if rootLost s g then standInAct s c
    else match g.op with
      | some o => if !o.decided && cutsTree g l then raiseAbort (modOp s c (fun o => { o with refused := true })) c stPoisoned false else s
      | none => s) s

end Sys2Proof.Machine
end

