-- ==== Sys2Proof/Machine/SwitchOps.lean ====
section
/-! DEFINITION. The switch core: channels, cells and room, credits, the choice of an output, linking with its marks, random early drop and combining, and multicast replication (R275 to R285, R301 to R324). -/

namespace Sys2Proof.Machine

/-! ## Module counters of the SWITCH set (R504) -/

def bumpSwitch (s : State) (port k n : Nat) : State :=
  { s with net := { s.net with switchCtrs := Tab.upd s.net.switchCtrs (8 * port + k) 0 (fun v => v + BitVec.ofNat 64 n) } }

/-! ## Channels, cells and caps (R301, R303 to R305) -/

/-- Virtual channel of a class: v = 2c + w. -/
def vcOf (cls : Nat) (wale : Bool) : Nat := 2 * cls + (if wale then 1 else 0)

def isWale (vc : Nat) : Bool := vc % 2 = 1

def pktClass (p : Packet) : Nat := p.cls.toNat

/-- Bytes after the header, box mask included (R332). -/
def pktLength (p : Packet) : Nat := (if p.box.isSome then 12 else 0) + p.data.length

/-- Bytes as sent: a header of 24 bytes, 32 in class C0, and what follows it. -/
def pktBytes (p : Packet) : Nat := (if pktClass p = 0 then 32 else 24) + pktLength p

/-- Cells of 128 bytes. -/
def pktCells (p : Packet) : Nat := (pktBytes p + 127) / 128

def isExternal (port : Nat) : Bool := decide (port < 64)

def outCap (port : Nat) : Nat := if isExternal port then 4096 else 2048

/-- The reserve of one wale channel. -/
def waleReserve (port : Nat) : Nat := if isExternal port then 128 else 64

def c3Cap (port : Nat) : Nat := if isExternal port then 2048 else 1024

/-- Cells of the replication pool. -/
def poolCells : Nat := 155456

/-- The allocation of R305 to the sender of an external input. -/
def creditAlloc (vc : Nat) : Nat :=
  match vc with
  | 0 | 2 => 256
  | 1 | 3 => 32
  | 4 | 6 => 768
  | 5 | 7 => 64
  | _ => 32

/-- The allocation of R305 to an endpoint's side of an internal input: 480 cells in all (R303). -/
def innerAlloc (vc : Nat) : Nat :=
  match vc with
  | 0 | 2 => 64
  | 4 | 6 => 128
  | _ => 16

def queueOf (s : State) (port vc : Nat) : List Linked := Tab.getD (getPort s port).queues vc []

/-- A linked packet's cells, its extension's among them. -/
def linkedCells (l : Linked) : Nat := pktCells l.p + (if l.ext then 1 else 0)

def queueCells (s : State) (port vc : Nat) : Nat := ((queueOf s port vc).map linkedCells).sum

def queueBytes (s : State) (port vc : Nat) : Nat := ((queueOf s port vc).map (fun l => pktBytes l.p)).sum

def outCells (s : State) (port : Nat) : Nat := ((List.range 10).map (queueCells s port)).sum

/-- What an output holds or keeps for its channels if one channel takes `n` cells more: a wale channel counts at least its reserve. -/
def outDemand (s : State) (port vc n : Nat) : Nat :=
  ((List.range 10).map (fun v =>
    let c := queueCells s port v + (if v = vc then n else 0)
    if isWale v then max c (waleReserve port) else c)).sum

/-- Room under the cap, the reserves and, for C3, its own limit (R303). -/
def hasRoom (s : State) (port vc n : Nat) : Bool :=
  decide (outDemand s port vc n ≤ outCap port) &&
  (vc / 2 ≠ 3 || decide (queueCells s port 6 + queueCells s port 7 + n ≤ c3Cap port))

/-- Credit of the next module for `n` cells of a channel; an endpoint's port asks for none (R305, R306). -/
def hasCredit (s : State) (port vc n : Nat) : Bool :=
  !isExternal port || decide (Tab.getD (getPort s port).spent vc 0 + n ≤ creditAlloc vc)

/-- Credited cells of an input's channel that packets hold: in staging, at outputs, and in residues (R303, R307, R320). -/
def inputCells (s : State) (port vc : Nat) : Nat :=
  let x := getPort s port
  ((x.staging.flatMap (fun q => q.2)).map (fun a => if a.vc = vc then pktCells a.p else 0)).sum +
  ((s.net.ports.flatMap (fun o => o.2.queues.flatMap (fun q => q.2))).map (fun l => if l.origin = some (port, vc) then pktCells l.p else 0)).sum +
  (x.residue.map (fun r => if r.2.vc = vc then pktCells r.2.p else 0)).sum

/-- The sender at an internal input holds credit for a packet; at an external one the peer keeps that count (R305, R306). -/
def mayEnter (s : State) (port vc : Nat) (p : Packet) : Bool :=
  isExternal port || decide (inputCells s port vc + pktCells p ≤ innerAlloc vc)

/-! ## Credit returns (R306) -/

/-- Protected blocks of the CREDIT blocks due on a port: channel and count. -/
def creditsDue (x : SwPort) : List (Nat × BitVec 16) :=
  (List.range 10).filterMap (fun v =>
    let c := Tab.getD x.returned v 0
    if c = Tab.getD x.creditSent v 0 then none else some (v, c))

/-- A virtual channel number as a segment item carries it. -/
def vcFin (v : Nat) : Fin 10 := ⟨v % 10, Nat.mod_lt _ (by decide)⟩

/-- Send the CREDIT blocks that are due, if the port is in service and its replay buffer has room. -/
def pushCredits (s : State) (port : Nat) : State :=
  let l := getLink s port
  let due := creditsDue (getPort s port)
  if port < 64 && l.st = .active && !due.isEmpty && replayRoom l (8 * (due.length + 2)) then
    let s := modPort s port (fun x => { x with creditSent := x.returned })
    sendSegment s port due.length (due.map (fun d => .credit (vcFin d.1) d.2))
  else s

/-- Return the cells a packet held to the sender of the input and channel it came on. Channel 10 stands for cells that a retraining has granted anew. -/
def returnCells (s : State) (origin : Nat × Nat) (n : Nat) : State :=
  if origin.2 < 10 then
    pushCredits (modPort s origin.1 (fun x => { x with returned := Tab.upd x.returned origin.2 0 (fun c => c + BitVec.ofNat 16 n) })) origin.1
  else s

/-- Free what a linked packet holds: the credited cells of its input, or cells of the replication pool, and its extension. -/
def freeLinked (s : State) (l : Linked) : State :=
  let s := if l.ext then { s with net := { s.net with poolUsed := s.net.poolUsed - 1 } } else s
  match l.origin with
  | some o => returnCells s o (pktCells l.p)
  | none => { s with net := { s.net with poolUsed := s.net.poolUsed - pktCells l.p } }

/-! ## Outputs in service (R271, R289) -/

/-- The peer of an optical engine lies outside the extent, and no live old bank may still lead there (R270, R289, R290). -/
def peerOutside (s : State) (oe : Nat) : Bool :=
  match s.net.route.cur with
  | some b => !inExtent b (oePeer s oe) && !s.net.route.oldLive
  | none => false

/-- The port may take a new packet: ACTIVE, its PORT_EN bit is not 0, its peer is not left out of the extent, and no LINK_DROP drill empties it (R289, R500). -/
def takesNew (s : State) (port : Nat) : Bool :=
  !isExternal port ||
  ((getLink s port).st = .active && !(getLink s port).dropping && !peerOutside s (port / 4) && (match s.net.route.cur with
    | some b => b.portEn.getLsbD port
    | none => true))

/-- The four ports of an optical engine's group that may take a new packet. -/
def groupPorts (s : State) (oe : Nat) : List Nat := ([4 * oe, 4 * oe + 1, 4 * oe + 2, 4 * oe + 3]).filter (takesNew s)

/-- The ports of an endpoint (R275, R301). -/
def epPorts (e : Nat) : List Nat := if e = 4 then [88, 89] else (List.range 6).map (fun i => 64 + 6 * e + i)

/-- The port with the fewest bytes queued in a channel; the first of equals. -/
def leastQueued (s : State) (vc : Nat) : List Nat → Option Nat
  | [] => none
  | p :: ps =>
    match leastQueued s vc ps with
    | none => some p
    | some q => if queueBytes s q vc < queueBytes s p vc then some q else some p

/-! ## Unicast routes (R275 to R279) -/

/-- The bank of a packet's epoch: current, or live; none when it is retired or unknown (R289, R290). -/
def bankFor (s : State) (ep : BitVec 2) : Option Bank :=
  match s.net.route.cur with
  | none => none
  | some c =>
    if c.epoch = ep then some c
    else match s.net.route.old with
      | some o => if s.net.route.oldLive && o.epoch = ep then some o else none
      | none => none

/-- A dimension is an eligible candidate for a destination under a bank (R276), the state of the group apart. -/
def eligible (s : State) (b : Bank) (dst : Coord) (d : Dim) : Bool :=
  let here := hereC s
  let next := coordSet here d (coordGet dst d)
  coordGet here d ≠ coordGet dst d && entryMask (bankEntry b dst) d &&
  (next = dst || (entrySt (bankEntry b next) = .inService && !isLost s next))

/-- Ports in service of every eligible candidate, in the order W, X, Y, Z and then by number. -/
def candidatePorts (s : State) (b : Bank) (dst : Coord) : List Nat :=
  (dims.filter (eligible s b dst)).flatMap (fun d => groupPorts s (oeTowards s d (coordGet dst d)))

/-- The optical engine of the wale hop (R278). -/
def waleOe (s : State) (dst : Coord) : Option Nat := (diffDims (hereC s) dst).head?.map (fun d => oeTowards s d (coordGet dst d))

def walePorts (s : State) (dst : Coord) : List Nat :=
  match waleOe s dst with
  | some k => groupPorts s k
  | none => []

/-- A module outside the extent originates no packet and forwards none (R268). -/
def forwards (s : State) : Bool := !outsideExtent s

/-- The bank a packet's adaptive route may use: known, live and not faulty. -/
def adaptiveBank (s : State) (p : Packet) : Option Bank := (bankFor s p.epoch).filter (fun b => !b.faulty)

/-- What the head of a staging queue meets: an output and channel, a wait for room or credit, or no route at all. -/
inductive Choice where
  | take (port vc : Nat)
  | waitRoom
  | noRoute
  deriving DecidableEq, Repr

/-- The best of a list of ports: fewest bytes in `qvc` among those with room and credit for the packet in `vc`; C3 does not wait for credit (R277, R307). -/
def pickPort (s : State) (ports : List Nat) (qvc vc n : Nat) : Choice :=
  match leastQueued s qvc (ports.filter (fun p => hasRoom s p vc n && hasCredit s p vc n)) with
  | some p => .take p vc
  | none =>
    if ports.isEmpty then .noRoute
    else if vc / 2 = 3 then
      match leastQueued s qvc (ports.filter (fun p => hasRoom s p vc n)) with
      | some p => .take p vc
      | none => match leastQueued s qvc ports with
        | some p => .take p vc
        | none => .noRoute
    else .waitRoom

/-- The best port of the wale hop, which asks for room alone (R278). -/
def pickWale (s : State) (ports : List Nat) (vc n : Nat) : Choice :=
  match leastQueued s vc ports with
  | none => .noRoute
  | some p => if hasRoom s p vc n || vc / 2 = 3 then .take p vc else .waitRoom

/-- The output of a unicast packet at the head of a staging queue (R275 to R279). -/
def routeOf (s : State) (a : Arrived) (wale : Bool) : Choice :=
  let p := a.p
  let c := pktClass p
  let n := pktCells p
  if isHere s p.dst then pickPort s (epPorts (nodeEp p.dst)) (vcOf c false) (vcOf c wale) n
  else if !forwards s then .noRoute
  else
    let dst := nodeCoord p.dst
    if wale then pickWale s (walePorts s dst) (vcOf c true) n
    else match adaptiveBank s p with
      | some b => pickPort s (candidatePorts s b dst) (vcOf c false) (vcOf c false) n
      | none => .noRoute

/-- The packet's bank is retired, unknown or faulty, and its wale hop has a port in service: it enters the wale channel at once (R279, R290). -/
def mustWale (s : State) (p : Packet) : Bool :=
  !isHere s p.dst && forwards s && (adaptiveBank s p).isNone && !(walePorts s (nodeCoord p.dst)).isEmpty

/-! ## Linking (R303, R307, R312, R319, R322, R323, R327) -/

def crowdKbOf (s : State) (port : Nat) : Nat := (getPort s port).crowdKb.getD (if isExternal port then 0x20 else 0x10)

/-- The output marks the packet: its class's linked cells have reached the threshold, or it waited for room (R312). -/
def marks (s : State) (port cls : Nat) (waited : Bool) : Bool :=
  decide (cls < 3) && (waited || decide (crowdKbOf s port * 1024 ≤ (queueCells s port (2 * cls) + queueCells s port (2 * cls + 1)) * 128))

/-- Put a packet at the end of an output queue. -/
def appendOut (s : State) (port vc : Nat) (l : Linked) (waited : Bool) : State :=
  let m := marks s port (vc / 2) waited
  let l := if m then { l with p := { l.p with crowd := true } } else l
  let s := if m && isExternal port then bumpPort s port 3 1 else s
  let s := modPort s port (fun x => { x with
    queues := Tab.upd x.queues vc [] (fun q => q ++ [l])
    crowdMarks := if m then satUp x.crowdMarks 1 0xFFFF else x.crowdMarks })
  let occ := outCells s port / 32
  modPort s port (fun x => { x with peak := max x.peak (min occ 128) })

/-- Constituents of a combinable packet: source, flow and sequence (R323). -/
def pktParts (p : Packet) : List (BitVec 20 × BitVec 20 × BitVec 24) := if p.parts = [] then [(p.src, p.flow, p.seq)] else p.parts

/-- Formats that may combine: every sum format but FP32 and BF16 (R322). -/
def combinable (op : BitVec 8) : Option SumFmt :=
  if op.toNat / 16 = 4 || op.toNat / 16 = 5 then
    (sumFmtOf (op.toNat % 16)).filter (fun f => f ≠ .fp32 && f ≠ .bf16)
  else none

/-- B combines into A (R322). -/
def combines (a : Linked) (b : Packet) : Bool :=
  let p := a.p
  p.comb && b.comb && p.opcode = b.opcode && (combinable b.opcode).isSome &&
  p.dst = b.dst && p.epoch = b.epoch && p.slice = b.slice && p.key = b.key &&
  (if b.opcode.toNat / 16 = 5 then p.addr.toNat / 64 = b.addr.toNat / 64 else p.addr = b.addr) &&
  decide ((pktParts p).length + (pktParts b).length < 16)

/-- A with B added into it (R323). -/
def combined (a : Linked) (b : Packet) : Linked :=
  match combinable b.opcode with
  | none => a
  | some f =>
    let x := redsElems f (a.p.data.length / f.bytes) a.p.data b.data
    { a with
      ext := true
      p := { a.p with
        data := x.1
        flags := a.p.flags ||| b.flags ||| x.2
        parts := pktParts a.p ++ pktParts b
        crowd := a.p.crowd || b.crowd } }

/-- Replace the first match among the last 64 packets of a queue. -/
def combineIn (pool : Bool) (b : Packet) : List Linked → Option (List Linked × Bool)
  | [] => none
  | a :: as =>
    if combines a b && (a.ext || pool) then some (combined a b :: as, !a.ext)
    else (combineIn pool b as).map (fun r => (a :: r.1, r.2))

/-- Absorb a packet into one already linked at the output, if one matches. -/
def tryCombine (s : State) (port vc : Nat) (a : Arrived) (input : Nat) : Option State :=
  if !a.p.comb then none
  else
    let q := queueOf s port vc
    let k := q.length - 64
    match combineIn (decide (s.net.poolUsed < poolCells)) a.p (q.drop k) with
    | none => none
    | some r =>
      let s := modPort s port (fun x => { x with queues := Tab.set x.queues vc (q.take k ++ r.1), combines := satUp x.combines 1 0xFFFF })
      let s := bumpSwitch s port 6 1
      let s := if r.2 then { s with net := { s.net with poolUsed := s.net.poolUsed + 1 } } else s
      some (returnCells s (input, a.vc) (pktCells a.p))

/-- Count a packet that carries the old epoch (R290). -/
def countOld (s : State) (p : Packet) : State :=
  match s.net.route.old with
  | some o =>
    if s.net.route.oldLive && o.epoch = p.epoch then modRoute s (fun r => { r with oldPkts := satUp r.oldPkts 1 0xFFFF, lastOld := s.tb.time }) else s
  | none => s

/-- Thresholds of a colour in a profile, in bytes, with its probability code (R318). -/
def redBounds (d : DropProfile) (colour : BitVec 2) : Nat × Nat × Nat :=
  if colour = 2 then (d.rMin * 2048, d.rMax * 2048, d.rMaxp)
  else if colour = 1 then (d.yMin * 2048, d.yMax * 2048, d.yMaxp)
  else (d.gMin * 2048, d.gMax * 2048, d.gMaxp)

/-- The judgement of R319 on an arriving C3 packet: drop or link, and the state after it. -/
def redDrops (s : State) (port vc : Nat) (p : Packet) : Bool × State :=
  let prof := Tab.getD (getPort s port).profiles p.grade.toNat {}
  let q := queueBytes s port 6 + queueBytes s port 7
  let avg := (getPort s port).avg + ((q : Rat) - (getPort s port).avg) / (2 ^ prof.wexp : Nat)
  let s := modPort s port (fun x => { x with avg := avg })
  let b := redBounds prof p.colour
  let f := takeFree s
  let rnd : Rat := ((f.1.setWidth 16).toNat : Nat)
  if p.colour = 3 then (true, s)
  else if c3Cap port * 128 < q + pktBytes p || !hasRoom s port vc (pktCells p) then (true, s)
  else if avg < (b.1 : Rat) then (false, s)
  else if (b.2.1 : Rat) ≤ avg then (true, s)
  else (decide (rnd < 65536 * ((b.2.2 : Rat) + 1) / 16 * (avg - b.1) / ((b.2.1 : Rat) - b.1)), f.2)

/-- Link a unicast packet to an output: drop it, combine it, or queue it. -/
def linkTo (s : State) (port vc : Nat) (a : Arrived) (input : Nat) : State :=
  let s := countOld s a.p
  if vc / 2 = 3 then
    let r := redDrops s port vc a.p
    if r.1 then returnCells (modPort (if isExternal port then bumpPort r.2 port 2 1 else r.2) port (fun x => { x with c3Drops := satUp x.c3Drops 1 0xFFFF })) (input, a.vc) (pktCells a.p)
    else appendOut r.2 port vc { p := a.p, origin := some (input, a.vc) } a.waited
  else match tryCombine s port vc a input with
    | some t => t
    | none => appendOut s port vc { p := a.p, origin := some (input, a.vc) } a.waited

/-! ## Multicast (R282 to R285, R320) -/

/-- The dimension a STAGE names. -/
def stageDim (stage : Nat) : Option Dim := dims[stage]?

def boxMask (b : Box) : Dim → BitVec 16
  | .w => b.wmask
  | .x => b.xmask
  | .y => b.ymask
  | .z => b.zmask

/-- The extent a box is held against. -/
def extentOf (s : State) (d : Dim) : Nat :=
  match s.net.route.cur with
  | some b => b.extent d
  | none => 0

/-- A box that R283 refuses. -/
def boxBad (s : State) (p : Packet) : Bool :=
  match p.box with
  | none => true
  | some b =>
    (pktClass p ≠ 2 && pktClass p ≠ 4) || b.epmask = 0 || dims.any (fun d => boxMask b d = 0 || decide (2 ^ extentOf s d ≤ (boxMask b d).toNat)) ||
    decide (2 ^ 5 ≤ b.epmask.toNat) || b.reserved ≠ 0 || decide (4 < b.stage.toNat)

/-- Coordinates a mask names, ascending. -/
def maskCoords (m : BitVec 16) : List Nat := (List.range 16).filter (fun c => m.getLsbD c)

/-- One thing replication asks for: a copy to a peer by an optical engine with the STAGE it carries, or a delivery to an endpoint. -/
inductive Hop where
  | peer (oe stage : Nat)
  | deliver (e : Nat)
  deriving DecidableEq, Repr

/-- The loop of R284 from a stage. -/
def hops (s : State) (b : Box) : Nat → Nat → List Hop
  | 0, _ => []
  | fuel + 1, stage =>
    match stageDim stage with
    | none => (maskCoords b.epmask).map .deliver
    | some d =>
      let c := coordGet (hereC s) d
      let out := ((maskCoords (boxMask b d)).filter (fun p => p ≠ c)).map (fun p => Hop.peer (oeTowards s d p) (stage + 1))
      if (boxMask b d).getLsbD c then out ++ hops s b fuel (stage + 1) else out

/-- The output of a hop, with the STAGE its copy carries; none where the hop's group has no port in service. -/
def hopOut (s : State) (vc : Nat) : Hop → Option (Nat × BitVec 3)
  | .peer oe stage => (leastQueued s vc (groupPorts s oe)).map (fun p => (p, BitVec.ofNat 3 stage))
  | .deliver e => (leastQueued s (vc - vc % 2) (epPorts e)).map (fun p => (p, 4))

/-- A copy with the STAGE it carries. -/
def copyOf (p : Packet) (stage : BitVec 3) : Packet := { p with box := p.box.map (fun b => { b with stage := stage }) }

/-- Write one copy into an output if it has room and the pool has cells. -/
def writeCopy (s : State) (p : Packet) (vc : Nat) (o : Nat × BitVec 3) : Option State :=
  let c := copyOf p o.2
  let n := pktCells c
  if hasRoom s o.1 vc n && decide (s.net.poolUsed + n ≤ poolCells) then
    let s := bumpSwitch s o.1 7 1
    some (appendOut { s with net := { s.net with poolUsed := s.net.poolUsed + n } } o.1 vc { p := c, origin := none } false)
  else none

/-- Write every copy that can be; what is left is the residue. -/
def writeCopies (s : State) (p : Packet) (vc : Nat) : List (Nat × BitVec 3) → State × List (Nat × BitVec 3)
  | [] => (s, [])
  | o :: os =>
    match writeCopy s p vc o with
    | some t => writeCopies t p vc os
    | none => let r := writeCopies s p vc os; (r.1, o :: r.2)

def countMcast (s : State) (n : Nat) : State := modRoute s (fun r => { r with mcastDrops := satUp r.mcastDrops n 0xFF })

/-- A free residue slot of an input, of its four. -/
def freeResidue (s : State) (input : Nat) : Option Nat :=
  ([0, 1, 2, 3]).find? (fun k => (Tab.find (getPort s input).residue k).isNone)

/-- Replicate a multicast packet (R284, R285, R320); none where no residue slot is free for what could not be written. -/
def replicate (s : State) (a : Arrived) (input : Nat) : Option State :=
  match a.p.box with
  | none => some s
  | some b =>
    let vc := vcOf (pktClass a.p) true
    let hs := hops s b 5 b.stage.toNat
    let outs := hs.filterMap (hopOut s vc)
    let s := countMcast (countOld s a.p) (hs.length - outs.length)
    let r := writeCopies s a.p vc outs
    if r.2.isEmpty then some (returnCells r.1 (input, a.vc) (pktCells a.p))
    else match freeResidue s input with
      | some k => some (modPort r.1 input (fun x => { x with residue := Tab.set x.residue k { p := a.p, vc := a.vc, outs := r.2 } }))
      | none => none

end Sys2Proof.Machine
end

