-- ==== Sys2Proof/Machine/Switch.lean ====
section
/-! DEFINITION. The commands of the switch core: arrival, linking, residues, the wale escape, discards, sending, credits, cell errors, and the writes of its registers (R279 to R281, R306 to R320, R326). -/

namespace Sys2Proof.Machine

/-! ## Staging (R279, R280, R307) -/

def stagingOf (s : State) (port vc : Nat) : List Arrived := Tab.getD (getPort s port).staging vc []

def setStaging (s : State) (port vc : Nat) (l : List Arrived) : State :=
  modPort s port (fun x => { x with staging := if l.isEmpty then Tab.erase x.staging vc else Tab.set x.staging vc l })

/-- The head leaves: what stood behind it starts its own wait. -/
def popStaging (s : State) (port vc : Nat) : State :=
  let s := setStaging s port vc (stagingOf s port vc).tail
  modPort s port (fun x => { x with stuckSince := Tab.erase x.stuckSince vc, heldWait := Tab.erase x.heldWait vc })

/-- A packet is discarded under R280 or R310. -/
def countUnroutable (s : State) (n : Nat) : State := modRoute s (fun r => { r with unroutable := satUp r.unroutable n 0xFF })

/-- Move the head of an adaptive staging queue to the wale channel of its class (R279). -/
def toWale (s : State) (port vc : Nat) (a : Arrived) : State :=
  let s := popStaging s port vc
  let s := setStaging s port (vc + 1) (stagingOf s port (vc + 1) ++ [a])
  let s := bumpSwitch s port 5 1
  modRoute s (fun r => { r with waleEntries := satUp r.waleEntries 1 0xFFFF })

/-- What the head of one staging queue did: it left, it moved to its wale channel, or it stays. -/
inductive HeadMove where
  | left (s : State)
  | toWaleChannel (s : State)
  | stays (s : State)

/-- The head waits with no route: the clock of R280 starts, unless its wale hop is in service. -/
def stayUnrouted (s : State) (port vc : Nat) (a : Arrived) : State :=
  if !isWale vc && forwards s && !(walePorts s (nodeCoord a.p.dst)).isEmpty then modPort s port (fun x => { x with stuckSince := Tab.erase x.stuckSince vc })
  else modPort s port (fun x => { x with stuckSince := Tab.set x.stuckSince vc (Tab.getD x.stuckSince vc s.tb.time) })

/-- The head waits for room or credit at its output. -/
def stayForRoom (s : State) (port vc : Nat) (a : Arrived) : State :=
  let s := setStaging s port vc ({ a with waited := true } :: (stagingOf s port vc).tail)
  modPort s port (fun x => { x with stuckSince := Tab.erase x.stuckSince vc })

/-- The switch tries a multicast head (R283, R284, R320). -/
def tryMulticast (s : State) (port vc : Nat) (a : Arrived) : HeadMove :=
  if boxBad s a.p then
    .left (returnCells (modRoute (popStaging s port vc) (fun r => { r with boxRefused := satUp r.boxRefused 1 0xFF })) (port, a.vc) (pktCells a.p))
  else if !forwards s then .stays s
  else if pktClass a.p = 2 && (freeResidue s port).isNone then .stays s
  else match replicate (popStaging s port vc) a port with
    | some t => .left t
    | none => .stays s

/-- The switch tries the head of one staging queue; with every residue slot of the input full, its C2 wale channel gives nothing (R320). -/
def tryHead (s : State) (port vc : Nat) : Option HeadMove :=
  match stagingOf s port vc with
  | [] => none
  | a :: _ =>
    some (
      if vc = 5 && (freeResidue s port).isNone then .stays s
      else if a.p.dst = 0xFFFFF then tryMulticast s port vc a
      else if !isWale vc && mustWale s a.p then .toWaleChannel (toWale s port vc a)
      else match routeOf s a (isWale vc) with
        | .take o v => .left (linkTo (popStaging s port vc) o v a port)
        | .waitRoom => .stays (stayForRoom s port vc a)
        | .noRoute =>
          if isWale vc then .left (returnCells (countUnroutable (popStaging s port vc) 1) (port, a.vc) (pktCells a.p))
          else .stays (stayUnrouted s port vc a))

/-- Try heads until one stays; a packet that moves to the wale channel is tried there. -/
def pumpStaging (port vc : Nat) : Nat → State → State
  | 0, s => s
  | fuel + 1, s =>
    match tryHead s port vc with
    | none => s
    | some (.stays t) => t
    | some (.left t) => pumpStaging port vc fuel t
    | some (.toWaleChannel t) =>
      pumpStaging port vc fuel (match tryHead t port (vc + 1) with
        | some (.left u) => u
        | some (.stays u) => u
        | _ => t)

def runStaging (s : State) (port vc : Nat) : State := pumpStaging port vc ((stagingOf s port vc).length + 1) s

/-- A packet enters an input's staging queue, and is tried if it is at the head (R307). -/
def arrivePacket (s : State) (port vc : Nat) (p : Packet) : State :=
  let q := stagingOf s port vc
  let s := setStaging s port vc (q ++ [{ p := p, vc := vc }])
  if q.isEmpty then runStaging s port vc else s

/-- PACKET_ARRIVE (R305, R307); what holds no credit of an internal input stays with its endpoint. -/
def execPacketArrive (port : Fin 90) (vc : Fin 10) (p : Packet) (s : State) : Result :=
  .next (if mayEnter s port.val vc.val p then arrivePacket s port.val vc.val p else s)

/-- PACKET_LINK (R307): the head of staging is linked once its output has room. -/
def execPacketLink (port : Fin 90) (vc : Fin 10) (s : State) : Result := .next (runStaging s port.val vc.val)

/-! ## Residues (R320) -/

/-- Replace what is left of a residue; an empty one frees its slot and returns the cells. -/
def putResidue (s : State) (port slot : Nat) (r : Residue) (outs : List (Nat × BitVec 3)) : State :=
  if outs.isEmpty then
    returnCells (modPort s port (fun x => { x with residue := Tab.erase x.residue slot })) (port, r.vc) (pktCells r.p)
  else modPort s port (fun x => { x with residue := Tab.set x.residue slot { r with outs := outs } })

/-- RESIDUE_WRITE (R320): one write into one residue output that has gained room. -/
def execResidueWrite (port : Fin 90) (slot : Fin 4) (out : Fin 90) (s : State) : Result :=
  .next (match Tab.find (getPort s port.val).residue slot.val with
    | none => s
    | some r =>
      match r.outs.find? (fun o => o.1 = out.val) with
      | none => s
      | some o =>
        match writeCopy s r.p (vcOf (pktClass r.p) true) o with
        | none => s
        | some t => putResidue t port.val slot.val r (r.outs.erase o))

/-! ## Waiting too long (R279, R280) -/

/-- WALE_WAIT as it binds the head of a staging queue: the value in force when the packet came to the head (R281). -/
def waitOf (s : State) (port vc : Nat) : Nat := (Tab.find (getPort s port).heldWait vc).getD s.net.route.waleWait

/-- WALE_ESCAPE (R279): the head has met no adaptive credit and room for WALE_WAIT cycles, and its wale hop has a port in service. -/
def execWaleEscape (port : Fin 90) (cls : Fin 5) (cycles : Nat) (s : State) : Result :=
  let vc := vcOf cls.val false
  .next (match stagingOf s port.val vc with
    | [] => s
    | a :: _ =>
      let moves := decide (waitOf s port.val vc ≤ cycles) && a.p.dst ≠ 0xFFFFF && !isHere s a.p.dst && forwards s &&
        !(walePorts s (nodeCoord a.p.dst)).isEmpty && (match routeOf s a false with
          | .take _ _ => false
          | _ => true)
      if moves then runStaging (runStaging (toWale s port.val vc a) port.val (vc + 1)) port.val vc else s)

/-- No eligible candidate and no wale hop of the head is in service. -/
def noWay (s : State) (vc : Nat) (a : Arrived) : Bool :=
  decide (routeOf s a (isWale vc) = .noRoute) && (isWale vc || !forwards s || (walePorts s (nodeCoord a.p.dst)).isEmpty)

/-- Routes have come back: the heads that have one stand no longer without (R280). -/
def unstick (s : State) : State :=
  { s with net := { s.net with ports := Tab.mapVals s.net.ports (fun port x =>
      { x with stuckSince := x.stuckSince.filter (fun t => match stagingOf s port t.1 with
          | a :: _ => noWay s t.1 a
          | [] => false) }) } }

/-- UNROUTABLE_DISCARD (R280): 20 us at the head without an eligible candidate or a wale hop in service. -/
def execUnroutableDiscard (port : Fin 90) (vc : Fin 10) (s : State) : Result :=
  .next (match stagingOf s port.val vc.val, Tab.find (getPort s port.val).stuckSince vc.val with
    | a :: _, some t =>
      if t + 20 * usU ≤ s.tb.time && noWay s vc.val a then
        runStaging (returnCells (countUnroutable (popStaging s port.val vc.val) 1) (port.val, a.vc) (pktCells a.p)) port.val vc.val
      else s
    | _, _ => s)

/-! ## A port leaves service (R285, R310, R320) -/

/-- Move one channel's queue to another port. -/
def moveQueue (s : State) (port vc : Nat) (target : Nat) : State :=
  let q := queueOf s port vc
  let s := modPort s port (fun x => { x with queues := Tab.erase x.queues vc })
  modPort s target (fun x => { x with queues := Tab.upd x.queues vc [] (fun r => r ++ q) })

/-- Discard one channel's queue. -/
def dropQueue (s : State) (port vc : Nat) : State :=
  let q := queueOf s port vc
  let s := modPort s port (fun x => { x with queues := Tab.erase x.queues vc })
  q.foldl freeLinked (countUnroutable s q.length)

/-- Bytes queued on a port in every channel. -/
def portBytes (s : State) (port : Nat) : Nat := ((List.range 10).map (queueBytes s port)).sum

def leastLoaded (s : State) : List Nat → Option Nat
  | [] => none
  | p :: ps =>
    match leastLoaded s ps with
    | none => some p
    | some q => if portBytes s q < portBytes s p then some q else some p

/-- The queues of a port that has left service move within its group, or are discarded (R310). -/
def portLeaves (s : State) (port : Nat) : State :=
  match leastLoaded s (groupPorts s (port / 4)) with
  | some q => (List.range 10).foldl (fun s v => if (queueOf s port v).isEmpty then s else moveQueue s port v q) s
  | none => (List.range 10).foldl (fun s v => dropQueue s port v) s

/-- Outputs of residues that point at a port out of service go to another of the group, or are left out (R285, R320). -/
def residueOuts (s : State) (oe vc : Nat) : List (Nat × BitVec 3) → List (Nat × BitVec 3)
  | [] => []
  | o :: os =>
    let rest := residueOuts s oe vc os
    if o.1 / 4 = oe && !takesNew s o.1 then
      match leastQueued s vc (groupPorts s oe) with
      | some p => (p, o.2) :: rest
      | none => rest
    else o :: rest

/-- Mend every residue after a port of a group has left service. -/
def mendResidues (s : State) (oe : Nat) : State :=
  (s.net.ports.map Prod.fst).foldl (fun s port =>
    (getPort s port).residue.foldl (fun s e =>
      let outs := residueOuts s oe (vcOf (pktClass e.2.p) true) e.2.outs
      if outs = e.2.outs then s
      else putResidue (countMcast s (e.2.outs.length - outs.length)) port e.1 e.2 outs) s) s

/-- Wale-channel packets in staging whose wale hop's group has left UP are discarded at once (R280). -/
def dropWale (s : State) (oe : Nat) : State :=
  (s.net.ports.map Prod.fst).foldl (fun s port =>
    [1, 3, 5, 7, 9].foldl (fun s vc =>
      let hit := fun a : Arrived => a.p.dst ≠ 0xFFFFF && !isHere s a.p.dst && decide (waleOe s (nodeCoord a.p.dst) = some oe)
      let q := stagingOf s port vc
      let gone := q.filter hit
      if gone.isEmpty then s
      else
        let s := countUnroutable (setStaging s port vc (q.filter (fun a => !hit a))) gone.length
        gone.foldl (fun s a => returnCells s (port, a.vc) (pktCells a.p)) s) s) s

/-- The lanes of a port lose their clock: lanes 8p to 8p + 7; the host link's stand at 512. -/
def dropLanes (s : State) (port : Nat) : State :=
  { s with net := { s.net with lanes := Tab.mapVals s.net.lanes (fun k l => if k / 8 = port then { l with cdrLock := false } else l) } }

/-- What a port's coding layer and keys hold is gone; its counts stay. -/
def clearLink (l : LinkPort) (st : PortSt) : LinkPort :=
  { l with
    st := st, txSseq := 0, replay := [], resumed := none, kph := false, rxSseq := 0, rxKph := false, unacked := 0, waiting := none
    naksSent := 0, afterResume := false, resumeAt := none, tagTimes := [], keyed := false, rekeying := false, newKeys := false, keys := {}, oldKeys := none, ownRandom := [], dropping := false
    level := if st = .ident || st = .active || st = .authFailed then l.level else 0 }

/-- A port leaves service, or leaves training, and stands in a state with what it held gone; a group one of whose ports is trained again is no longer held out whole (R272, log entry 100). -/
def portTo (s : State) (port : Nat) (st : PortSt) (retryAt : Nat) : State :=
  let l := getLink s port
  let was := l.st = .active
  let s := dropLanes (modLink s port (fun l => { clearLink l st with losses := if was then satUp l.losses 1 0xFF else l.losses, since := s.tb.time, retryAt := retryAt })) port
  let s := if l.st = .miswired && (getOe s (port / 4)).st = .miswired then modOe s (port / 4) (fun g => { g with st := .unused }) else s
  if was && port < 64 then mendResidues (portLeaves s port) (port / 4) else if port = 64 then hostLost s else s

/-- A group moves to another state; leaving UP is counted, and what waited on it is mended (R271, R272, R280, R285). -/
def groupTo (s : State) (oe : Nat) (st : LinkGrpSt) : State :=
  if (getOe s oe).st = .up && st ≠ .up then
    mendResidues (dropWale (modOe s oe (fun g => { g with st := st, losses := satUp g.losses 1 0xFF })) oe) oe
  else modOe s oe (fun g => { g with st := st })

/-- What a group with no port in service is: UNUSED where its peer lies outside the extent, else DOWN (R272). -/
def emptyGroup (s : State) (oe : Nat) : LinkGrpSt := if peerOutside s oe then .unused else .down

/-- A port whose PORT_EN bit is 0, or whose peer is left out of the extent, leaves service once nothing is queued on it; with the last of its group the group leaves UP (R272, R289). -/
def retirePort (s : State) (port : Nat) : State :=
  if port < 64 && (getLink s port).st = .active && !(getLink s port).dropping && !takesNew s port && outCells s port = 0 then
    let s := portTo s port .off 0
    if (oePortsUp s (port / 4)).isEmpty then groupTo s (port / 4) (emptyGroup s (port / 4)) else s
  else s

/-! ## Sending (R306, R308, R339) -/

/-- Protected blocks of a packet: its START and its data blocks (R334). -/
def pktBlocks (p : Packet) : Nat := 1 + (pktBytes p + 7) / 8

/-- Bytes the packet's segments take in the replay buffer. -/
def pktSegBytes (p : Packet) : Nat := 8 * pktBlocks p + 16 * ((pktBlocks p + 255) / 256)

/-- The packet at the head of a channel that may be sent now. -/
def sendable (s : State) (port vc : Nat) : Option Linked :=
  match queueOf s port vc with
  | [] => none
  | l :: _ =>
    if !hasCredit s port vc (pktCells l.p) then none
    else if isExternal port && !((getLink s port).st = .active && replayRoom (getLink s port) (pktSegBytes l.p)) then none
    else some l

/-- The channel of a class that goes first: wale, then adaptive. -/
def classHead (s : State) (port cls : Nat) : Option (Nat × Linked) :=
  match sendable s port (2 * cls + 1) with
  | some l => some (2 * cls + 1, l)
  | none => (sendable s port (2 * cls)).map (fun l => (2 * cls, l))

def classEmpty (s : State) (port cls : Nat) : Bool := (queueOf s port (2 * cls)).isEmpty && (queueOf s port (2 * cls + 1)).isEmpty

/-- The weights in force in a round: those of SW_PORT_CTRL, but in the round in which it was written (R326). -/
def weightsIn (x : SwPort) (round : Nat) : List Nat :=
  match x.heldW with
  | some h => if h.1 = round then h.2 else [x.w0, x.w1, x.w2, x.w3]
  | none => [x.w0, x.w1, x.w2, x.w3]

/-- The weight of the class whose turn it is. -/
def classWeight (x : SwPort) (turn : Nat) : Nat := (weightsIn x (turn / 4)).getD (turn % 4) 1

/-- Deficit round-robin among C0 to C3 (R308): the deficits and turn reached, and the packet chosen. A class with nothing to send forfeits its deficit. -/
def drr (s : State) (port : Nat) : Nat → Tab Int → Nat → Option (Nat × Linked × Tab Int × Nat)
  | 0, _, _ => none
  | fuel + 1, defs, turn =>
    let cls := turn % 4
    let defs := if classEmpty s port cls then Tab.set defs cls 0 else defs
    let have_ := Tab.getD defs cls 0
    let next := turn + 1
    let moved := Tab.set defs (next % 4) (Tab.getD defs (next % 4) 0 + 4096 * classWeight (getPort s port) next)
    match classHead s port cls with
    | some x =>
      if (pktBytes x.2.p : Int) ≤ have_ then some (x.1, x.2, Tab.set defs cls (have_ - pktBytes x.2.p), turn)
      else drr s port fuel moved next
    | none => drr s port fuel moved next

/-- The next packet of an output: C4 first, then the round (R308). -/
def chooseNext (s : State) (port : Nat) : Option (Nat × Linked × Tab Int × Nat) :=
  let x := getPort s port
  match classHead s port 4 with
  | some y => some (y.1, y.2, x.deficits, x.turn)
  | none =>
    if (List.range 4).any (fun c => (classHead s port c).isSome) then drr s port 13 x.deficits x.turn else none

/-- FABRIC_BYTES (R434): the bytes of a packet that a master of a slice of this module originated and that leaves on an external port, each copy of a multicast counted; a response (class C1) is the home's, not a master's. -/
def usageFabric (s : State) (p : Packet) : State :=
  match findSlice s p.slice with
  | some e =>
    if isHere s p.src && p.cls ≠ 1 then modSlice s e.1 (fun x => { x with usage := { x.usage with fabricBytes := x.usage.fabricBytes + pktBytes p } }) else s
  | none => s

/-- The packet leaves: credit is spent, what it held is freed (R306, R308). -/
def sendChosen (s : State) (port : Nat) (c : Nat × Linked × Tab Int × Nat) : State :=
  let vc := c.1
  let l := c.2.1
  let s := modPort s port (fun x => { x with
    queues := Tab.upd x.queues vc [] List.tail
    spent := if isExternal port then Tab.upd x.spent vc 0 (fun n => n + pktCells l.p) else x.spent
    deficits := c.2.2.1
    turn := c.2.2.2 })
  let s := bumpSwitch s port (vc / 2) (pktBytes l.p)
  let s := if isExternal port then sendSegments port (.packet (vcFin vc) l.p) 4 (pktBlocks l.p) (bumpPort (usageFabric s l.p) port 0 (pktBytes l.p)) else emit s (.switched port vc l.p)
  retirePort (freeLinked s l) port

/-- OUTPUT_SEND (R308). -/
def execOutputSend (port : Fin 90) (s : State) : Result :=
  .next (match chooseNext s port.val with
    | some c => sendChosen s port.val c
    | none => s)

/-- The count of a CREDIT block is cumulative, so one seen twice changes nothing (R306, R342). -/
def takeCredit (s : State) (port vc : Nat) (count : BitVec 16) : State :=
  modPort s port (fun x =>
    let n := (count - Tab.getD x.creditSeen vc 0).toNat
    { x with
      creditSeen := Tab.set x.creditSeen vc count
      spent := Tab.upd x.spent vc 0 (fun k => k - n) })

/-- CREDIT (R306). -/
def execCredit (port : Fin 90) (vc : Fin 10) (count : BitVec 16) (s : State) : Result := .next (takeCredit s port.val vc.val count)

/-- An uncorrectable error in a cell loses the packet that holds it (R311). -/
def cellLost (s : State) (port vc index : Nat) : State :=
  match (queueOf s port vc)[index]? with
  | none => s
  | some l =>
    freeLinked (modPort s port (fun x => { x with
      queues := Tab.upd x.queues vc [] (fun q => q.eraseIdx index)
      bufLost := satUp x.bufLost 1 0xFF })) l

/-- CELL_ERROR (R154, R155, R311): which cell of the array it was is a free value (log entry 3). -/
def execCellError (port : Fin 90) (vc : Fin 10) (index : Nat) (s : State) : Result :=
  let f := takeFree s
  .next (cellLost (memError f.2 (.fd 0) true (f.1.toNat % 2 ^ 36)) port.val vc.val index)

/-! ## Register writes (R281, R317, R318, R326) -/

/-- A write of SW_ROUTE_CTRL, for packets that come to the head of a queue after it; none for a reserved encoding (R9). -/
def writeWaleWait (s : State) (value : Word) : Option State :=
  let w := (value.extractLsb' 0 16).toNat
  let hold := fun x : SwPort => { x with heldWait := x.staging.foldl (fun t q => Tab.set t q.1 ((Tab.find t q.1).getD s.net.route.waleWait)) x.heldWait }
  if w < 0x10 then none
  else some (modRoute { s with net := { s.net with ports := Tab.mapVals s.net.ports (fun _ => hold) } } (fun r => { r with waleWait := w }))

/-- WALE_WAIT_WRITE (R281). -/
def execWaleWaitWrite (value : Word) (s : State) : Result := .next ((writeWaleWait s value).getD s)

/-- A write of SW_METER: the buckets start full, as RFC 2698 has them. -/
def writeMeter (s : State) (slot : Nat) (value : Word) : Option State :=
  let f := fun lo n => (value.extractLsb' lo n).toNat
  let pbs := f 48 16
  let cbs := f 32 16
  let pir := f 20 12
  let cir := f 8 12
  let en := value.getLsbD 7
  if pir < cir || (en && (cir = 0 || cbs = 0)) then none
  else
    let m : Meter := { pbs := pbs, cbs := cbs, pir := pir, cir := cir, en := en, grade := f 0 3, tp := pbs * 1024 * 40, tc := cbs * 1024 * 40, lastFill := s.tb.time }
    some { s with net := { s.net with meters := Tab.set s.net.meters slot m } }

/-- SW_METER_WRITE (R317). -/
def execSwMeterWrite (slot : Fin 64) (value : Word) (s : State) : Result := .next ((writeMeter s slot.val value).getD s)

/-- The profile a value encodes (R318). -/
def profileOf (v : Word) : DropProfile :=
  let f := fun lo n => (v.extractLsb' lo n).toNat
  { wexp := f 60 4, rMax := f 52 8, rMin := f 44 8, rMaxp := f 40 4, yMax := f 32 8, yMin := f 24 8, yMaxp := f 20 4,
    gMax := f 12 8, gMin := f 4 8, gMaxp := f 0 4 }

/-- A write of SW_DROP_PROFILE, instance 8 times the port plus the profile. -/
def writeProfile (s : State) (index : Nat) (value : Word) : Option State :=
  let d := profileOf value
  if d.wexp = 0 || d.rMax < d.rMin || d.yMax < d.yMin || d.gMax < d.gMin then none
  else some (modPort s (index / 8) (fun x => { x with profiles := Tab.set x.profiles (index % 8) d }))

/-- SW_DROP_PROFILE_WRITE (R318). -/
def execSwDropProfileWrite (index : Fin 720) (value : Word) (s : State) : Result := .next ((writeProfile s index.val value).getD s)

/-- A write of SW_PORT_CTRL, whose weights hold from the next round on (R326); a weight of 0 is reserved. -/
def writePortCtrl (s : State) (port : Nat) (value : Word) : Option State :=
  let f := fun lo n => (value.extractLsb' lo n).toNat
  if f 12 4 = 0 || f 8 4 = 0 || f 4 4 = 0 || f 0 4 = 0 then none
  else some (modPort s port (fun x => { x with crowdKb := some (f 32 8), w3 := f 12 4, w2 := f 8 4, w1 := f 4 4, w0 := f 0 4, heldW := some (x.turn / 4, weightsIn x (x.turn / 4)) }))

/-- SW_PORT_CTRL_WRITE (R326). -/
def execSwPortCtrlWrite (port : Fin 90) (value : Word) (s : State) : Result := .next ((writePortCtrl s port.val value).getD s)

end Sys2Proof.Machine
end

