-- ==== Sys2Proof/Machine/Loss.lean ====
section
/-! DEFINITION. Losing a link group or a module: probes, notices, the lost set, and the retirement of an old bank (R182, R290, R294 to R298). -/

namespace Sys2Proof.Machine

def srcRoute : BitVec 16 := srcKind 9 0

/-! ## What a notice does here (R182, R296 to R298) -/

/-- Kinds of notice, by opcode, and what each is about. -/
def nNodeLost : BitVec 8 := 0xE2
def nLinkLost : BitVec 8 := 0xE3
def nNodeBack : BitVec 8 := 0xE4

def subject (cs : List Coord) : List Nat := cs.map entryIx

/-- A copy whose kind and subject has been seen within 1 ms (R296). -/
def seenNotice (s : State) (kind : BitVec 8) (sub : List Nat) : Bool :=
  s.net.route.notices.any (fun n => n.1 = kind && n.2.1 = sub && decide (s.tb.time < n.2.2 + msU))

def noteNotice (s : State) (kind : BitVec 8) (sub : List Nat) : State :=
  modRoute s (fun r => { r with notices := r.notices.filter (fun n => !(n.1 = kind && n.2.1 = sub) && decide (s.tb.time < n.2.2 + msU)) ++ [(kind, sub, s.tb.time)] })

/-- Complete with POISONED every request that awaits a response and whose path answers a test. -/
def poisonWaiting (s : State) (hit : BitVec 20 → Bool) : State :=
  (List.range 4).foldl (fun s d =>
    ((getEp s d).outst.filter (fun o => hit o.dst)).foldl (fun s o => countStatus (complete s d o 5 []) d o 5) s) s

/-- A path from here could have crossed a lost module (R182). -/
def pathThrough (s : State) (l : Coord) (dst : BitVec 20) : Bool :=
  let a := hereC s
  let b := nodeCoord dst
  decide (l = b) || (l ≠ a && dims.all (fun d => coordGet l d = coordGet a d || coordGet l d = coordGet b d))

/-- A path from here could have crossed a lost link (R298). -/
def pathOver (s : State) (a b : Coord) (dst : BitVec 20) : Bool :=
  let x := hereC s
  let y := nodeCoord dst
  match diffDims a b with
  | [d] =>
    ((coordGet x d = coordGet a d && coordGet y d = coordGet b d) || (coordGet x d = coordGet b d && coordGet y d = coordGet a d)) &&
    (dims.filter (fun e => e ≠ d)).all (fun e => coordGet a e = coordGet x e || coordGet a e = coordGet y e)
  | _ => false

/-- Homes discard what waits from a lost module and close its flows (R182). -/
def closeFrom (s : State) (l : Coord) : State :=
  (List.range 5).foldl (fun s ep =>
    ((getEp s ep).homeFlows.filter (fun h => nodeCoord h.src = l)).foldl (fun s h => closeHome s ep h.src h.flow) s) s

/-- A group with no port in service towards a module that a notice names is LOST (R272); this module's own probe and notice go on (R294). -/
def groupLost (s : State) (l : Coord) : State :=
  match diffDims (hereC s) l with
  | [d] => modOe s (oeTowards s d (coordGet l d)) (fun g => if g.st = .down then { g with st := .lost } else g)
  | _ => s

/-- A node-loss notice acts (R182, R243, R297). -/
def actNodeLost (s : State) (l : Coord) : State :=
  let s := modRoute s (fun r => { r with lost := if r.lost.contains l || 64 ≤ r.lost.length then r.lost else r.lost ++ [l] })
  collNodeLost (closeFrom (poisonWaiting (groupLost s l) (pathThrough s l)) l) l

/-- A link-loss notice acts (R298). -/
def actLinkLost (s : State) (a b : Coord) : State :=
  let s := if hereC s = a then groupLost s b else if hereC s = b then groupLost s a else s
  poisonWaiting s (pathOver s a b)

def actNodeBack (s : State) (l : Coord) : State := modRoute s (fun r => { r with lost := r.lost.filter (fun c => c ≠ l) })

/-- What the packets of R295 carry. -/
def nodeLostBytes (l : Coord) (t : Nat) : List Byte := coordBytes l ++ leBytes 8 t
def linkLostBytes (a b : Coord) (t : Nat) : List Byte := coordBytes a ++ coordBytes b ++ leBytes 8 t
def nodeBackBytes (l : Coord) (ep : BitVec 2) : List Byte := coordBytes l ++ leBytes 1 ep.toNat

/-- A notice arrives: the first copy is recorded, forwarded and acted on; a later one is discarded (R296). -/
def takeNotice (s : State) (port : Nat) (kind : BitVec 8) (about : List Coord) (bytes : List Byte) (act : State → State) : State :=
  if seenNotice s kind (subject about) then s
  else
    let s := noteNotice s kind (subject about)
    let s := record s { source := srcRoute, event := evNoticeSeen, location := BitVec.ofNat 64 ((about.head?.map (fun c => (coordNode c 4).toNat)).getD 0) }
    act (flood s (some (port / 4)) kind bytes)

/-- NODE_LOST (R296, R297). -/
def execNodeLost (port : Fin 64) (lost : Coord) (t : Nat) (s : State) : Result :=
  .next (takeNotice s port.val nNodeLost [lost] (nodeLostBytes lost t) (fun s => actNodeLost s lost))

/-- LINK_LOST (R296, R298). -/
def execLinkLost (port : Fin 64) (a b : Coord) (t : Nat) (s : State) : Result :=
  .next (takeNotice s port.val nLinkLost [a, b] (linkLostBytes a b t) (fun s => actLinkLost s a b))

/-- NODE_BACK (R296, R297). -/
def execNodeBack (port : Fin 64) (back : Coord) (epoch : BitVec 2) (s : State) : Result :=
  .next (takeNotice s port.val nNodeBack [back] (nodeBackBytes back epoch) (fun s => actNodeBack s back))

/-- This module makes a notice (R294, R296). -/
def makeNotice (s : State) (kind : BitVec 8) (about : List Coord) (bytes : List Byte) (act : State → State) : State :=
  let s := noteNotice s kind (subject about)
  let s := modRoute s (fun r => { r with noticesMade := satUp r.noticesMade 1 0xFF })
  let s := record s { source := srcRoute, event := evNoticeMade, location := BitVec.ofNat 64 ((about.getLast?.map (fun c => (coordNode c 4).toNat)).getD 0) }
  act (flood s none kind bytes)

/-- The wait for a reply is over. -/
def probeOver (s : State) (oe : Nat) : State := modOe s oe (fun g => { g with probeSent := none })

def makeNodeLost (s : State) (oe : Nat) : State :=
  let s := probeOver s oe
  let l := oePeer s oe
  let now := s.tb.time
  makeNotice s nNodeLost [l] (nodeLostBytes l now) (fun s => actNodeLost s l)

def makeLinkLost (s : State) (oe : Nat) : State :=
  let s := probeOver s oe
  let a := hereC s
  let l := oePeer s oe
  let now := s.tb.time
  makeNotice s nLinkLost [a, l] (linkLostBytes a l now) (fun s => actLinkLost s a l)

/-! ## Probes (R294, R295) -/

def curExtent (s : State) (d : Dim) : Nat := extentOf s d

/-- The relay paths of R294, as the modules between this one and the peer. -/
def relayPaths (s : State) (oe : Nat) : List (List Coord) :=
  let a := hereC s
  let d := oeDim oe
  let l := oePeerCoord s oe
  let line := (List.range (curExtent s d)).filter (fun c => c ≠ coordGet a d && c ≠ l)
  let p1 := match line.head? with
    | some c => [[coordSet a d c]]
    | none => []
  let p2 := match dims.find? (fun e => e ≠ d && decide (2 ≤ curExtent s e)) with
    | some e =>
      match ((List.range (curExtent s e)).filter (fun v => v ≠ coordGet a e)).head? with
      | some v => [[coordSet a e v, coordSet (coordSet a e v) d l]]
      | none => []
    | none => []
  p1 ++ p2

/-- Send a packet to a neighbour on the lowest port in service of its group. -/
def toNeighbour (s : State) (n : Coord) (opcode : BitVec 8) (bytes : List Byte) : State :=
  match diffDims (hereC s) n with
  | [d] =>
    match (oePortsUp s (oeTowards s d (coordGet n d))).head? with
    | some p => emit s (.neighbour p opcode bytes)
    | none => s
  | _ => s

/-- Detector, target and relay list. -/
def probeBytes (det tgt : BitVec 20) (relays : List (BitVec 20)) : List Byte :=
  leBytes 4 det.toNat ++ leBytes 4 tgt.toNat ++ leBytes 1 relays.length ++ relays.flatMap (fun r => leBytes 4 r.toNat)

def replyBytes (tgt det : BitVec 20) : List Byte := leBytes 4 tgt.toNat ++ leBytes 4 det.toNat

/-- Send PROBE along one path. -/
def sendProbe (oe : Nat) (s : State) (path : List Coord) : State :=
  let tgt := coordNode (oePeer s oe) 4
  match path with
  | [] => s
  | r :: rest => toNeighbour s r 0xE0 (probeBytes (fdNode s) tgt (rest.map (fun c => coordNode c 4)))

/-- Every port of an UP group has lost lock (R280, R285, R294). -/
def downGroup (s : State) (oe : Nat) : State :=
  let g := getOe s oe
  if g.st ≠ .up || !(oePortsUp s oe).isEmpty then s
  else
    let s := modOe (groupTo s oe .down) oe (fun g => { g with probeSent := some s.tb.time })
    let ps := relayPaths s oe
    if ps.isEmpty then makeNodeLost s oe else ps.foldl (sendProbe oe) s

/-- GROUP_DOWN (R294). -/
def execGroupDown (oe : Fin 16) (s : State) : Result := .next (downGroup s oe.val)

/-- The neighbour a reply goes to on its way back: the first differing dimension corrected that does not lead through the target (log entry 19). -/
def replyHop (s : State) (tgt det : BitVec 20) : Option Coord :=
  let here := hereC s
  let dst := nodeCoord det
  ((diffDims here dst).map (fun d => coordSet here d (coordGet dst d))).find? (fun n => n ≠ nodeCoord tgt)

/-- PROBE (R295): the target answers; a relay passes it on. -/
def execProbe (port : Fin 64) (detector target : BitVec 20) (relays : List (BitVec 20)) (s : State) : Result :=
  .next (
    if isHere s target then emit s (.neighbour port.val 0xE1 (replyBytes target detector))
    else
      let next := (relays.head?).getD target
      toNeighbour s (nodeCoord next) 0xE0 (probeBytes detector target relays.tail))

/-- PROBE_REPLY (R294, R295): the detector makes a link-loss notice; a relay passes it on. -/
def execProbeReply (_port : Fin 64) (target detector : BitVec 20) (s : State) : Result :=
  .next (
    if isHere s detector then
      match diffDims (hereC s) (nodeCoord target) with
      | [d] =>
        let oe := oeTowards s d (coordGet (nodeCoord target) d)
        match (getOe s oe).probeSent with
        | some t => if s.tb.time < t + 15 * usU then makeLinkLost s oe else s
        | none => s
      | _ => s
    else match replyHop s target detector with
      | some n => toNeighbour s n 0xE1 (replyBytes target detector)
      | none => s)

/-- PROBE_TIMEOUT (R294): 15 us without a reply. -/
def execProbeTimeout (oe : Fin 16) (s : State) : Result :=
  .next (match (getOe s oe.val).probeSent with
    | some t => if t + 15 * usU ≤ s.tb.time then makeNodeLost s oe.val else s
    | none => s)

/-! ## Retiring the old bank (R290) -/

/-- A port that is not to serve goes out: one in service once it is empty, one in training at once; with the last of its group the group is UNUSED or DOWN. -/
def settlePort (s : State) (port : Nat) : State :=
  if (getLink s port).st = .active then retirePort s port
  else if !peerOutside s (port / 4) || (getLink s port).st = .off then s
  else portTo s port .off 0

/-- The ports that the banks in force take away: none is trained whose peer lies outside the extent, and none serves whose PORT_EN bit is 0; what they hold is sent first (R270, R289, R290). -/
def settlePorts (s : State) : State :=
  (List.range 16).foldl (fun s oe =>
    let s := (List.range 4).foldl (fun s i => settlePort s (4 * oe + i)) (mendResidues s oe)
    if peerOutside s oe && (oePortsUp s oe).isEmpty then groupTo s oe .unused else s) s

/-- OLD_BANK_RETIRE: 200 us of fabric time with no old-epoch packet counted. Ports that only the old bank led to may leave. -/
def execOldBankRetire (s : State) : Result :=
  let r := s.net.route
  .next (if r.oldLive && decide (r.lastOld + 200 * usU ≤ s.tb.time) then settlePorts (modRoute s (fun r => { r with oldLive := false })) else s)

end Sys2Proof.Machine
end

