-- ==== Sys2Proof/Machine/Links.lean ====
section
/-! DEFINITION. Links: segments, retry, the loss of a port, training, keying, the optical feeds and the lane registers (R270, R333, R339 to R363). -/

namespace Sys2Proof.Machine

def srcPort (p : Nat) : BitVec 16 := srcKind 7 p

/-! ## A port leaves service (R310, R344) -/

/-- A port leaves service and re-enters training (R344). -/
def portFails (s : State) (port : Nat) : State :=
  match (getLink s port).st with
  | .off | .light | .authFailed | .levelFailed => s
  | .active => record (portTo s port .light 0) { source := srcPort port, event := evPortDown, location := BitVec.ofNat 64 port }
  | _ => portTo s port .light 0

/-- PORT_DOWN (R344). -/
def execPortDown (port : Fin 65) (_cause : DownCause) (s : State) : Result := .next (portFails s port.val)

/-! ## Receiving (R333, R341 to R343) -/

/-- A packet R333 discards. -/
def malformed (vc : Nat) (p : Packet) : Bool :=
  p.ver ≠ 0 || decide (5 ≤ pktClass p) || pktClass p ≠ vc / 2 || decide (4128 < pktLength p) || p.reserved ||
  (p.comb && pktClass p ≠ 0) || (p.crowd && decide (3 ≤ pktClass p)) || ((p.colour ≠ 0 || p.grade ≠ 0) && pktClass p ≠ 3)

/-- One item of an accepted segment goes to the switch core; a void or malformed packet's credit returns at once. -/
def releaseItem (port : Nat) (s : State) (i : SegItem) : State :=
  match i with
  | .credit vc count => takeCredit s port vc.val count
  | .host .. => s
  | .stomped vc p => returnCells s (port, vc.val) (pktCells p)
  | .packet vc p =>
    if malformed vc.val p then
      returnCells (modLink s port (fun l => { l with malformed := satUp l.malformed 1 0xF })) (port, vc.val) (pktCells p)
    else arrivePacket (bumpPort s port 1 (pktBytes p)) port vc.val p

/-- One item of an accepted segment of the host link: a packet has come, and its command is a row of its own. The adapter grants status packets all the credit they need (DESIGN CHOICE, log entry 109). -/
def hostItem (s : State) (i : SegItem) : State :=
  match i with
  | .host bs _ => hostArrives s bs.length
  | _ => s

def sendAckOf (s : State) (port : Nat) : State :=
  let s := modLink s port (fun l => { l with unacked := 0 })
  emit s (.linkCtl port 0x66 ((getLink s port).rxSseq % 2 ^ 24))

/-- Send NAK for the segment wanted; the eighth takes the port out of service. -/
def sendNak (s : State) (port : Nat) : State :=
  let l := getLink s port
  let n := l.naksSent + 1
  let s := modLink s port (fun l => { l with waiting := some l.rxSseq, naksSent := n, lastNak := s.tb.time, naks := satUp l.naks 1 0xFF })
  let s := emit (bumpPort s port 5 1) (.linkCtl port 0x78 (l.rxSseq % 2 ^ 24))
  if 8 ≤ n then portFails s port else s

/-- A tag failed though every codeword decoded: counted, posted, and three within 1 ms take the port out. -/
def tagFailure (s : State) (port : Nat) : State :=
  let now := s.tb.time
  let times := (getLink s port).tagTimes.filter (fun t => now < t + msU) ++ [now]
  let s := modLink s port (fun l => { l with tagFails := satUp l.tagFails 1 0xF, tagTimes := times })
  let s := record s { source := srcPort port, event := evSecurity, status := stCheckFailed, location := BitVec.ofNat 64 port }
  if 3 ≤ times.length then portFails s port else sendNak s port

/-- The segment is the one wanted, under the phase in force or the first of new keys. -/
def wanted (l : LinkPort) (sseq : Nat) (kph : Bool) : Bool :=
  (kph = l.rxKph && sseq = l.rxSseq) || (kph ≠ l.rxKph && l.newKeys && sseq = 0)

/-- A segment is accepted: its number, its acknowledgement and what it releases. -/
def acceptSegment (s : State) (port sseq : Nat) (kph : Bool) (items : List SegItem) : State :=
  let l := getLink s port
  let s := modLink s port (fun l => dropOldKeys { l with
    rxSseq := sseq + 1
    rxKph := kph
    newKeys := l.newKeys && kph = l.rxKph
    naksSent := 0
    afterResume := decide (l.resumeAt = some sseq)
    resumeAt := none
    unacked := l.unacked + 1
    unackedSince := if l.unacked = 0 then s.tb.time else l.unackedSince })
  let s := if 8 ≤ l.unacked + 1 then sendAckOf s port else s
  if port < 64 then items.foldl (releaseItem port) s else items.foldl hostItem s

/-- SEGMENT_RECEIVE (R341, R342). While a RESUME is awaited everything else is discarded. -/
def execSegmentReceive (port : Fin 65) (sseq : Nat) (kph : Bool) (v : SegVerdict) (items : List SegItem) (s : State) : Result :=
  let p := port.val
  let l := getLink s p
  .next (
    if l.st ≠ .active then s
    else
      let s := bumpPort s p 4 v.corrected
      let s := modLink s p (fun l => { l with cwCorr := satUp l.cwCorr v.corrected 0xFFFF, cwUncorr := if v.codewordsOk then l.cwUncorr else satUp l.cwUncorr 1 0xFF })
      if l.waiting.isSome then s
      else if v.codewordsOk && v.blocksOk && v.closingOk sseq kph && wanted l sseq kph then
        if v.tagOk then acceptSegment s p sseq kph items else tagFailure s p
      else if v.codewordsOk && !v.tagOk then tagFailure s p
      else sendNak s p)

/-- ACK_TIMER (R342): 100 ns after an accepted segment not yet acknowledged. -/
def execAckTimer (port : Fin 65) (s : State) : Result :=
  let l := getLink s port.val
  .next (if l.st = .active && decide (0 < l.unacked) && decide (l.unackedSince + 100 * nsU ≤ s.tb.time) then sendAckOf s port.val else s)

/-- NAK_RESEND_TIMER (R342). -/
def execNakResendTimer (port : Fin 65) (s : State) : Result :=
  let l := getLink s port.val
  .next (if l.st = .active && l.waiting.isSome && decide (l.lastNak + usU ≤ s.tb.time) then sendNak s port.val else s)

/-- RESUME (R342): the one that names the wanted segment ends the wait; any other is discarded. -/
def execResume (port : Fin 65) (sseq : BitVec 24) (s : State) : Result :=
  .next (match (getLink s port.val).waiting with
    | some w => if w % 2 ^ 24 = sseq.toNat then modLink s port.val (fun l => { l with waiting := none, resumeAt := some w }) else s
    | none => s)

/-! ## Transmitting again (R342, R343) -/

/-- Drop the segments that an ACK naming the next one covers. -/
def ackDrop (n : Nat) (l : List Seg) : List Seg :=
  match l.findIdx? (fun g => (g.sseq + 1) % 2 ^ 24 = n) with
  | some i => l.drop (i + 1)
  | none => l

/-- A port that a LINK_DROP drill empties leaves service once nothing is queued and every segment is acknowledged (R500). -/
def finishDrop (s : State) (port : Nat) : State :=
  let l := getLink s port
  if l.dropping && l.st = .active && l.replay.isEmpty && outCells s port = 0 then portFails s port else s

/-- ACK (R342). -/
def execAck (port : Fin 65) (sseq : BitVec 24) (s : State) : Result :=
  let l := getLink s port.val
  let held := ackDrop sseq.toNat l.replay
  .next (
    if l.st = .active then
      let s := modLink s port.val (fun l => dropOldKeys { l with replay := held })
      if port.val = 64 then hostAcked s ((l.replay.take (l.replay.length - held.length)).map (fun g => (g.kph, g.sseq)))
      else finishDrop (pushCredits s port.val) port.val
    else s)

/-- NAK (R342): RESUME, and every segment held from the one named; one not held takes the port out of service. -/
def execNak (port : Fin 65) (sseq : BitVec 24) (s : State) : Result :=
  let p := port.val
  let l := getLink s p
  let again := match l.resumed with
    | some r => r.1 = sseq.toNat && decide (s.tb.time < r.2 + usU)
    | none => false
  .next (
    if l.st ≠ .active || again then s
    else match l.replay.findIdx? (fun g => g.sseq % 2 ^ 24 = sseq.toNat) with
      | none => portFails s p
      | some i =>
        let s := modLink s p (fun l => { l with resumed := some (sseq.toNat, s.tb.time) })
        let s := emit (bumpPort s p 6 (l.replay.length - i)) (.linkCtl p 0x87 sseq.toNat)
        emitAll s ((l.replay.drop i).map (fun g => .segment p g)))

/-! ## Training (R270, R347 to R350) -/

/-- The port is in use: its peer lies in the extent and PORT_EN has not cleared it; before the join every port is (R270, R289, R468). The host link always is. -/
def portUsed (s : State) (port : Nat) : Bool :=
  s.pins.transmitters &&
  (decide (64 ≤ port) || (!s.ctl.trust.recovery && match s.net.route.cur with
    | none => true
    | some b => b.portEn.getLsbD port && inExtent b (oePeer s (port / 4))))

/-- PORT_LIGHT (R347, R348): both ends have carriers; clock recovery begins. -/
def execPortLight (port : Fin 65) (s : State) : Result :=
  let l := getLink s port.val
  .next (
    if (l.st = .off || l.st = .light) && portUsed s port.val && decide (l.retryAt ≤ s.tb.time) then
      modLink s port.val (fun l => { l with st := .lock, since := s.tb.time })
    else s)

def laneDefault (s : State) : Lane := { peak := s.ctl.records.peak }

def getLane (s : State) (i : Nat) : Lane := Tab.getD s.net.lanes i (laneDefault s)

def modLane (s : State) (i : Nat) (f : Lane → Lane) : State :=
  { s with net := { s.net with lanes := Tab.set s.net.lanes i (f (getLane s i)) } }

/-- LOCK_ACQUIRED (R348, R351). -/
def execLockAcquired (port : Fin 65) (s : State) : Result :=
  .next (
    if (getLink s port.val).st = .lock then
      (List.range 8).foldl (fun s i => modLane s (8 * port.val + i) (fun l => { l with cdrLock := true }))
        (modLink s port.val (fun l => { l with st := .eq }))
    else s)

/-- LOCK_TIMEOUT (R348): 10 ms without LOCK; the next try is 100 ms after this one began. -/
def execLockTimeout (port : Fin 65) (s : State) : Result :=
  let l := getLink s port.val
  .next (
    if l.st = .lock && decide (l.since + 10 * msU ≤ s.tb.time) then
      modLink s port.val (fun l => { l with st := .light, retryAt := l.since + 100 * msU })
    else s)

/-- Runs of clean codes: first code and length, of 25. -/
def cleanRuns (v : BitVec 25) : Nat → Nat → Option Nat → List (Nat × Nat)
  | 0, k, some a => [(a, k - a)]
  | 0, _, none => []
  | fuel + 1, k, none => if v.getLsbD k then cleanRuns v fuel (k + 1) (some k) else cleanRuns v fuel (k + 1) none
  | fuel + 1, k, some a => if v.getLsbD k then cleanRuns v fuel (k + 1) (some a) else (a, k - a) :: cleanRuns v fuel (k + 1) none

/-- The middle of the longest run, the lower code of an even one; where no code is clean, or two runs are longest, the choice is free (log entry 20). -/
def chooseCode (s : State) (v : BitVec 25) : Nat × State :=
  let rs := cleanRuns v 25 0 none
  let m := (rs.map Prod.snd).foldl max 0
  let best := (rs.filter (fun r => r.2 = m)).map (fun r => r.1 + (r.2 - 1) / 2)
  match best with
  | [c] => (c, s)
  | [] => let f := takeFree s; (f.1.toNat % 25, f.2)
  | _ => let f := takeFree s; (best.getD (f.1.toNat % best.length) 0, f.2)

/-- EQ_COMPLETE (R350). -/
def execEqComplete (port : Fin 65) (clean : List (BitVec 25)) (s : State) : Result :=
  .next (
    if (getLink s port.val).st = .eq then
      (List.range 8).foldl (fun s i =>
        if (getLane s (8 * port.val + i)).auto then
          let c := chooseCode s (clean.getD i 0)
          modLane c.2 (8 * port.val + i) (fun l => { l with peak := c.1 })
        else s) (modLink s port.val (fun l => { l with st := .deskew }))
    else s)

/-- This end's LK_KEYX or LK_REKEY: a random value, a public key, the fabric credential and a signature (R352, R353, R363). -/
def sendKeyx (s : State) (port : Nat) (opcode : BitVec 8) : State :=
  let r := takeBytes s 32
  let q := takeBytes r.2 97
  let g := takeBytes q.2 96
  emit (modLink g.2 port (fun l => { l with ownRandom := r.1 })) (.keyx port opcode { random := r.1, pub := q.1, cred := s.ctl.trust.fc, sig := g.1 })

/-- DESKEW_COMPLETE (R349): the lower of the two levels; 0 is no common level, and a lane out of order starts again. -/
def execDeskewComplete (port : Fin 65) (peerLevel : BitVec 4) (lanesInOrder : Bool) (s : State) : Result :=
  .next (
    if (getLink s port.val).st ≠ .deskew then s
    else if !lanesInOrder then portTo s port.val .light 0
    else if min 1 peerLevel.toNat = 0 then portTo s port.val .levelFailed (s.tb.time + 10 * secU)
    else sendKeyx (modLink s port.val (fun l => { l with st := .keying, level := 1 })) port.val 0xF0)

/-! ## Keys (R352, R353, R363, R419) -/

/-- The peer's credential and signature pass. The host adapter sends none. -/
def peerOk (s : State) (port : Nat) (chainOk sigOk : Bool) (opDigest : Word) (notBefore : Nat) : Bool :=
  decide (64 ≤ port) ||
  (chainOk && sigOk && opDigest = keyDigest s.ctl.trust.opKey &&
    match timeOfDay s with
    | some t => decide (notBefore ≤ t + 60)
    | none => true)

/-- The port's peer failed: held, and tried again every 10 s. -/
def authFails (s : State) (port : Nat) : State :=
  record (portTo s port .authFailed (s.tb.time + 10 * secU))
    { source := srcPort port, event := evSecurity, status := stCheckFailed, location := BitVec.ofNat 64 port }

/-- Packets that came on a port before it was trained anew hold no credit of the new grant (R306). -/
def regrant (s : State) (port : Nat) : State :=
  let fixA := fun a : Arrived => { a with vc := 10 }
  let s := { s with net := { s.net with
    ports := Tab.mapVals s.net.ports (fun _ x => { x with
      queues := x.queues.map (fun q => (q.1, q.2.map (fun l => match l.origin with
        | some o => if o.1 = port then { l with origin := some (port, 10) } else l
        | none => l))) }) } }
  modPort s port (fun x => { x with
    staging := x.staging.map (fun q => (q.1, q.2.map fixA))
    residue := x.residue.map (fun e => (e.1, { e.2 with vc := 10 }))
    spent := [], creditSeen := [], returned := [], creditSent := [] })

/-- A port enters service with the full credits of R305; its group is UP (R272, R348). -/
def portActive (s : State) (port : Nat) : State :=
  let s := endDrill (modLink s port (fun l => { l with st := .active })) (srcPort port)
  if port < 64 then unstick (modOe (regrant s port) (port / 4) (fun g => { g with st := .up, probeSent := none })) else s

/-- The port tells its peer where it stands (R270). -/
def sendIdent (s : State) (port : Nat) : State := emit s (.ident port (hereC s) (port / 4) (port % 4))

/-- The slot in which a peer places this module (R269). -/
def engineOfHere (s : State) (oe : Nat) : Nat :=
  let c := coordGet (hereC s) (oeDim oe)
  (oeDim oe).base + (if c < oePeerCoord s oe then c else c - 1)

/-- The info string of a port's keys: the two FD node numbers, the lower first, then each end's engine and port number; for the host link the module identity digest (R352, R363; DESIGN CHOICE of their widths and of the peer's place, log entry 5). -/
def keyInfo (s : State) (port : Nat) : List Byte :=
  if 64 ≤ port then infoHost ++ leBytes 8 s.ctl.trust.identity.toNat
  else
    let peer := coordNode (oePeer s (port / 4)) 4
    let here := [port / 4, port % 4]
    let there := [engineOfHere s (port / 4), port % 4]
    let ends := if (fdNode s).toNat < peer.toNat then here ++ there else there ++ here
    infoLink ++ leBytes 4 (min (fdNode s).toNat peer.toNat) ++ leBytes 4 (max (fdNode s).toNat peer.toNat) ++ ends.map (BitVec.ofNat 8)

/-- The keys of an exchange: the shared secret and the peer's random value are free values (log entry 5). The host's random value comes before the module's. -/
def newLinkKeys (s : State) (port : Nat) : LinkKeys × State :=
  let x := takeBytes s 48
  let r := takeBytes x.2 32
  let lower := decide (port < 64) && decide ((fdNode s).toNat < (coordNode (oePeer s (port / 4)) 4).toNat)
  (deriveKeys x.1 (getLink s port).ownRandom r.1 (keyInfo s port) lower, r.2)

/-- LK_KEYX (R270, R352, R363). -/
def execLkKeyx (port : Fin 65) (chainOk sigOk : Bool) (opDigest : Word) (notBefore : Nat) (s : State) : Result :=
  .next (
    if (getLink s port.val).st ≠ .keying then s
    else if !peerOk s port.val chainOk sigOk opDigest notBefore then authFails s port.val
    else
      let f := newLinkKeys s port.val
      let s := modLink f.2 port.val (fun l => { clearLink l .ident with keyed := true, keyedAt := s.tb.time, keys := f.1 })
      if port.val = 64 then portActive s 64 else sendIdent s port.val)

/-- Every port of the group is held MISWIRED (R272). -/
def allMiswired (s : State) (oe : Nat) : Bool :=
  ([4 * oe, 4 * oe + 1, 4 * oe + 2, 4 * oe + 3]).all (fun p => (getLink s p).st = .miswired)

/-- IDENT_CHECK (R270, R347, R357). -/
def execIdentCheck (port : Fin 64) (peer : Coord) (oe : Fin 16) (index : Fin 4) (s : State) : Result :=
  let p := port.val
  let k := p / 4
  .next (
    if (getLink s p).st ≠ .ident then s
    else
      let s := modLink s p (fun l => { l with peerPort := index.val })
      if peer = oePeer s k && oe.val = engineOfHere s k && index.val = p % 4 then portActive s p
      else
        let s := modLink s p (fun l => { l with st := .miswired })
        if allMiswired s k then modOe s k (fun g => { g with st := .miswired }) else s)

/-- TRAINING_RETRY (R347): every 10 s. -/
def execTrainingRetry (port : Fin 65) (s : State) : Result :=
  let l := getLink s port.val
  .next (
    if (l.st = .authFailed || l.st = .levelFailed) && decide (l.retryAt ≤ s.tb.time) then
      modLink s port.val (fun l => { l with st := .light, since := s.tb.time })
    else s)

/-- 2^32 segments in one direction, or 24 hours. -/
def rekeyDue (l : LinkPort) (now : Nat) : Bool :=
  decide (2 ^ 32 ≤ l.txSseq) || decide (2 ^ 32 ≤ l.rxSseq) || decide (l.keyedAt + 86400 * secU ≤ now)

/-- REKEY_START (R353). -/
def execRekeyStart (port : Fin 65) (s : State) : Result :=
  let l := getLink s port.val
  .next (
    if l.st = .active && l.keyed && !l.rekeying && rekeyDue l s.tb.time then
      sendKeyx (modLink s port.val (fun l => { l with rekeying := true })) port.val 0xF1
    else s)

/-- LK_REKEY (R353): this end answers with its own where it has not sent it; then the next segment takes the new key, the other phase and SSEQ 0. -/
def execLkRekey (port : Fin 65) (chainOk sigOk : Bool) (opDigest : Word) (notBefore : Nat) (s : State) : Result :=
  let p := port.val
  let l := getLink s p
  .next (
    if l.st ≠ .active then s
    else if !peerOk s p chainOk sigOk opDigest notBefore then authFails s p
    else
      let s := if l.rekeying then s else sendKeyx s p 0xF1
      let f := newLinkKeys s p
      modLink f.2 p (fun l => { l with rekeying := false, newKeys := true, keyedAt := s.tb.time, keys := f.1, oldKeys := some l.keys, kph := !l.kph, txSseq := 0 }))

/-! ## Optical feeds (R356, R361) -/

def getOptic (s : State) (k : Nat) : Optic := Tab.getD s.net.optics k {}

def modOptic (s : State) (k : Nat) (f : Optic → Optic) : State :=
  { s with net := { s.net with optics := Tab.upd s.net.optics k {} f } }

/-- A power in units of 0.25 dB as LK_OE_STAT holds it. -/
def feedField (x : Int) : BitVec 8 := if x ≤ -128 then 0x80 else BitVec.ofInt 8 (min 127 x)

/-- Successive measurements below +14 dBm. -/
def lowRun (n : Nat) (x : Int) : Nat := if x < 56 then n + 1 else 0

/-- The mode after a measurement: 0 SPLIT, 1 A_ONLY, 2 B_ONLY, 3 NONE. An engine never goes back to SPLIT. -/
def feedMode (mode lowA lowB : Nat) : Nat :=
  let a := decide (2 ≤ lowA)
  let b := decide (2 ≤ lowB)
  if mode = 0 then (if a && b then 3 else if a then 2 else if b then 1 else 0)
  else if mode = 1 then (if a then 3 else 1)
  else if mode = 2 then (if b then 3 else 2)
  else 3

/-- Ports of the engine that a change of mode takes from their light: the moved ones, or all. -/
def feedMoves (old new : Nat) : List Nat :=
  if old = new then [] else if new = 3 then [0, 1, 2, 3] else if new = 2 then [0, 1] else [2, 3]

/-- Which ports receive carriers. -/
def feedLit (mode lowA lowB : Nat) : BitVec 4 :=
  let a := decide (lowA < 2)
  let b := decide (lowB < 2)
  if mode = 0 then (if a then 3 else 0) ||| (if b then 12 else 0)
  else if mode = 1 then (if a then 15 else 0)
  else if mode = 2 then (if b then 15 else 0)
  else 0

/-- FEED_MEASURE (R356): powers of the weakest wavelength of each feed, in units of 0.25 dB. -/
def execFeedMeasure (oe : Fin 16) (powerA powerB : Int) (s : State) : Result :=
  let k := oe.val
  let o := getOptic s k
  let la := lowRun o.lowA powerA
  let lb := lowRun o.lowB powerB
  let m := feedMode o.mode la lb
  let moved := feedMoves o.mode m
  let switched := !moved.isEmpty && m ≠ 3
  let s := modOptic s k (fun o => { o with
    feedA := feedField powerA
    feedB := feedField powerB
    lowA := la
    lowB := lb
    mode := m
    lit := feedLit m la lb
    switchovers := if switched then satUp o.switchovers 1 0xFF else o.switchovers })
  let s := if switched then record s { source := srcKind 8 k, event := evFeedSwitch, location := BitVec.ofNat 64 k } else s
  .next (moved.foldl (fun s i => portFails s (4 * k + i)) s)

/-! ## Lane registers (R360, R366) -/

/-- A write of LK_LANE or HL_LANE; PEAK above 24 is reserved (R9). -/
def writeLane (s : State) (i : Nat) (value : Word) : Option State :=
  let peak := (value.extractLsb' 0 5).toNat
  if 24 < peak then none else some (modLane s i (fun l => { l with auto := value.getLsbD 8, peak := peak }))

/-- LK_LANE_WRITE (R360). -/
def execLkLaneWrite (index : Fin 512) (value : Word) (s : State) : Result := .next ((writeLane s index.val value).getD s)

end Sys2Proof.Machine
end

