-- ==== Sys2Proof/Machine/Time.lean ====
section
/-! DEFINITION. Fabric time: the tick, the choice of grandmaster and parent, the exchange of timestamps, holdover and the pulse per second (R251 to R261, R535). -/

namespace Sys2Proof.Machine

/-- The nominal increment: 128 units per always-on cycle of 31.25 MHz, in parts of 2^-32 of a unit (R251). -/
def incNominal : Nat := 549755813888

/-- 100 ppm of it (R252). -/
def incSpan : Nat := 54975581

/-- A steered increment: a count that is ahead by `x` goes no faster than before, one that is behind no slower; the law is not told, its bound is (R252, R256; log entries 3 and 99). -/
def steer (s : State) (x : Int) : State :=
  let f := takeFree s
  let low := if x ≤ 0 then s.tb.inc else incNominal - incSpan
  let high := if 0 ≤ x then s.tb.inc else incNominal + incSpan
  { f.2 with tb := { f.2.tb with inc := low + f.1.toNat % (high - low + 1) } }

/-- Fabric time at the start of the next always-on cycle. -/
def tickTime (s : State) : State :=
  let t := cycleEnd s % 2 ^ 64
  { s with tb := { s.tb with time := t, base := t, frac := (s.tb.frac + s.tb.inc) % 2 ^ 32 } }

/-- The count steps by -x. That is no passage of time, so every instant that the time base keeps moves with it (log entry 99). -/
def stepTime (s : State) (x : Int) : State :=
  let move (t : Nat) := ((t : Int) - x).toNat % 2 ^ 64
  { s with tb := { s.tb with
      time := move s.tb.time
      base := move s.tb.base
      heard := Tab.mapVals s.tb.heard (fun _ h => { h with at_ := move h.at_ })
      lastAnnounce := move s.tb.lastAnnounce
      lastSync := move s.tb.lastSync
      lostAt := move s.tb.lostAt
      ppsRise := move s.tb.ppsRise
      lastPpsIn := s.tb.lastPpsIn.map move } }

/-- FABRIC_TIME_TICK (R251): the running clocks' cycles of the always-on cycle that ends are counted (R266); an ARRIVE that a drill has held long enough goes up (R500). -/
def execFabricTimeTick (s : State) : Result :=
  let s := tickTime (runClocks s)
  .next ((heldDue s).foldl tryArrive s)

/-! ## Grandmaster and parent (R254, R258) -/

/-- An offer of a grandmaster, or this module's own candidacy, in the order of R254. -/
structure Offer where
  prio : Nat
  gm : Nat
  hops : Nat
  port : Nat
  deriving DecidableEq, Repr

def offerKey (o : Offer) : Nat := ((o.prio * 2 ^ 20 + o.gm) * 16 + o.hops) * 64 + o.port

/-- The offers of the neighbours heard within the last three announcements, of a grandmaster other than this module, over a link in service. -/
def offers (s : State) : List Offer :=
  (s.tb.heard.filter (fun h => h.2.prio ≠ 0xFF && h.2.gm ≠ fdNode s && decide (h.2.hops < 4) && decide (s.tb.time < h.2.at_ + 3 * msU) && (getLink s h.1).st = .active)).map
    (fun h => { prio := h.2.prio.toNat, gm := h.2.gm.toNat, hops := h.2.hops, port := h.1 })

def bestOffer (l : List Offer) : Option Offer :=
  l.foldl (fun b o => match b with
    | none => some o
    | some x => if offerKey o < offerKey x then some o else some x) none

/-- This module is eligible and no neighbour offers a better grandmaster. -/
def selfBest (s : State) (b : Option Offer) : Bool :=
  s.tb.prioInForce ≠ 0xFF && (match b with
    | none => true
    | some o => decide (s.tb.prioInForce.toNat * 2 ^ 20 + (fdNode s).toNat < o.prio * 2 ^ 20 + o.gm))

/-- The module is the grandmaster. -/
def becomeGm (s : State) : State :=
  if s.tb.st = .grandmaster then { s with tb := { s.tb with gmNode := fdNode s, gmPrio := s.tb.prioInForce } }
  else { s with tb := { s.tb with st := .grandmaster, gmNode := fdNode s, gmPrio := s.tb.prioInForce, hops := 0, parent := 0, goodRun := 0, syncT1 := none } }

/-- The module takes a parent. -/
def takeParent (s : State) (o : Offer) (st : TbSt) : State :=
  { s with tb := { s.tb with st := st, gmNode := BitVec.ofNat 20 o.gm, gmPrio := BitVec.ofNat 8 o.prio, hops := o.hops + 1, parent := o.port, goodRun := 0, syncT1 := none, ppsLock := false } }

/-- The parent is gone: HOLDOVER at once, at the last rate. -/
def holdOver (s : State) : State :=
  { s with tb := { s.tb with st := .holdover, lostAt := s.tb.time, goodRun := 0, syncT1 := none, ppsLock := false, slewOnly := true } }

/-- No grandmaster is offered: the count runs from REFCLK alone (R254, R257). -/
def becomeFree (s : State) : State :=
  { s with tb := { s.tb with st := .free, gmNode := 0, gmPrio := 0, hops := 0, parent := 0, goodRun := 0, syncT1 := none, ppsLock := false, inc := incNominal } }

/-- The parent has missed three announcements, or its link is down. -/
def parentGone (s : State) : Bool :=
  (getLink s s.tb.parent).st ≠ .active || (match Tab.find s.tb.heard s.tb.parent with
    | some h => decide (h.at_ + 3 * msU ≤ s.tb.time)
    | none => true)

/-- The parent's offer says that it is SYNCED or GRANDMASTER. -/
def parentGood (s : State) : Bool :=
  match Tab.find s.tb.heard s.tb.parent with
  | some h => h.state = 2 || h.state = 4
  | none => false

/-- The parent goes on offering: what it says of its grandmaster is taken over, and a module whose parent is not synchronised is not SYNCED (R257). -/
def followParent (s : State) (o : Offer) : State :=
  { s with tb := { s.tb with
      gmNode := BitVec.ofNat 20 o.gm, gmPrio := BitVec.ofNat 8 o.prio, hops := o.hops + 1
      st := if parentGood s then s.tb.st else .acquire } }

/-- What a neighbour's offers make of a module that has not lost its parent. -/
def elect (s : State) : State :=
  let b := bestOffer (offers s)
  match s.tb.st with
  | .holdover => s
  | .free | .grandmaster =>
    if selfBest s b then becomeGm s
    else (match b with
      | some o => takeParent s o .acquire
      | none => becomeFree s)
  | .acquire =>
    if selfBest s b then becomeGm s
    else (match b with
      | some o => if o.port = s.tb.parent then followParent s o else takeParent s o .acquire
      | none => if parentGone s then s else becomeFree s)
  | .synced =>
    if selfBest s b then becomeGm s
    else (match b with
      | some o =>
        if o.port = s.tb.parent then followParent s o
        else if o.gm = s.tb.gmNode.toNat then takeParent s o .synced
        else holdOver s
      | none => if parentGone s then s else becomeFree s)

/-- The code of STATE (R257). -/
def tbCode : TbSt → Nat
  | .free => 0
  | .acquire => 1
  | .synced => 2
  | .holdover => 3
  | .grandmaster => 4

/-- ANNOUNCE (R254): an offer is heard, and the choice is made again. -/
def execAnnounce (port : Fin 64) (gm : BitVec 20) (prio : BitVec 8) (hops : Nat) (state : BitVec 3) (s : State) : Result :=
  .next (elect { s with tb := { s.tb with heard := Tab.set s.tb.heard port.val { gm := gm, prio := prio, hops := hops, state := state, at_ := s.tb.time } } })

/-- External ports that carry time packets: those in service, and those held MISWIRED (R255, R270). -/
def activePorts (s : State) : List Nat := (List.range 64).filter (fun p => (getLink s p).st = .active || (getLink s p).st = .miswired)

/-- What this module announces; with no grandmaster its PRIO field tells that none is offered. -/
def announceBytes (s : State) : List Byte :=
  let none_ := s.tb.st = .free
  leBytes 4 s.tb.gmNode.toNat ++ leBytes 1 (if none_ then 0xFF else s.tb.gmPrio.toNat) ++ leBytes 1 s.tb.hops ++ leBytes 1 (tbCode s.tb.st)

/-- ANNOUNCE_SEND (R255, R257): every 1 ms; a PRIO that was written takes effect now. -/
def execAnnounceSend (s : State) : Result :=
  .next (
    if s.tb.time < s.tb.lastAnnounce + msU then s
    else
      let s := elect { s with tb := { s.tb with prioInForce := s.tb.prio, lastAnnounce := s.tb.time } }
      emitAll s ((activePorts s).map (fun p => .neighbour p 0xD0 (announceBytes s))))

/-- PARENT_LOST (R258). -/
def execParentLost (s : State) : Result :=
  .next (if (s.tb.st = .acquire || s.tb.st = .synced) && parentGone s then
      holdOver { s with tb := { s.tb with heard := Tab.erase s.tb.heard s.tb.parent } }
    else s)

/-- PARENT_SELECT (R254, R258): a module in HOLDOVER takes the best parent offered, or becomes the grandmaster; it slews and does not step. -/
def execParentSelect (s : State) : Result :=
  .next (
    if s.tb.st ≠ .holdover then s
    else
      let b := bestOffer (offers s)
      if selfBest s b then becomeGm s
      else match b with
        | some o => takeParent s o .acquire
        | none => s)

/-! ## Timestamps (R256) -/

/-- SYNC_REQ_SEND (R255): every 125 us to the parent. -/
def execSyncReqSend (s : State) : Result :=
  .next (
    if !(s.tb.st = .acquire || s.tb.st = .synced) || decide (s.tb.time < s.tb.lastSync + 125 * usU) then s
    else
      let s := passTime s
      emit { s with tb := { s.tb with syncT1 := some s.tb.time, lastSync := s.tb.time } } (.neighbour s.tb.parent 0xD1 (leBytes 8 s.tb.time)))

/-- SYNC_REQ (R256): the parent answers with t1, t2 and t3; one that follows a RESUME is discarded (R342). -/
def execSyncReq (port : Fin 64) (t1 : Word) (s : State) : Result :=
  .next (
    if (getLink s port.val).afterResume then s
    else
      let s2 := passTime s
      let s3 := passTime s2
      emit s3 (.neighbour port.val 0xD2 (leBytes 8 t1.toNat ++ leBytes 8 s2.tb.time ++ leBytes 8 s3.tb.time)))

/-- OFFSET as TB_STAT holds it: signed and saturating. -/
def satOffset (x : Int) : BitVec 16 := BitVec.ofInt 16 (max (-32768) (min 32767 x))

/-- An offset is taken: a step where stepping is allowed and the offset is beyond 0.5 ns, else a slew; 64 good offsets in a row synchronise, and one that is not ends SYNCED (R252, R257, log entry 99). -/
def takeOffset (s : State) (x : Int) : State :=
  let good := decide (-2 ≤ x) && decide (x ≤ 2)
  let run := if good then s.tb.goodRun + 1 else 0
  let steps := s.tb.st = .acquire && !s.net.route.joined && !s.tb.slewOnly && !good
  let s := { s with tb := { s.tb with offset := satOffset x, goodRun := run, syncT1 := none } }
  let s := if steps then stepTime s x else steer s x
  if s.tb.st = .acquire && decide (64 ≤ run) && parentGood s then { s with tb := { s.tb with st := .synced } }
  else if s.tb.st = .synced && !good then { s with tb := { s.tb with st := .acquire } }
  else s

/-- SYNC_RESP (R256): the offset from the parent, less the link's asymmetry. A response that follows a RESUME, or answers no request, is discarded. -/
def execSyncResp (port : Fin 64) (t1 t2 t3 : Word) (afterResume : Bool) (s : State) : Result :=
  .next (
    if afterResume || !(s.tb.st = .acquire || s.tb.st = .synced) || port.val ≠ s.tb.parent || s.tb.syncT1 ≠ some t1.toNat then s
    else
      let s := passTime s
      let a : Int := ((t1.toNat : Int) - t2.toNat) + ((s.tb.time : Int) - t3.toNat)
      takeOffset s (a / 2 - Tab.getD s.ctl.records.asym port.val 0))

/-! ## Pulse per second (R259 to R261, R535) -/

/-- How far a count is past the nearest second boundary; below 0, how far it is short of it. -/
def boundaryDist (t : Nat) : Int := if t % secU ≤ secU / 2 then ((t % secU : Nat) : Int) else ((t % secU : Nat) : Int) - (secU : Nat)

/-- PPS_IN_EDGE (R260, R535): one within 0.5 s of the last accepted edge is ignored, as is every edge at a module that does not use PPS_IN. -/
def execPpsInEdge (s : State) : Result :=
  let soon := match s.tb.lastPpsIn with
    | some t => decide (s.tb.time < t + secU / 2)
    | none => false
  .next (
    if s.tb.st ≠ .grandmaster || !s.tb.ppsInEn || soon then s
    else
      let s := passTime s
      let s := { s with tb := { s.tb with lastPpsIn := some s.tb.time } }
      let x := boundaryDist s.tb.time
      if x.natAbs ≤ usU then steer { s with tb := { s.tb with ppsLock := true } } x
      else { s with tb := { s.tb with ppsLock := false, inc := incNominal } })

/-- PPS_LOSS (R260): no edge for 2 s. -/
def execPpsLoss (s : State) : Result :=
  let since := match s.tb.lastPpsIn with
    | some t => decide (t + 2 * secU ≤ s.tb.time)
    | none => true
  .next (if s.tb.ppsLock && since then { s with tb := { s.tb with ppsLock := false, inc := incNominal } } else s)

/-- The first second boundary at or after the start of the present always-on cycle (R259). -/
def boundaryHere (s : State) : Nat := (s.tb.base + secU - 1) / secU * secU

/-- SECOND_BOUNDARY (R259, R261): at a boundary of the present always-on cycle PPS_OUT rises, when enabled and synchronised. -/
def execSecondBoundary (s : State) : Result :=
  .next (
    match reachTime s (boundaryHere s) with
    | none => s
    | some r =>
      if s.tb.ppsOutEn && (s.tb.st = .synced || s.tb.st = .grandmaster) && !s.tb.ppsOut then
        { r with tb := { r.tb with ppsOut := true, ppsRise := boundaryHere s } }
      else s)

/-- PPS_OUT_FALL (R535): 100 ms after the rise, whatever STATE has become: a pulse completes. -/
def execPpsOutFall (s : State) : Result :=
  .next (if s.tb.ppsOut && decide (s.tb.ppsRise + 100 * msU ≤ s.tb.time) then { s with tb := { s.tb with ppsOut := false } } else s)

/-- A write of TB_CTRL (R8, R257): PRIO waits for the next ANNOUNCE. -/
def writeTbCtrl (s : State) (value : Word) : State :=
  let en := value.getLsbD 0
  { s with tb := { s.tb with prio := value.extractLsb' 8 8, ppsOutEn := value.getLsbD 1, ppsInEn := en, ppsLock := s.tb.ppsLock && en, inc := if s.tb.ppsLock && !en then incNominal else s.tb.inc } }

/-- TB_CTRL_WRITE (R257). -/
def execTbCtrlWrite (value : Word) (s : State) : Result := .next (writeTbCtrl s value)

end Sys2Proof.Machine
end

