-- ==== Sys2Proof/Machine/Regs.lean ====
section
/-! DEFINITION. The registers as REG_READ and REG_WRITE reach them: selectors, instances, what each register reads, and what a write of one does (R7 to R9, R392 to R394, and the rule of each register). -/

namespace Sys2Proof.Machine

/-- A value built of fields: position, width, contents. -/
def pack (fs : List (Nat × Nat × Nat)) : Word := BitVec.ofNat 64 ((fs.map (fun f => putN f.2.2 f.1 f.2.1)).sum)

/-! ## Defined sources (R486) -/

/-- Instances of each kind of source. -/
def sourceCount (kind : Nat) : Nat :=
  match kind with
  | 1 => 768
  | 2 | 3 => 4
  | 4 | 8 => 16
  | 5 => 52
  | 6 => 7
  | 7 => 65
  | 9 | 14 => 1
  | 10 | 12 => 3
  | 11 => 7
  | 13 => 64
  | _ => 0

def sourceDefined (id : Nat) : Bool := decide (id % 4096 < sourceCount (id / 4096))

/-- Every defined source, ascending. -/
def sourceIds : List Nat := (List.range 16).flatMap (fun k => (List.range (sourceCount k)).map (fun i => 4096 * k + i))

/-! ## Compute dies (R121, R132, R155, R186, R187) -/

def regCoreHealth (s : State) (i : Nat) : Word :=
  let c := Tab.getD s.compute.cores i {}
  pack [(32, 16, c.engRecomp), (16, 16, c.vecRecomp), (8, 1, bitN c.failed), (4, 4, c.engGated.toNat), (0, 4, c.fenced.toNat)]

def regClmap (s : State) (d : Nat) : Word :=
  let m := getMap s d
  pack ((48, 4, m.spare) :: (List.range 12).map (fun l => (4 * l, 4, physCluster s d l)))

def regMemErr (m : MemErr) : Word :=
  pack [(48, 16, m.ce), (40, 8, m.ue), (39, 1, bitN m.firstValid), (38, 1, bitN m.firstUe), (0, 36, m.firstLoc)]

def regEpErr (s : State) (d : Nat) : Word :=
  let e := getEp s d
  pack [(48, 16, e.resends), (40, 8, e.timeouts), (32, 8, e.indeterminate), (24, 8, e.violSrc), (16, 8, e.violHome), (0, 14, e.outst.length)]

def regReplay (s : State) (d : Nat) : Word :=
  let e := getEp s d
  pack [(32, 17, e.replayHigh), (0, 17, e.replay.length)]

/-! ## HBM (R143, R157) -/

def granCode : GranSt → Nat
  | .free => 0
  | .owned => 1
  | .scrubbing => 2
  | .retired => 3
  | .absent => 4

/-- Poisoned sectors of a granule. -/
def granPoisoned (s : State) (d g : Nat) : Nat :=
  let lo := memKey d (g * 2 ^ 34) / 32
  (s.mem.poison.filter (fun c => lo ≤ c && c < lo + 2 ^ 29)).length

def regGranule (s : State) (i : Nat) : Word :=
  let g := getGran s (i / 16) (i % 16)
  pack [(32, 16, g.owner.toNat), (16, 8, min 0xFF (granPoisoned s (i / 16) (i % 16))), (0, 3, granCode g.st)]

def regStack (s : State) (k : Nat) : Word :=
  let x := getStack s k
  pack [(56, 8, x.temp.toNat), (52, 4, x.therm), (32, 8, softLeft x), (24, 8, x.repairs), (0, 4, x.link)]

def regDieCtrl (s : State) (d : Nat) : Word :=
  let h := getHbm s d
  pack [(24, 8, h.periodH), (16, 4, h.inUse.toNat), (0, 16, h.passes)]

/-! ## Fabric die (R3, R22, R23) -/

def regIdent (s : State) : Word := pack [(16, 4, 1), (8, 8, s.rst.stepping.toNat), (0, 4, s.rst.variant.toNat)]

/-- Logical clusters in service. -/
def clustersUp (s : State) (d : Nat) : Nat := ((List.range 12).filter (fun l => physCluster s d l ≠ 0xF)).length

/-- A die's byte of FD_INVENTORY. -/
def dieByte (s : State) (d : Nat) : Nat :=
  putN (bitN (s.rst.dieUp.getLsbD d)) 7 1 + putN (bitN (s.rst.spareUsed.getLsbD d)) 6 1 + clustersUp s d

/-- An engine has a laser feed lit: feed A lights ports 0 and 1 in SPLIT, and either feed whatever port it reaches (R356). -/
def anyFeedLit (o : Optic) : Bool := o.mode ≠ 3 && o.lit ≠ 0

/-- Optical engines past bring-up with a feed lit (R22). -/
def oeOkBits (s : State) : Nat :=
  ((List.range 16).map (fun k => if s.rst.oeOk.getLsbD k && anyFeedLit (getOptic s k) then 2 ^ k else 0)).sum

def regInventory (s : State) : Word :=
  pack ((48, 16, oeOkBits s) :: (32, 16, s.rst.hbmOk.toNat) :: (List.range 4).map (fun d => (8 * d, 8, dieByte s d)))

/-! ## Switch (R271, R274, R281, R291, R300, R317, R318, R326, R327) -/

def grpCode : LinkGrpSt → Nat
  | .unused => 0
  | .down => 1
  | .up => 2
  | .miswired => 3
  | .lost => 4

def regGroupStat (s : State) (k : Nat) : Word :=
  let g := getOe s k
  pack [(24, 8, g.losses), (20, 4, ((oePortsUp s k).map (fun p => 2 ^ (p % 4))).sum), (16, 4, oePeerCoord s k), (14, 2, (oeDim k).code), (0, 3, grpCode g.st)]

def regCoord (s : State) : Word :=
  let r := s.net.route
  pack [(23, 1, bitN r.joined), (20, 2, r.source.toNat), (16, 4, r.w), (12, 4, r.x), (8, 4, r.y), (4, 4, r.z)]

/-- SW_EPOCH.STAGED: a staged bank has passed CHECK (R291). -/
def stagedBank (s : State) : Bool :=
  s.ctl.txns.any (fun t => t.checked && t.items.any (fun i => match i with
    | .route _ => true
    | _ => false))

def regEpoch (s : State) : Word :=
  let r := s.net.route
  let ex := fun d => match r.cur with
    | some b => b.extent d
    | none => 0
  let faulty := (match r.cur with
    | some b => b.faulty
    | none => false) || (r.oldLive && match r.old with
    | some b => b.faulty
    | none => false)
  pack [(48, 16, r.oldPkts), (28, 4, ex .w), (24, 4, ex .x), (20, 4, ex .y), (16, 4, ex .z), (7, 1, bitN (outsideExtent s)), (6, 1, bitN faulty),
    (5, 1, bitN (stagedBank s)), (4, 1, bitN r.oldLive),
    (2, 2, match r.old with
      | some b => b.epoch.toNat
      | none => 0),
    (0, 2, match r.cur with
      | some b => b.epoch.toNat
      | none => 0)]

def regRouteStat (s : State) : Word :=
  let r := s.net.route
  pack [(48, 16, r.waleEntries), (40, 8, r.unroutable), (32, 8, r.mcastDrops), (24, 8, r.boxRefused), (16, 8, r.noticesMade), (0, 7, r.lost.length)]

def regMeter (s : State) (k : Nat) : Word :=
  let m := Tab.getD s.net.meters k {}
  pack [(48, 16, m.pbs), (32, 16, m.cbs), (20, 12, m.pir), (8, 12, m.cir), (7, 1, bitN m.en), (0, 3, m.grade)]

def regProfile (s : State) (i : Nat) : Word :=
  let d := Tab.getD (getPort s (i / 8)).profiles (i % 8) {}
  pack [(60, 4, d.wexp), (52, 8, d.rMax), (44, 8, d.rMin), (40, 4, d.rMaxp), (32, 8, d.yMax), (24, 8, d.yMin), (20, 4, d.yMaxp), (12, 8, d.gMax), (4, 8, d.gMin), (0, 4, d.gMaxp)]

def regPortCtrl (s : State) (p : Nat) : Word :=
  let x := getPort s p
  pack [(32, 8, crowdKbOf s p), (12, 4, x.w3), (8, 4, x.w2), (4, 4, x.w1), (0, 4, x.w0)]

def regSwPort (s : State) (p : Nat) : Word :=
  let x := getPort s p
  pack [(48, 16, x.c3Drops), (32, 16, x.crowdMarks), (16, 16, x.combines), (8, 8, x.bufLost), (0, 8, x.peak)]

/-! ## Links (R359 to R361) -/

/-- Feed B lights the port. -/
def feedB (s : State) (p : Nat) : Bool :=
  let o := getOptic s (p / 4)
  o.lit.getLsbD (p % 4) && (o.mode = 2 || (o.mode = 0 && decide (2 ≤ p % 4)))

def regLkPort (s : State) (p : Nat) : Word :=
  let l := getLink s p
  pack [(48, 16, l.cwCorr), (40, 8, l.cwUncorr), (32, 8, l.naks), (28, 4, l.tagFails), (24, 4, l.malformed), (16, 8, l.losses), (12, 4, l.level),
    (8, 2, l.peerPort), (4, 1, bitN (feedB s p)), (0, 4, portCode l.st)]

def regLane (s : State) (i : Nat) : Word :=
  let l := getLane s i
  pack [(24, 8, l.rxPwr.toNat), (16, 8, l.berExp.toNat), (8, 1, bitN l.auto), (7, 1, bitN l.cdrLock), (0, 5, l.peak)]

def regOe (s : State) (k : Nat) : Word :=
  let o := getOptic s k
  pack [(56, 8, o.feedA.toNat), (48, 8, o.feedB.toNat), (40, 8, o.temp.toNat), (32, 2, o.mode), (24, 8, o.switchovers), (0, 4, o.lit.toNat)]

/-- The power and error ratio of a lane whose port is not OFF are measured at the read: free values (log entry 3). -/
def measureLane (s : State) (i : Nat) : State :=
  if (getLink s (i / 8)).st = .off then s
  else
    let f := takeFree s
    modLane f.2 i (fun l => { l with rxPwr := f.1.setWidth 8, berExp := f.1.extractLsb' 8 8 })

/-! ## Couch and collectives (R194, R213, R222, R250) -/

def ringCode : RingSt → Nat
  | .undefined => 0
  | .active => 1
  | .frozen => 2
  | .error => 3
  | .stopped => 4

def regRing (s : State) (r : Nat) : Word :=
  let x := getRing s r
  pack [(48, 16, x.owner.toNat), (40, 4, x.weight), (32, 3, ringCode x.st), (16, 16, x.cause.toNat), (0, 5, (x.prog.filter (fun p => p.code.isNone)).length)]

def regFlow (s : State) : Word :=
  pack [(48, 16, s.fab.retrans), (40, 8, s.fab.flowsFailed), (32, 8, s.fab.openBusy), (0, 21, flowsInUse s)]

def groupCode : GroupSt → Nat
  | .undefined => 0
  | .joining => 1
  | .ready => 2
  | .frozen => 3
  | .stopped => 4
  | .error => 5

def regGroup (s : State) (c : Nat) : Word :=
  let g := getGroup s c
  pack [(48, 16, g.gid.toNat), (40, 8, g.epoch.toNat), (37, 3, groupCode g.st), (16, 16, g.cause.toNat), (0, 16, g.lastBar)]

def regCollEngine (s : State) : Word :=
  let e := s.fab.coll
  pack [(48, 16, e.rereq), (40, 8, e.aborts), (32, 8, e.ruRecomp), (25, 7, e.fencedLanes.length), (24, 1, bitN s.pw.lent), (18, 6, e.late), (10, 8, e.discards),
    (0, 10, (s.fab.groups.filter (fun g => g.2.op.isSome)).length)]

/-! ## Time base (R257) -/

/-- PARENT_VALID. -/
def parentValid (s : State) : Bool := s.tb.st = .acquire || s.tb.st = .synced || s.tb.st = .holdover

def regTbStat (s : State) : Word :=
  pack [(44, 20, s.tb.gmNode.toNat), (40, 4, s.tb.hops), (34, 6, s.tb.parent), (33, 1, bitN (parentValid s)), (16, 16, s.tb.offset.toNat),
    (3, 1, bitN s.tb.ppsLock), (0, 3, tbCode s.tb.st)]

def regTbCtrl (s : State) : Word := pack [(8, 8, s.tb.prio.toNat), (1, 1, bitN s.tb.ppsOutEn), (0, 1, bitN s.tb.ppsInEn)]

/-! ## Host link (R365, R369) -/

def storeSize (c : Nat) : Nat := if c = 64 then 0x40000 else 0x10000

def storeUsed (x : Channel) : Nat := (x.tags.map (fun t => t.reserve)).sum

def regHl (s : State) : Word :=
  let l := getLink s 64
  let h := s.ctl.hl
  pack [(48, 16, h.accepted), (40, 8, h.rejected), (32, 8, h.sealFails), (24, 8, h.sigFails), (16, 8, l.losses), (12, 4, l.level), (4, 4, s.ctl.txns.length), (0, 4, portCode l.st)]

def regChan (s : State) (c : Nat) : Word :=
  let x := getChan s c
  pack [(48, 16, x.slice.toNat), (47, 1, bitN (chanSession s c)), (32, 9, x.tags.length), (16, 13, (storeSize c - storeUsed x) / 64), (8, 8, x.busy)]

/-! ## Trust (R429, R437 to R439) -/

/-- Open sessions. -/
def openSessions (s : State) : Nat := (s.ctl.slices.filter (fun e => e.2.session.isSome)).length

/-- The highest domain code of a reset in progress; 0 when none (R466). -/
def resetDomain (s : State) : Nat := (s.rst.busy.map Prod.fst).foldl max 0

/-- UPDATE_STAGED: a verified image is staged and not active (R429, R475). -/
def updateStaged (s : State) : Bool :=
  match s.ctl.fw.staged with
  | some x => x.verified
  | none => false

/-- STATE_FLAGS bits [15:0]. -/
def stateFlags (s : State) : Nat :=
  putN (resetDomain s) 12 4 + putN (bitN s.ctl.trust.recovery) 3 1 + putN (bitN s.ctl.trust.testUnlocked) 2 1 +
  putN (bitN (!s.rst.busy.isEmpty)) 1 1 + bitN (updateStaged s)

def regTr (s : State) (n : Nat) : Word :=
  match n with
  | 0 => pack [(32, 7, openSessions s), (0, 16, stateFlags s)]
  | 1 => pack [(43, 21, s.ctl.trust.attLeft), (22, 21, s.ctl.trust.idLeft), (0, 9, s.fab.mouldKeys.length)]
  | 2 => keyDigest s.ctl.trust.opKey
  | _ => BitVec.ofNat 64 s.ctl.trust.ocount

/-! ## Power (R460 to R463) -/

def pwFlags (s : State) : Nat :=
  putN (bitN (atFloor s)) 7 1 + putN (bitN s.pw.lent) 6 1 + putN (bitN s.pw.throttle) 5 1 + putN (bitN (decide (s.pw.selfBrake < 16))) 4 1 +
  putN (bitN (anyWarn s)) 3 1 + putN (bitN (s.caps.rackLow || s.caps.hostLow)) 2 1

def regPwStat (s : State) : Word :=
  pack [(48, 16, s.pw.power), (32, 16, s.pw.power10), (24, 8, s.pw.selfBrakes), (16, 8, s.pw.throttles), (0, 8, pwFlags s)]

def regPwCap (s : State) : Word := pack [(32, 16, s.caps.inForce), (16, 16, s.caps.rack), (0, 16, s.caps.host)]

def regPwRail (s : State) (k : Nat) : Word :=
  let r := Tab.getD s.rails k {}
  pack [(48, 16, r.current), (32, 16, r.voltage), (16, 16, r.target), (4, 4, r.faults), (0, 4, r.st)]

def regPwDie (s : State) (d : Nat) : Word :=
  let x := getPwDie s d
  pack [(56, 8, x.temp), (37, 11, dieFreq s d), (32, 5, dieDuty s d), (24, 4, dieHot s d), (16, 8, dieBudget s d / 4), (0, 2, x.pwr)]

/-! ## Debug (R520) -/

def regSampler (s : State) (k : Nat) : Word :=
  let x := Tab.getD s.ctl.samplers k {}
  let set := match x.cfg with
    | some c => c.set
    | none => 0
  pack [(48, 16, x.owner.toNat), (44, 4, set), (32, 3, x.st), (16, 16, x.missed), (0, 16, x.dropped)]

def regWm (s : State) (k : Nat) : Word :=
  let x := Tab.getD s.ctl.watermarks k {}
  pack [(48, 16, x.owner.toNat), (16, 32, x.step), (8, 8, x.mismatches), (0, 2, x.st)]

/-- One word of a unit ring's entry. -/
def regEvRing (s : State) (i : Nat) : Word :=
  let ring := Tab.getD s.fleet.rings (i / 1024) {}
  let e := (Tab.find ring.evs (i / 4 % 256)).getD { time := 0, cycle := 0, slice := 0xFFFF, status := 0, event := 0, location := 0 }
  match i % 4 with
  | 0 => BitVec.ofNat 64 e.time
  | 1 => e.cycle
  | 2 => pack [(48, 16, e.slice.toNat), (32, 16, e.status.toNat), (24, 8, e.event.toNat)]
  | _ => e.location

/-! ## Selectors (R392 to R394) -/

def selBlock (sel : Word) : Nat := (sel.extractLsb' 56 8).toNat
def selNumber (sel : Word) : Nat := (sel.extractLsb' 40 16).toNat
def selReserved (sel : Word) : Bool := sel.extractLsb' 32 8 ≠ 0
def selIndex (sel : Word) : Nat := (sel.extractLsb' 0 32).toNat

/-- Instances of a register; 0 for none. -/
def regInstances (block number : Nat) : Nat :=
  match block, number with
  | 1, 0 => 768
  | 1, 1 => 4
  | 1, 2 => 52
  | 1, 3 => 4
  | 1, 4 => 4
  | 2, 0 => 64
  | 2, 1 => 16
  | 2, 2 => 16
  | 2, 3 => 4
  | 3, 0 => 1
  | 3, 1 => 1
  | 3, 2 => 7
  | 4, 0 => 16
  | 4, 1 => 1
  | 4, 2 => 1
  | 4, 3 => 1
  | 4, 4 => 1
  | 4, 5 => 64
  | 4, 6 => 720
  | 4, 7 => 90
  | 4, 8 => 90
  | 5, 0 => 64
  | 5, 1 => 512
  | 5, 2 => 16
  | 6, 0 => 4096
  | 6, 1 => 1
  | 7, 0 => 4096
  | 7, 1 => 1
  | 8, 0 => 1
  | 8, 1 => 1
  | 8, 2 => 1
  | 9, 0 => 1
  | 9, 1 => 65
  | 9, 2 => 8
  | 10, 0 => 1
  | 10, 1 => 1
  | 10, 2 => 1
  | 10, 3 => 1
  | 11, 0 => 1
  | 11, 1 => 1
  | 11, 2 => 6
  | 11, 3 => 4
  | 12, 0 => 256
  | 12, 1 => 256
  | 12, 2 => 0xF000 * 1024
  | _, _ => 0

/-- The instance exists. -/
def regExists (block number i : Nat) : Bool :=
  decide (i < regInstances block number) && (block ≠ 12 || number ≠ 2 || sourceDefined (i / 1024))

/-- The compute die a register belongs to, an HBM stack's among them. -/
def regDie (block number i : Nat) : Option Nat :=
  match block, number with
  | 1, 0 => some (i / 192)
  | 1, 2 => some (i / 13)
  | 1, _ => some i
  | 2, 0 => some (i / 16)
  | 2, 3 => some i
  | 2, _ => some (i / 4)
  | _, _ => none

/-- The memory error record of an instance. -/
def regErrOf (s : State) (block i : Nat) : MemErr :=
  Tab.getD s.mem.errs (if block = 1 then 16 + i else if block = 2 then i else 68 + i) {}

/-- What a register reads. -/
def regRead (s : State) (block number i : Nat) : Word :=
  match block, number with
  | 1, 0 => regCoreHealth s i
  | 1, 1 => regClmap s i
  | 1, 2 => regMemErr (regErrOf s 1 i)
  | 1, 3 => regEpErr s i
  | 1, 4 => regReplay s i
  | 2, 0 => regGranule s i
  | 2, 1 => regMemErr (regErrOf s 2 i)
  | 2, 2 => regStack s i
  | 2, 3 => regDieCtrl s i
  | 3, 0 => regIdent s
  | 3, 1 => regInventory s
  | 3, 2 => regMemErr (regErrOf s 3 i)
  | 4, 0 => regGroupStat s i
  | 4, 1 => regCoord s
  | 4, 2 => pack [(0, 16, s.net.route.waleWait)]
  | 4, 3 => regEpoch s
  | 4, 4 => regRouteStat s
  | 4, 5 => regMeter s i
  | 4, 6 => regProfile s i
  | 4, 7 => regPortCtrl s i
  | 4, 8 => regSwPort s i
  | 5, 0 => regLkPort s i
  | 5, 1 => regLane s i
  | 5, 2 => regOe s i
  | 6, 0 => regRing s i
  | 6, 1 => regFlow s
  | 7, 0 => regGroup s i
  | 7, 1 => regCollEngine s
  | 8, 0 => BitVec.ofNat 64 s.tb.time
  | 8, 1 => regTbStat s
  | 8, 2 => regTbCtrl s
  | 9, 0 => regHl s
  | 9, 1 => regChan s i
  | 9, 2 => regLane s (512 + i)
  | 10, n => regTr s n
  | 11, 0 => regPwStat s
  | 11, 1 => regPwCap s
  | 11, 2 => regPwRail s i
  | 11, 3 => regPwDie s i
  | 12, 0 => regSampler s i
  | 12, 1 => regWm s i
  | 12, 2 => regEvRing s i
  | _, _ => 0

/-- The memory error selector of an instance of CD_SRAM_ERR, MM_ERR or FD_SRAM_ERR. -/
def errSel (block i : Nat) : MemErrSel :=
  if block = 1 then .cd ⟨i / 13 % 4, Nat.mod_lt _ (by decide)⟩ ⟨i % 13, Nat.mod_lt _ (by decide)⟩
  else if block = 2 then .hbm (stackFin i)
  else .fd ⟨i % 7, Nat.mod_lt _ (by decide)⟩

/-- A write of a register: none for a reserved encoding; a read-only one ignores it (R7 to R9). -/
def regWrite (s : State) (block number i : Nat) (value : Word) : Option State :=
  match block, number with
  | 1, 2 => some (rearmErr s (errSel 1 i) value)
  | 2, 1 => some (rearmErr s (errSel 2 i) value)
  | 3, 2 => some (rearmErr s (errSel 3 i) value)
  | 2, 3 => writePeriodH s i value
  | 4, 2 => writeWaleWait s value
  | 4, 5 => writeMeter s i value
  | 4, 6 => writeProfile s i value
  | 4, 7 => writePortCtrl s i value
  | 5, 1 => writeLane s i value
  | 8, 2 => some (writeTbCtrl s value)
  | 9, 2 => writeLane s (512 + i) value
  | _, _ => some s

end Sys2Proof.Machine
end

