-- ==== Sys2Proof/Machine/HostOps.lean ====
section
/-! DEFINITION. The host link's commands: acceptance, tags and reply stores, terminal statuses and completion notices, and the slice a command concerns (R367 to R384, R545). -/

namespace Sys2Proof.Machine

/-! ## What an opcode is (R389) -/

/-- The Channel column of R389. -/
inductive ChanRule where
  | any
  /-- The admin channel. -/
  | admin
  /-- The admin channel, signed. -/
  | adminSigned
  /-- The slice channel, sealed while a session is open. -/
  | slice
  /-- The slice channel with a session open. -/
  | session
  /-- The slice channel, unsealed: SESSION_OPEN. -/
  | unsealed
  /-- Either channel. -/
  | either
  deriving DecidableEq, Repr

/-- An opcode: its value, its channel, and the largest reply of this command. -/
structure OpInfo where
  code : BitVec 16
  chan : ChanRule
  reserve : Nat := 0
  /-- Accepted in recovery (R470). -/
  recovery : Bool := false
  deriving DecidableEq, Repr

/-- What a command does when it is interpreted: a terminal status with its reply, or it stays pending. -/
inductive Reply where
  | done (st : BitVec 16) (bytes : List Byte)
  | pend

/-- Every assigned opcode. -/
def assignedOpcodes : List Nat :=
  (List.range 9) ++ [0x10, 0x11, 0x12, 0x13] ++ (List.range 7).map (0x1000 + ·) ++ [0x2000, 0x2001, 0x2002, 0x2010, 0x2011, 0x2012] ++
  [0x2020, 0x2021, 0x2022, 0x2030, 0x2031] ++ [0x3000, 0x3001, 0x3002] ++ (List.range 4).map (0x4000 + ·) ++ (List.range 6).map (0x5000 + ·) ++
  [0x6000, 0x6001] ++ (List.range 10).map (0x7000 + ·) ++ (List.range 5).map (0x8000 + ·)

/-! ## Acceptance (R377) -/

/-- The slice bound to a channel; 0xFFFF for none. -/
def boundSlice (s : State) (c : Nat) : BitVec 16 := (getChan s c).slice

def isAdmin (h : Hdr) : Bool := h.channel = 64

/-- Check 4: the channel exists, permits the opcode, is bound, and SLICE keeps R367. -/
def chanOk (s : State) (h : Hdr) (o : OpInfo) : Bool :=
  let c := h.channel.toNat
  decide (c ≤ 64) &&
  (match o.chan with
    | .any | .either => true
    | .admin | .adminSigned => isAdmin h
    | .slice | .session | .unsealed => !isAdmin h) &&
  (isAdmin h || (boundSlice s c ≠ 0xFFFF && h.slice = boundSlice s c))

/-- Check 5: what the opcode requires is there, and nothing the channel forbids. -/
def sealsPresent (s : State) (h : Hdr) (o : OpInfo) : Bool :=
  let open_ := !isAdmin h && chanSession s h.channel.toNat
  (o.chan ≠ .adminSigned || h.isSigned) &&
  (o.chan ≠ .session || (open_ && h.isSealed)) &&
  (!open_ || o.chan = .unsealed || h.isSealed) &&
  (!h.isSealed || open_) &&
  (isAdmin h || !h.isSigned)

/-- The seal holds and its count is new (R374). -/
def sealGood (s : State) (h : Hdr) : Bool :=
  !h.isSealed || (h.sealOk && match getSlice s h.channel.toNat with
    | some sl => (match sl.session with
      | some x => decide (x.scountIn < h.scount.toNat)
      | none => false)
    | none => false)

/-- The signature holds, for this module, with a new count (R375). -/
def sigGood (s : State) (h : Hdr) : Bool :=
  !h.isSigned || (h.sigOk && h.target = s.ctl.trust.identity && decide (s.ctl.trust.ocount < h.ocount.toNat))

/-- Room for one tag and its reply (R368). -/
def storeRoom (s : State) (c reserve : Nat) : Bool :=
  let x := getChan s c
  decide (x.tags.length < 256) && decide (storeUsed x + reserve ≤ storeSize c)

/-- The first check of R377 that fails, from the second on. -/
def rejects (s : State) (h : Hdr) (o : OpInfo) : Option (BitVec 16) :=
  let c := h.channel.toNat
  if h.version ≠ 1 then some stUnsupported
  else if !chanOk s h o then some stDenied
  else if !sealsPresent s h o then some stDenied
  else if !(sealGood s h && sigGood s h) then some stCheckFailed
  else if (getChan s c).tags.any (fun t => t.tag = h.tag) then some stBadState
  else if !storeRoom s c o.reserve then some stBusy
  else none

def modHl (s : State) (f : HostLink → HostLink) : State := { s with ctl := { s.ctl with hl := f s.ctl.hl } }

/-- Reject a command: a status with REJECTED set, its count, and no other effect (R376, R377). -/
def reject (s : State) (h : Hdr) (opcode st : BitVec 16) : State :=
  let c := h.channel.toNat
  let s := modHl s (fun x => { x with
    rejected := satUp x.rejected 1 0xFF
    sealFails := if st = stCheckFailed && !sealGood s h then satUp x.sealFails 1 0xFF else x.sealFails
    sigFails := if st = stCheckFailed && sealGood s h then satUp x.sigFails 1 0xFF else x.sigFails })
  let s := if st = stBusy then modChan s c (fun x => { x with busy := satUp x.busy 1 0xFF }) else s
  let s := if st = stCheckFailed then record s { source := srcKind 7 64, event := evSecurity, status := st, slice := h.slice, location := 64 } else s
  sendStatus s c opcode h.tag h.slice (if h.version = 1 then h.version else 1) st false true 0 [] none

/-- The command holds its tag from here, and its counts are recorded (R368, R374, R375). -/
def accept (s : State) (h : Hdr) (o : OpInfo) : State :=
  let c := h.channel.toNat
  let s := modHl s (fun x => { x with accepted := satUp x.accepted 1 0xFFFF })
  let s := if h.isSigned then { s with ctl := { s.ctl with trust := { s.ctl.trust with ocount := h.ocount.toNat } } } else s
  let s := if h.isSealed then modSlice s c (fun sl => { sl with session := sl.session.map (fun x => { x with scountIn := h.scount.toNat }) }) else s
  let s := countHost s c h.length
  modChan s c (fun x => { x with tags := x.tags ++ [{ tag := h.tag, opcode := o.code, slice := h.slice, version := h.version, reserve := o.reserve, rel := h.rel, isSealed := h.isSealed }] })

/-! ## Interpretation (R378) -/

/-- The memory engine interprets MEM_WRITE, MEM_READ and COUNTER_ADD (R378). -/
def isMemOp (code : BitVec 16) : Bool := code = 0x2000 || code = 0x2001 || code = 0x2002

/-- Trust firmware executes class 0x5, class 0x8 and TEST_UNLOCK (R378). -/
def isTrustOp (code : BitVec 16) : Bool := code.extractLsb' 12 4 = 5 || code.extractLsb' 12 4 = 8 || code = 0x7009

/-- The core that executes the opcode is in its own reset: commands end BUSY meanwhile, and ATTEST waits (R378, R466, R476). -/
def unitBusy (s : State) (code : BitVec 16) : Bool :=
  if isMemOp code || code = 0x5000 then false
  else if isTrustOp code then s.rst.busy.any (fun b => b.1 = 6)
  else s.rst.busy.any (fun b => b.1 = 5)

/-- A command of the host: it arrives on the host link in service, is checked, and is interpreted. In recovery every opcode but those of R470 ends DENIED. -/
def command (s : State) (h : Hdr) (o : OpInfo) (run : State → State × Reply) : State :=
  if (getLink s 64).st ≠ .active then s
  else match rejects s h o with
    | some st => reject s h o.code st
    | none =>
      let s := accept s h o
      if s.ctl.trust.recovery && !o.recovery then finishTag s h.channel.toNat h.tag stDenied []
      else if unitBusy s o.code then finishTag s h.channel.toNat h.tag stBusy []
      else
        let r := run s
        match r.2 with
        | .done st bytes => finishTag r.1 h.channel.toNat h.tag st bytes
        | .pend => r.1

/-- A command with no reply bytes. -/
def ends (s : State) (st : BitVec 16) : State × Reply := (s, .done st [])

/-! ## The slice a command concerns (R545) -/

/-- Slot and slice: the channel's, or the one SLICE names. -/
def concerned (s : State) (h : Hdr) : Option (Nat × Slice) :=
  if isAdmin h then findSlice s h.slice
  else (getSlice s h.channel.toNat).map (fun sl => (h.channel.toNat, sl))

/-- Run for the slice concerned; on the admin channel one not defined is BAD_PARAM. -/
def forSlice (s : State) (h : Hdr) (f : Nat → Slice → State × Reply) : State × Reply :=
  match concerned s h with
  | some e => f e.1 e.2
  | none => ends s stBadParam

/-- On the admin channel debug opcodes need ATTR.DEBUG_OK of the slice (R426). -/
def debugDenied (h : Hdr) (sl : Slice) : Bool := isAdmin h && !sl.debugOk

end Sys2Proof.Machine
end

