-- ==== Sys2Proof/Machine/HostLink.lean ====
section
/-! DEFINITION. The general commands of the host link: NOP, IDENTIFY, registers, results, ABORT, TIME_SET, and the rejection of malformed packets (R377 to R383, R389, R392). -/

namespace Sys2Proof.Machine

/-- COMMAND_REJECTED (R377): a packet that fails one of the first three checks. -/
def execCommandRejected (r : RawHdr) (s : State) : Result :=
  .next (
    if (getLink s 64).st ≠ .active then s
    else if r.kind ≠ 1 || r.reserved || 4096 < r.lengthField || r.lengthField ≠ r.lengthSent || r.vc ≠ 0 then reject s r.h r.opcode stBadParam
    else if r.h.version ≠ 1 then reject s r.h r.opcode stUnsupported
    else if !assignedOpcodes.contains r.opcode.toNat then reject s r.h r.opcode stUnsupported
    else s)

/-- NOP. -/
def execNop (h : Hdr) (s : State) : Result := .next (command s h { code := 0x0000, chan := .any, recovery := true } (fun s => ends s stOk))

/-- The 32 bytes of IDENTIFY. -/
def identifyBytes (s : State) (c : Nat) : List Byte :=
  leBytes 4 (regIdent s).toNat ++ leBytes 1 (getLink s 64).level ++ leBytes 1 1 ++ leBytes 2 0 ++ leBytes 4 (fdNode s).toNat ++
  leBytes 2 (boundSlice s c).toNat ++ leBytes 2 0 ++ leBytes 8 s.tb.time ++ leBytes 8 s.ctl.trust.identity.toNat

/-- IDENTIFY. -/
def execIdentify (h : Hdr) (s : State) : Result :=
  .next (command s h { code := 0x0001, chan := .any, reserve := 32, recovery := true } (fun s => (s, .done stOk (identifyBytes s h.channel.toNat))))

/-! ## Registers (R7 to R9, R392) -/

/-- The selector names instances that exist. -/
def selOk (sel : Word) (n : Nat) : Bool :=
  !selReserved sel && (List.range n).all (fun k => regExists (selBlock sel) (selNumber sel) (selIndex sel + k))

/-- A register of a die, or of a stack of it, is out of reach until the die's reset is released. -/
def selDown (s : State) (sel : Word) (n : Nat) : Bool :=
  (List.range n).any (fun k => match regDie (selBlock sel) (selNumber sel) (selIndex sel + k) with
    | some d => !s.rst.dieOut.getLsbD d
    | none => false)

/-- What a read takes of lanes, and the instant at which it takes fabric time (R253). -/
def measureFor (s : State) (sel : Word) (n : Nat) : State :=
  if selBlock sel = 5 && selNumber sel = 1 then (List.range n).foldl (fun s k => measureLane s (selIndex sel + k)) s
  else if selBlock sel = 9 && selNumber sel = 2 then (List.range n).foldl (fun s k => measureLane s (512 + selIndex sel + k)) s
  else if selBlock sel = 8 && selNumber sel = 0 then passTime s
  else s

def readRegs (s : State) (sel : Word) (n : Nat) : State × Reply :=
  if n = 0 || 64 < n || !selOk sel n then ends s stBadParam
  else if selDown s sel n then ends s stBadState
  else
    let s := measureFor s sel n
    (s, .done stOk ((List.range n).flatMap (fun k => leBytes 8 (regRead s (selBlock sel) (selNumber sel) (selIndex sel + k)).toNat)))

/-- REG_READ (R392). -/
def execRegRead (h : Hdr) (sel : Word) (n : Nat) (s : State) : Result :=
  .next (command s h { code := 0x0002, chan := .admin, reserve := 8 * min n 64, recovery := true } (fun s => readRegs s sel n))

def writeReg (s : State) (sel value : Word) : State × Reply :=
  if !selOk sel 1 then ends s stBadParam
  else if selDown s sel 1 then ends s stBadState
  else match regWrite s (selBlock sel) (selNumber sel) (selIndex sel) value with
    | some t => ends t stOk
    | none => ends s stBadParam

/-- REG_WRITE (R7 to R9, R392). -/
def execRegWrite (h : Hdr) (sel : Word) (value : Word) (s : State) : Result :=
  .next (command s h { code := 0x0003, chan := .admin } (fun s => writeReg s sel value))

/-! ## Results (R380, R381) -/

def findTag (s : State) (c : Nat) (tag : BitVec 16) : Option Tag := (getChan s c).tags.find? (fun t => t.tag = tag)

/-- The 8-byte prefix. -/
def resultPrefix (t : Tag) (part : Nat) (repeated more : Bool) : List Byte :=
  leBytes 2 t.tag.toNat ++ leBytes 2 t.opcode.toNat ++ leBytes 2 (t.status.getD stNotReady).toNat ++ leBytes 1 part ++
  leBytes 1 (bitN repeated + 2 * bitN more)

def readResult (s : State) (c : Nat) (tag : BitVec 16) (part : Nat) : State × Reply :=
  match findTag s c tag with
  | none => ends s stBadState
  | some t =>
    match t.status with
    | none => (s, .done stNotReady (resultPrefix t part false false))
    | some _ =>
      if 0 < part && t.reply.length ≤ partBytes * part then ends s stBadParam
      else
        let more := decide (partBytes * (part + 1) < t.reply.length)
        let s := modChan s c (fun x => { x with tags := x.tags.map (fun y => if y.tag = tag then { y with delivered := y.delivered ++ [part] } else y) })
        (s, .done stOk (resultPrefix t part (t.delivered.contains part) more ++ (t.reply.drop (partBytes * part)).take partBytes))

/-- RESULT_READ (R380). -/
def execResultRead (h : Hdr) (tag : BitVec 16) (part : Nat) (s : State) : Result :=
  .next (command s h { code := 0x0004, chan := .any, reserve := 4040, recovery := true } (fun s => readResult s h.channel.toNat tag part))

def freeTag (s : State) (c : Nat) (tag : BitVec 16) : State := modChan s c (fun x => { x with tags := x.tags.filter (fun y => y.tag ≠ tag) })

def releaseResult (s : State) (c : Nat) (tag : BitVec 16) : State × Reply :=
  match findTag s c tag with
  | none => ends s stBadState
  | some t => if t.status.isNone then ends s stBadState else ends (freeTag s c tag) stOk

/-- RESULT_RELEASE (R381). -/
def execResultRelease (h : Hdr) (tag : BitVec 16) (s : State) : Result :=
  .next (command s h { code := 0x0005, chan := .any, recovery := true } (fun s => releaseResult s h.channel.toNat tag))

/-! ## ABORT (R382, R383) -/

/-- A waiting MEM_WRITE that ends ABORTED is under way, so a later COUNTER_ADD still waits for it; a MEM_READ or COUNTER_ADD is dropped. -/
def abortWait (ws : List MemWait) (c : Nat) (tag : BitVec 16) : List MemWait :=
  ws.filterMap (fun w =>
    if w.channel = c && w.tag = tag && !w.aborted then
      match w.op with
      | .write .. => some { w with aborted := true }
      | _ => none
    else some w)

/-- A pending command of a channel ends ABORTED: a commit is not applied, evidence is not made. -/
def abortPending (s : State) (c : Nat) (tag : BitVec 16) : State :=
  let s := { s with ctl := { s.ctl with
    memWaits := abortWait s.ctl.memWaits c tag
    txns := s.ctl.txns.map (fun t => if t.channel = c then { t with commit := t.commit.filter (fun x => x.2 ≠ tag) } else t)
    trust := { s.ctl.trust with batch := s.ctl.trust.batch.filter (fun e => !(e.channel = c && e.tag = tag)) } } }
  finishTag s c tag stAborted []

def abortTag (s : State) (c : Nat) (tag own : BitVec 16) : State × Reply :=
  match findTag s c tag with
  | none => ends s stBadState
  | some t =>
    if t.status.isSome then ends s stAlreadyDone
    else if tag = own then ends s stOk
    else ends (abortPending s c tag) stOk

/-- ABORT (R382). -/
def execAbortCommand (h : Hdr) (tag : BitVec 16) (s : State) : Result :=
  .next (command s h { code := 0x0006, chan := .any, recovery := true } (fun s => abortTag s h.channel.toNat tag h.tag))

/-! ## TIME_SET (R260, R389, R419) -/

def setTime (s : State) (seconds : Word) : State × Reply :=
  if s.net.route.joined then ends s stBadState
  else ends { s with tb := { s.tb with tod := some seconds.toNat } } stOk

/-- TIME_SET. -/
def execTimeSet (h : Hdr) (seconds : Word) (s : State) : Result :=
  .next (command s h { code := 0x0007, chan := .adminSigned } (fun s => setTime s seconds))

/-! ## Coordinates and links (R273, R389) -/

def setCoords (s : State) (w x y z : Nat) : State × Reply :=
  if s.net.route.joined then ends s stBadState
  else if 3 < w || 3 < x || 5 < y || 5 < z then ends s stBadParam
  else ends (modRoute s (fun r => { r with w := w, x := x, y := y, z := z, source := 2 })) stOk

/-- COORD_SET (R273). -/
def execCoordSet (h : Hdr) (w x y z : Nat) (s : State) : Result :=
  .next (command s h { code := 0x3000, chan := .admin } (fun s => setCoords s w x y z))

/-- LINK_RETRAIN (R389): ends when the port has left service and re-entered training. -/
def retrain (s : State) (port : Nat) : State × Reply :=
  if 63 < port then ends s stBadParam
  else if (getLink s port).st = .off then ends s stOk
  else ends (portTo s port .light 0) stOk

def execLinkRetrain (h : Hdr) (port : Nat) (s : State) : Result :=
  .next (command s h { code := 0x3002, chan := .admin } (fun s => retrain s port))

end Sys2Proof.Machine
end

