-- ==== Sys2Proof/Machine/HostMemOps.lean ====
section
/-! DEFINITION. The memory engine of the host link: what it performs, what holds it back, and what waits (R147, R163, R383, R390, R391). -/

namespace Sys2Proof.Machine

/-- Endpoint of a memory command's address. -/
def maEp (a : Word) : Nat := (a.extractLsb' 42 4).toNat

/-- OFFSET of a memory command's address. -/
def maOff (a : Word) : Nat := addrOff a

/-- The address and length keep R390, and the access lies in HBM or in one window. -/
def memCmdOk (a : Word) (n : Nat) : Bool :=
  a.extractLsb' 46 18 = 0 && decide (maEp a ≤ 3) && maOff a % 64 = 0 && decide (64 ≤ n) && decide (n ≤ 4032) && n % 64 = 0 &&
  (match targetOf (maOff a) n with
    | .hbm | .window _ => true
    | _ => false)

/-- Where the access lands, with the channel's slice as its authorising slice, in granules it owns (R145, R163); none is VIOLATION. -/
def memCmdKey (s : State) (a : Word) (n : Nat) (id : BitVec 16) : Option Nat :=
  let d := maEp a
  let off := maOff a
  match targetOf off n with
  | .hbm => if ownsHbm s d off n id then some (memKey d off) else none
  | .window l =>
    match windowSlice s d l id with
    | some e => if e.2.st = .out && !ownsHbm s d (imageOff e.2 d l off) n id then none else some (windowKey d l off e)
    | none => none
  | _ => none

def memWriteCmd (s : State) (sl : Slice) (a : Word) (data : List Byte) : State × Reply :=
  if !memCmdOk a data.length then ends s stBadParam
  else match memCmdKey s a data.length sl.id with
    | none => ends s stViolation
    | some k => ends (monitorWake (memStore s k data) (maEp a) (k % 2 ^ 42) data.length) stOk

def memReadCmd (s : State) (sl : Slice) (a : Word) (n : Nat) : State × Reply :=
  if !memCmdOk a n then ends s stBadParam
  else match memCmdKey s a n sl.id with
    | none => ends s stViolation
    | some k => if poisonedAt s k n || sramBad s k n then ends s stPoisoned else (s, .done stOk (memRead s.mem.bytes k n))

def counterAddCmd (s : State) (sl : Slice) (die counter : Nat) (value : Word) : State × Reply :=
  if 3 < die || 16383 < counter || 2 ^ 63 ≤ value.toNat then ends s stBadParam
  else if !ownsCounter s die counter sl.id then ends s stViolation
  else (counterAddTo s die counter value.toNat, .done stOk (leBytes 8 (counterVal s die counter).toNat))

/-- Perform a memory command for the channel's slice. -/
def memDo (s : State) (sl : Slice) : MemOp → State × Reply
  | .write a data => memWriteCmd s sl a data
  | .read a n => memReadCmd s sl a n
  | .add d k v => counterAddCmd s sl d k v

/-- The parameters keep R389 and R390. -/
def memParamsOk : MemOp → Bool
  | .write a data => memCmdOk a data.length
  | .read a n => memCmdOk a n
  | .add d k v => decide (d ≤ 3) && decide (k ≤ 16383) && decide (v.toNat < 2 ^ 63)

/-- The memory holds the access back: a stack in HOLD, a slice being switched, or a cluster that awaits its spare (R133, R147, R163). -/
def memHeld (s : State) (sl : Slice) : MemOp → Bool
  | .write a data => rangeHeld s (maEp a) (maOff a) data.length sl.id
  | .read a n => rangeHeld s (maEp a) (maOff a) n sl.id
  | .add .. => false

/-- Two ranges share a byte; those of memory commands are whole lines. -/
def rangesMeet (a : Word) (n : Nat) (b : Word) (m : Nat) : Bool := decide (a.toNat < b.toNat + m) && decide (b.toNat < a.toNat + n)

/-- An operation comes after an earlier one of its channel: COUNTER_ADD after a MEM_WRITE, and an access to a line after an earlier one to it (R391). -/
def opAfter : MemOp → MemOp → Bool
  | .write .., .add .. => true
  | .write a d, .write b e => rangesMeet a d.length b e.length
  | .write a d, .read b m => rangesMeet a d.length b m
  | .read a n, .write b e => rangesMeet a n b e.length
  | .read a n, .read b m => rangesMeet a n b m
  | .read .., .add .. => false
  | .add d k _, .add e j _ => d = e && k / 8 = j / 8
  | .add .., _ => false

/-- An operation of a channel must wait for one of these earlier ones. -/
def waitsFor (ws : List MemWait) (c : Nat) (op : MemOp) : Bool := ws.any (fun w => w.channel = c && opAfter w.op op)

/-- Of a MEM_WRITE that ended ABORTED, some lines are written: which is a free value (R383; DESIGN CHOICE, log entry 108). -/
def writeSome (s : State) (sl : Slice) (a : Word) (data : List Byte) : State :=
  match memCmdKey s a data.length sl.id with
  | none => s
  | some k =>
    let f := takeFree s
    (List.range (data.length / 64)).foldl (fun s i =>
      if f.1.getLsbD i then monitorWake (memStore s (k + 64 * i) ((data.drop (64 * i)).take 64)) (maEp a) ((k + 64 * i) % 2 ^ 42) 64 else s) f.2

/-- A waiting command is performed, and its tag reaches its terminal status; of an ABORTED one only the memory sees anything. -/
def performWait (s : State) (w : MemWait) : State :=
  match getSlice s w.channel with
  | none => s
  | some sl =>
    if w.aborted then
      match w.op with
      | .write a data => writeSome s sl a data
      | _ => s
    else
      let r := memDo s sl w.op
      match r.2 with
      | .done st bytes => finishTag r.1 w.channel w.tag st bytes
      | .pend => r.1

/-- A waiting command is still held back (R147, R163). -/
def stillHeld (s : State) (w : MemWait) : Bool :=
  match getSlice s w.channel with
  | some sl => memHeld s sl w.op
  | none => false

def setWaits (s : State) (ws : List MemWait) : State := { s with ctl := { s.ctl with memWaits := ws } }

/-- The waiting commands that nothing holds back any longer are performed, in acceptance order (R391). -/
def pumpMem (s : State) : State :=
  let r := s.ctl.memWaits.foldl (fun (x : List MemWait × State) w =>
    if waitsFor x.1 w.channel w.op || stillHeld x.2 w then (x.1 ++ [w], x.2) else (x.1, performWait x.2 w)) ([], s)
  setWaits r.2 r.1

/-- A memory command that must wait: the memory holds it back, or an earlier one comes first. -/
def memMustWait (s : State) (c : Nat) (sl : Slice) (op : MemOp) : Bool :=
  memParamsOk op && (memHeld s sl op || waitsFor s.ctl.memWaits c op)

/-- A memory command is performed, or waits. -/
def memCmd (s : State) (h : Hdr) (sl : Slice) (op : MemOp) : State × Reply :=
  if memMustWait s h.channel.toNat sl op then
    (setWaits s (s.ctl.memWaits ++ [{ channel := h.channel.toNat, tag := h.tag, op := op }]), .pend)
  else memDo s sl op

end Sys2Proof.Machine
end

