-- ==== Sys2Proof/Machine/Local.lean ====
section
/-! DEFINITION. Local loads and stores (R85, R100, R122, R154). -/

namespace Sys2Proof.Machine

/-- Bytes of a local load as the register takes them: zero-extended, or sign-extended from 32 bits. -/
def loadVal (signed : Bool) (bs : List Byte) : Word :=
  if signed then sext (BitVec.ofNat 32 (leNat bs)) else BitVec.ofNat 64 (leNat bs)

/-- An uncorrectable SECDED error on the strand's own local read (R105, R154). -/
def localUnc (s : State) (p : Pos) (a : Word) : State := strandFault s p cLocalUnc false (getStrand s p).pc a

/-- The range and alignment of a local access: the cause, an unmapped address before a misaligned one (R85, R106). An aligned access at a mapped address lies in its range whole. -/
def localCause (a : Word) (size : Nat) : Option Nat :=
  if !localOk a.toNat 1 then some cLocalRange
  else if a.toNat % size ≠ 0 then some cMisaligned
  else none

/-- A local load of `size` bytes. -/
def localLoad (p : Pos) (g : Guard) (size : Nat) (signed : Bool) (sd sa : BitVec 6) (imm : BitVec 10) (s : State) : State :=
  issue s p g true [sd, sa] (fun s =>
    let a := localAddr (getStrand s p) sa imm size
    match localCause a size with
    | some c => trapAt s p c a
    | none =>
      if sramBad s (localKey (coreOf p) a.toNat) size then localUnc s p a
      else
        let v := loadVal signed (localRead s (coreOf p) a.toNat size)
        finish s p (fun st => wr st sd v)) [sa]

/-- A local store of the low `size` bytes of the register SD names. -/
def localStore (p : Pos) (g : Guard) (size : Nat) (sd sa : BitVec 6) (imm : BitVec 10) (s : State) : State :=
  issue s p g true [sd, sa] (fun s =>
    let a := localAddr (getStrand s p) sa imm size
    match localCause a size with
    | some c => trapAt s p c a
    | none =>
      let bs := leBytes size (rd (getStrand s p) sd).toNat
      finish (spoilOver (localWrite s (coreOf p) a.toNat bs) (coreOf p) a.toNat size) p id)

def execLdlB (p : Pos) (g : Guard) (sd sa : BitVec 6) (imm : BitVec 10) (s : State) : Result := .next (localLoad p g 1 false sd sa imm s)
def execLdlH (p : Pos) (g : Guard) (sd sa : BitVec 6) (imm : BitVec 10) (s : State) : Result := .next (localLoad p g 2 false sd sa imm s)
def execLdlW (p : Pos) (g : Guard) (sd sa : BitVec 6) (imm : BitVec 10) (s : State) : Result := .next (localLoad p g 4 false sd sa imm s)

/-- LDL.WS sign-extends. -/
def execLdlWs (p : Pos) (g : Guard) (sd sa : BitVec 6) (imm : BitVec 10) (s : State) : Result := .next (localLoad p g 4 true sd sa imm s)
def execLdlD (p : Pos) (g : Guard) (sd sa : BitVec 6) (imm : BitVec 10) (s : State) : Result := .next (localLoad p g 8 false sd sa imm s)
def execStlB (p : Pos) (g : Guard) (sd sa : BitVec 6) (imm : BitVec 10) (s : State) : Result := .next (localStore p g 1 sd sa imm s)
def execStlH (p : Pos) (g : Guard) (sd sa : BitVec 6) (imm : BitVec 10) (s : State) : Result := .next (localStore p g 2 sd sa imm s)
def execStlW (p : Pos) (g : Guard) (sd sa : BitVec 6) (imm : BitVec 10) (s : State) : Result := .next (localStore p g 4 sd sa imm s)
def execStlD (p : Pos) (g : Guard) (sd sa : BitVec 6) (imm : BitVec 10) (s : State) : Result := .next (localStore p g 8 sd sa imm s)

end Sys2Proof.Machine
end

