-- ==== Sys2Proof/Machine/Tile.lean ====
section
/-! DEFINITION. TMMA, TLD and TST, and the engines that execute TMMAs (R91 to R93, R101, R109 to R121, R453). -/

namespace Sys2Proof.Machine

/-- The engine a TMMA goes to: the one named, or the next unfenced of ENG + 1, ENG + 2, ENG + 3 (R120). -/
def substituteOf (fenced : BitVec 4) (e : Nat) : Nat :=
  (([e, e + 1, e + 2, e + 3].map (· % 4)).find? (fun k => !fenced.getLsbD k)).getD e

/-- The engines of a core, with their numbers. -/
def otherTmmas (k : Core) (e : Nat) : List Tmma :=
  ((k.engines.filter (fun x => x.1 ≠ e)).map (fun x => x.2.queue ++ x.2.running.toList)).flatten

/-- Completed TMMAs of other engines that no TWAIT of their strand has followed (R93); those of a fenced engine count as its substitute's (R120). -/
def otherDone (k : Core) (e : Nat) : List Tmma := (k.doneC.filter (fun x => substituteOf k.fenced x.1 ≠ e)).map Prod.snd

/-- Queue a TMMA (R92, R93). Where it shares its C with one on another engine, both have unpredictable output bits; where that one has completed with no TWAIT since, C is this one's to leave so. -/
def queueTmma (s : State) (c : CorePos) (e : Nat) (t : Tmma) : State :=
  let hit := (otherTmmas (getCore s c) e ++ otherDone (getCore s c) e).any (fun u => sharesC t u)
  let s := if hit then spoilWhere s c (fun e' u => e' ≠ e && sharesC t u) else s
  modEngine s c e (fun x => { x with queue := x.queue ++ [{ t with spoiled := t.spoiled || hit }] })

/-- TMMA (R92, R113): CTL[0] INIT, CTL[1] FINAL. It waits on a failed core, at the floor, or for room in its engine's queue of 8, before any cause is looked at (R64). -/
def execTmma (p : Pos) (g : Guard) (eng : BitVec 2) (td : BitVec 4) (sa sb : BitVec 6) (init final : Bool) (s : State) : Result :=
  .next (issue s p g true [sa, sb] (fun s =>
    let st := getStrand s p
    let c := coreOf p
    let k := getCore s c
    let e := substituteOf k.fenced eng.toNat
    let d := rdTd st td
    let x := rd st sa
    let y := rd st sb
    if k.failed then waitOn s p .failedCore
    else if atFloor s then waitOn s p .floor
    else if 8 ≤ (getEngine s c e).queue.length then waitOn s p (.engineQueue e)
    else match tmmaCause (isExact s p) d x y init final with
      | some cause => if cause = cLocalRange then trapAt s p cause (tmmaFaultAddr d x y init final) else trapFree s p cause
      | none =>
          let t : Tmma := { p := p, gen := st.gen, pc := st.pc, td := d, sa := x, sb := y, init := init, final := final }
          finish (queueTmma s c e t) p (fun st => { st with tmmas := st.tmmas + 1 })))

/-- TLD (R91): td := 32 bytes at the local address in sa. -/
def execTld (p : Pos) (g : Guard) (td : BitVec 4) (sa : BitVec 6) (s : State) : Result :=
  .next (issue s p g true [sa] (fun s =>
    let a := rd (getStrand s p) sa
    match localCause a 32 with
    | some c => trapAt s p c a
    | none =>
      if sramBad s (localKey (coreOf p) a.toNat) 32 then localUnc s p a
      else
        let v := BitVec.ofNat 256 (leNat (localRead s (coreOf p) a.toNat 32))
        finish s p (fun st => wrTd st td v)))

/-- TST (R91). -/
def execTst (p : Pos) (g : Guard) (td : BitVec 4) (sa : BitVec 6) (s : State) : Result :=
  .next (issue s p g true [sa] (fun s =>
    let a := rd (getStrand s p) sa
    match localCause a 32 with
    | some c => trapAt s p c a
    | none =>
      let bs := leBytes 32 (rdTd (getStrand s p) td).toNat
      finish (spoilOver (localWrite s (coreOf p) a.toNat bs) (coreOf p) a.toNat 32) p id))

/-! ## Engines -/

/-- A strand takes a handleable asynchronous cause while it still runs its program (R103, R104, R106). A HALTED strand records it and stays HALTED where a handler will take it, and enters TRAPPED where none does, which R62's table does not list (log entry 71); a TRAPPED one records it and stays TRAPPED; of a FROZEN one the trap is posted and its cause stays, and a job stop takes precedence over any. -/
def asyncTrap (s : State) (p : Pos) (gen : Nat) (pc : Word) (cause : Nat) : State :=
  let st := getStrand s p
  if !sameProgram st gen then s
  else if st.st = .ready || st.st = .wait || st.st = .trapped then takeTrapFree s p cause true pc
  else if st.st = .frozen then
    let f := takeFree s
    postStrand f.2 p 0x01 cause pc f.1
  else if st.st = .halted then
    let s := takeTrapFree s p cause true pc
    modStrand s p (fun st => if st.st = .ready then { st with st := .halted, haltWait := false, remain := none } else st)
  else s

/-- The strand's count of TMMAs not yet complete falls by one. -/
def tmmaDone (s : State) (t : Tmma) : State :=
  if sameProgram (getStrand s t.p) t.gen then modStrand s t.p (fun st => { st with tmmas := st.tmmas - 1 }) else s

/-- A poisoned operand word of a TMMA (R154). -/
def operandBad (s : State) (c : CorePos) (t : Tmma) : Bool :=
  (readRuns t.td t.sa t.sb t.init).any (fun r => r.2 ≠ 0 && sramBad s (localKey c r.1) r.2)

/-- The engine reads the initial value and the operands, and its result is fixed (R114). -/
def loadEngine (s : State) (c : CorePos) (e : Nat) (t : Tmma) : State :=
  let rows := tmmaRows s c t
  modEngine s c e (fun x => { x with running := some t, rows := rows.map Prod.fst, flags := orFl (rows.map Prod.snd) })

/-- An engine may start work: not fenced, its core not failed, its clock running, the module not at the floor. -/
def engineRuns (s : State) (c : CorePos) (e : Nat) : Bool :=
  let k := getCore s c
  !k.failed && !k.fenced.getLsbD e && !k.engGated.getLsbD e && !atFloor s && (sliceOn s c.die c.cluster).isSome

/-- The slice whose state a core holds. -/
def coreSlice (s : State) (c : CorePos) : BitVec 16 :=
  match sliceOn s c.die c.cluster with
  | some e => e.2.id
  | none => 0xFFFF

/-- One execution of a TMMA starts (R51, R92, R114, R119): its operands are read, and a poisoned one ends it with no output and raises the job stop (R154), a differing anchor traps its strand. -/
def startTmma (s : State) (c : CorePos) (e : Nat) (t : Tmma) : State :=
  if operandBad s c t then
    let id := coreSlice s c
    let s := recordSlice s { source := srcCore c, event := evUncorrectable, status := stPoisoned, location := BitVec.ofNat 64 (coreIx c) } id
    raiseStopFor s id stPoisoned
  else if anchorDiffers s c t then asyncTrap (tmmaDone s t) t.p t.gen t.pc cAnchor
  else loadEngine s c e t

/-- TMMA_START (R51, R92, R114, R154): the next queued TMMA starts. -/
def execTmmaStart (c : CorePos) (eng : Fin 4) (s : State) : Result :=
  let e := eng.val
  .next (
    if !engineRuns s c e || (getEngine s c e).running.isSome then s
    else match (getEngine s c e).queue with
      | [] => s
      | t :: rest =>
        startTmma (modEngine s c e (fun x => { x with queue := rest })) c e { t with execs := 1 })

/-- Free bytes for `n` places (R93, R101, R113). -/
def freeBytes (ctr n : Nat) : List Byte := (List.range n).map (fun i => Config.freeByte ctr i)

/-- The status word (R115): DONE, RECOMP and FLAGS. -/
def tmmaStatus (t : Tmma) (flags : BitVec 4) : Nat := 2 ^ 31 + putN (t.prior + t.execs - 1) 8 8 + flags.toNat

/-- Write one output row, and tap it under FINAL (R516). -/
def writeRow (s : State) (c : CorePos) (t : Tmma) (m : Nat) (bs : List Byte) : State :=
  let a := sbC t.sb + m * tdCstr t.td
  let s := localWrite s c a bs
  if t.final then wmTapRow s c a (tapWidth t.td) bs else s

/-- Write every row, each free where the TMMA's output bits are unpredictable. -/
def writeRows (c : CorePos) (t : Tmma) (free : Bool) : Nat → List (List Byte) → State → State
  | _, [], s => s
  | m, bs :: rest, s =>
    let out := if free then freeBytes s.freeCtr bs.length else bs
    writeRows c t free (m + 1) rest (writeRow { s with freeCtr := if free then s.freeCtr + 1 else s.freeCtr } c t m out)

/-- Write the status word where STEN is 1 (R115); it is unpredictable where it overlaps an operand (R113), and its FLAGS are those of unpredictable bits where the output's are. -/
def writeStatusWord (s : State) (c : CorePos) (t : Tmma) (flags : BitVec 4) (lost : Bool) : State :=
  if !tdSten t.td then s
  else if lost then localWrite { s with freeCtr := s.freeCtr + 1 } c (4 * tdStw t.td) (freeBytes s.freeCtr 4)
  else
    let f := takeFree s
    let fl := if t.spoiled then f.1.setWidth 4 else flags
    localWrite (if t.spoiled then f.2 else s) c (4 * tdStw t.td) (leBytes 4 (tmmaStatus t fl))

/-- A completed TMMA is remembered until a TWAIT of its strand (R93): one entry for each C of an engine. -/
def noteDone (s : State) (c : CorePos) (e : Nat) (t : Tmma) : State :=
  modCore s c (fun k => { k with
    doneC := k.doneC.filter (fun x => !(x.1 = e && x.2.p = t.p && x.2.gen = t.gen && x.2.td = t.td && x.2.sb = t.sb && x.2.final = t.final)) ++ [(e, t)] })

/-- TMMA_COMPLETE (R93, R112, R114, R115, R516). -/
def execTmmaComplete (c : CorePos) (eng : Fin 4) (s : State) : Result :=
  let e := eng.val
  .next (match (getEngine s c e).running with
    | none => s
    | some t =>
      if !engineRuns s c e then s
      else
        let x := getEngine s c e
        let lost := selfOverlap t.td t.sa t.sb t.final
        let s := writeRows c t (t.spoiled || lost) 0 x.rows s
        let s := writeStatusWord s c t x.flags lost
        let s := modEngine s c e (fun x => { x with running := none, rows := [], flags := 0 })
        bumpCore (noteDone (tmmaDone s t) c e t) c 3 1)

/-- ENGINE_GATE (R117): the queue is empty and the last output is written. -/
def execEngineGate (c : CorePos) (eng : Fin 4) (s : State) : Result :=
  let x := getEngine s c eng.val
  .next (if x.queue.isEmpty && x.running.isNone && !(getCore s c).engGated.getLsbD eng.val then
      modCore (modCluster s c.die c.cluster (fun k => { k with idleSince := s.tb.time })) c (fun k => { k with engGated := k.engGated ||| (1#4 <<< eng.val) })
    else s)

/-- ENGINE_WAKE (R117, R446): a TMMA is queued on a gated engine whose cluster has its clock. -/
def execEngineWake (c : CorePos) (eng : Fin 4) (s : State) : Result :=
  .next (if (getEngine s c eng.val).queue.isEmpty || (getCluster s c.die c.cluster).pllDown then s
    else modCore s c (fun k => { k with engGated := k.engGated &&& ~~~ (1#4 <<< eng.val) }))

/-- A core or engine that is fenced or failed has its cluster replaced while a spare remains (R133). -/
def fencedNeedsSpare (s : State) (c : CorePos) : State :=
  if (getMap s c.die).spare ≠ 0xF then clusterFails s c.die c.cluster 0x05 else s

/-- The engine is fenced: its TMMA and those behind it move to the substitute (R120, R121). -/
def fenceEngine (s : State) (c : CorePos) (e : Nat) (t : Tmma) : State :=
  let s := modCore s c (fun k => { k with fenced := k.fenced ||| (1#4 <<< e) })
  let sub := substituteOf (getCore s c).fenced e
  let moved := { t with prior := t.prior + t.execs, execs := 1 } :: (getEngine s c e).queue
  let s := modEngine s c e (fun x => { x with queue := [], running := none, rows := [], flags := 0 })
  let s := modEngine s c sub (fun x => { x with queue := x.queue ++ moved })
  let s := queueRepair s (engineEntry c.die (physCluster s c.die c.cluster) c.core (getCore s c).fenced false 0x05)
  let s := recordSlice s { source := srcCore c, event := evEngineFenced, status := stCheckFailed, location := BitVec.ofNat 64 e } (coreSlice s c)
  fencedNeedsSpare s c

/-- ENGINE_RESIDUE_FAIL (R118 to R120): a check of the TMMA in execution fails. -/
def execEngineResidueFail (c : CorePos) (eng : Fin 4) (s : State) : Result :=
  let e := eng.val
  .next (match (getEngine s c e).running with
    | none => s
    | some t =>
      if !engineRuns s c e then s
      else
        let recomp (s : State) : State := modCore s c (fun k => { k with engRecomp := satUp k.engRecomp 1 0xFFFF })
        if t.execs < 3 then startTmma (modEngine (recomp s) c e (fun x => { x with running := none, rows := [], flags := 0 })) c e { t with execs := t.execs + 1 }
        else if ([0, 1, 2, 3].any (fun k => k ≠ e && !(getCore s c).fenced.getLsbD k)) then fenceEngine (recomp s) c e t
        else failCore s c)

end Sys2Proof.Machine
end

