-- ==== Sys2Proof/Machine/Cluster.lean ====
section
/-! DEFINITION. Spare clusters, the numbering of clusters in service, and die-to-die links (R17, R18, R21, R24, R132 to R134, R472, R485). -/

namespace Sys2Proof.Machine

/-! ## The repair record's word on clusters and engines (R149, R472) -/

def entryKind (e : Word) : Nat := fieldN e.toNat 60 4
def entryDie (e : Word) : Nat := fieldN e.toNat 56 4
def entryPcl (e : Word) : Nat := fieldN e.toNat 51 5
def entryCore (e : Word) : Nat := fieldN e.toNat 42 6
def entryFenced (e : Word) : BitVec 4 := e.extractLsb' 38 4
def entryFailed (e : Word) : Bool := e.getLsbD 37

/-- Entries of KIND 0b0011 for one core. -/
def coreEntries (rec : List Word) (d pcl core : Nat) : List Word :=
  rec.filter (fun e => entryKind e = 3 && entryDie e = d && entryPcl e = pcl && entryCore e = core)

/-- Engines of a core that the record fences. -/
def recFenced (rec : List Word) (d pcl core : Nat) : BitVec 4 := (coreEntries rec d pcl core).foldl (fun b e => b ||| entryFenced e) 0

/-- The record marks the core failed. -/
def recFailed (rec : List Word) (d pcl core : Nat) : Bool := (coreEntries rec d pcl core).any entryFailed

/-- The record takes a physical cluster out of service (R472). -/
def recOut (rec : List Word) (d pcl : Nat) : Bool :=
  rec.any (fun e => (entryKind e = 4 || (entryKind e = 3 && entryFailed e)) && entryDie e = d && entryPcl e = pcl)

/-! ## A cluster made empty -/

/-- The windows of a logical cluster are zero, and hold no poison (R408). -/
def zeroWindows (s : State) (d l : Nat) : State :=
  let f0 := feltKey d l 0
  let t0 := tileKey d l 0 0
  let hit (k : Nat) : Bool := (f0 ≤ k && k < f0 + 0x800000) || (t0 ≤ k && k < t0 + 0x1000000)
  { s with mem := { s.mem with
      bytes := memZero (memZero s.mem.bytes f0 (f0 + 0x800000)) t0 (t0 + 0x1000000)
      sramPoison := s.mem.sramPoison.filter (fun w => !hit (8 * w)) } }

/-- A core with nothing of a slice in it: its health and its clock's count stay. -/
def emptyCore (k : Core) : Core := { cycle := k.cycle, cycAt := k.cycAt, engRecomp := k.engRecomp, vecRecomp := k.vecRecomp, failed := k.failed, fenced := k.fenced }

/-- A logical cluster holds zeros in every array, register file, queue and slot (R408). -/
def zeroCluster (s : State) (d l : Nat) : State :=
  let s := zeroWindows s d l
  { s with compute := { s.compute with
      strands := s.compute.strands.filter (fun e => e.1 / 512 ≠ clIx d l)
      cores := Tab.mapVals s.compute.cores (fun k c => if k / 16 = clIx d l then emptyCore c else c)
      clusters := Tab.set s.compute.clusters (clIx d l) {} } }

/-- The cores of a logical cluster take the health the record gives a physical cluster (R121). -/
def loadHealth (s : State) (d l pcl : Nat) : State :=
  let rec_ := s.ctl.records.repair
  (List.range 16).foldl (fun s c =>
    { s with compute := { s.compute with
        cores := Tab.upd s.compute.cores (16 * clIx d l + c) {} (fun k => { k with fenced := recFenced rec_ d pcl c, failed := recFailed rec_ d pcl c }) } }) s

/-! ## Spares -/

/-- Why the record takes a cluster out: exhausted re-execution, or an array failure. -/
def outSource (s : State) (d l : Nat) : Nat :=
  if (List.range 16).any (fun c => (Tab.getD s.compute.cores (16 * clIx d l + c) {}).failed || (Tab.getD s.compute.cores (16 * clIx d l + c) {}).fenced ≠ 0) then 0x05 else 0x06

/-- A cluster has a core that is only fenced, and none that has failed: it stays in service when no spare remains (R134). -/
def onlyFenced (s : State) (d l : Nat) : Bool :=
  let ks := (List.range 16).map (fun c => Tab.getD s.compute.cores (16 * clIx d l + c) {})
  ks.any (fun k => k.fenced ≠ 0) && !ks.any (fun k => k.failed)

/-- The spare is used: a cluster that was waiting for it too leaves service at once, unless it is only fenced (R24, R134). -/
def noSpareLeft (s : State) (d : Nat) : State :=
  let waiting := (getMap s d).failedCl
  (waiting.filter (fun l => !onlyFenced s d l)).foldl (fun s l => clusterLeaves s d l (outSource s d l)) (modMap s d (fun m => { m with failedCl := [] }))

/-- SPARE_SUBSTITUTE (R24, R133, R134): the failed cluster holds no resident slice; the spare, zeroed, takes its logical number. -/
def execSpareSubstitute (die : Fin 4) (cluster : Fin 12) (s : State) : Result :=
  let d := die.val
  let l := cluster.val
  let m := getMap s d
  .next (
    if !m.failedCl.contains l || m.spare = 0xF || (sliceOn s d l).isSome then s
    else
      let old := physCluster s d l
      let src := outSource s d l
      let s := loadHealth (zeroCluster s d l) d l m.spare
      let s := modMap s d (fun x => { x with map := Tab.set x.map l m.spare, spare := 0xF, failedCl := x.failedCl.filter (fun k => k ≠ l) })
      let s := { s with rst := { s.rst with spareUsed := s.rst.spareUsed ||| (1#4 <<< d) } }
      let s := queueRepair s (clusterEntry d old src)
      pumpMem (noSpareLeft (record s { source := srcKind 0x5 (13 * d + old), event := evSpareIn, location := BitVec.ofNat 64 l }) d))

/-! ## Renumbering -/

/-- Some defined slice names a logical cluster. -/
def clusterNamed (s : State) (d l : Nat) : Bool := s.ctl.slices.any (fun e => e.2.clusters.contains (d, l))

/-- The highest logical number in service, and the lowest vacated number below it. -/
def renumberPair (s : State) (d : Nat) : Option (Nat × Nat) :=
  match (List.range 12).reverse.find? (fun l => physCluster s d l ≠ 0xF) with
  | none => none
  | some h =>
    match (List.range h).find? (fun l => physCluster s d l = 0xF) with
    | none => none
    | some v => some (h, v)

/-- A core's health moves with its physical core. -/
def moveHealth (s : State) (d h v : Nat) : State :=
  (List.range 16).foldl (fun s c =>
    let k := Tab.getD s.compute.cores (16 * clIx d h + c) {}
    { s with compute := { s.compute with cores := Tab.erase (Tab.set s.compute.cores (16 * clIx d v + c) (emptyCore k)) (16 * clIx d h + c) } }) s

/-- CLUSTER_RENUMBER (R24, R134, R485): the physical cluster of the highest number moves to the vacated one, once no defined slice names either. -/
def execClusterRenumber (die : Fin 4) (s : State) : Result :=
  let d := die.val
  .next (match renumberPair s d with
    | none => s
    | some (h, v) =>
      if clusterNamed s d h || clusterNamed s d v then s
      else
        let p := physCluster s d h
        let s := moveHealth (zeroCluster (zeroCluster s d h) d v) d h v
        modMap s d (fun m => { m with map := Tab.set (Tab.set m.map v p) h 0xF, failedCl := m.failedCl.map (fun k => if k = h then v else k) }))

/-! ## Die-to-die links (R17, R18) -/

/-- D2D_FAILOVER (R18): each pair whose path holds the link moves once its accesses in flight are complete. -/
def execD2dFailover (link : Fin 4) (s : State) : Result :=
  .next (
    if s.compute.d2dFailed.getLsbD link.val then s
    else record { s with compute := { s.compute with d2dFailed := s.compute.d2dFailed ||| (1#4 <<< link.val) } }
      { source := srcKind 0x3 link.val, event := evD2dFailover })

/-- D2D_RETURN (R18): the link is retrained; each pair whose path is whole returns to it once its accesses in flight are complete. -/
def execD2dReturn (link : Fin 4) (s : State) : Result :=
  .next (
    if !s.compute.d2dFailed.getLsbD link.val then s
    else record { s with compute := { s.compute with d2dFailed := s.compute.d2dFailed &&& ~~~ (1#4 <<< link.val) } }
      { source := srcKind 0x3 link.val, event := evD2dFailover })

end Sys2Proof.Machine
end

