-- ==== Sys2Proof/Machine/Coll.lean ====
section
/-! DEFINITION. The collective engine's events: quires, entries, joins, the packets of the protocol, timers and lanes (R221 to R247). -/

namespace Sys2Proof.Machine

/-! ## Packets and their operation (R225, R233) -/

/-- A packet for an operation this module has not started is held until it starts. -/
def holdEarly (s : State) (c : Nat) (i : Instr) : State := modGroup s c (fun g => { g with early := g.early ++ [i] })

/-- The next operation the context will start, or one after it. -/
def notStarted (g : Group) (opseq : BitVec 32) : Bool := decide ((opseq - BitVec.ofNat 32 g.opseq).toNat < 2 ^ 31)

/-- Take a packet of a group: one of a stale epoch or of a retired operation is discarded, one of an operation not yet started is held, and one whose PARAMCRC differs refuses the operation (R225, R233). Of an old epoch whose re-form is committed only what ends its operation is taken, and of an operation refused or faulted here likewise (R230, R247; log entry 55). What would retire an entry whose quire's stack is in HOLD waits (R147). -/
def gate (s : State) (h : CollHdr) (i : Instr) (data : Bool) (f : State → Nat → State) : State :=
  match groupFor s h with
  | none => s
  | some (c, g) =>
    if data && g.reform.isSome then s
    else match g.op with
    | some o =>
      if o.opseq = h.opseq then
        if !data && quireHeld s g o.index then s else
        if h.paramcrc ≠ o.paramcrc then refuseOp s c stBadParam else if data && o.refused then s else f s c
      else if notStarted g h.opseq then holdEarly s c i else s
    | none => if notStarted g h.opseq then holdEarly s c i else s

/-- CROWD on a C2 packet is returned with the next CHUNK_ACK to its sender (R315). -/
def noteCrowd (s : State) (c : Nat) (src : BitVec 20) (crowd : Bool) : State :=
  if crowd then modOp s c (fun o => { o with crowdFrom := o.crowdFrom.filter (fun n => n ≠ fdOf src) ++ [fdOf src] }) else s

/-- Collect one packet of a chunk: the state, and the chunk's bytes once its last packet is in. Packets of one chunk come in order. -/
def collect (s : State) (c : Nat) (src : BitVec 20) (h : CollHdr) (down : Bool) (data : List Byte) (last : Bool) : State × Option (List Byte) :=
  match (getGroup s c).op with
  | none => (s, none)
  | some o =>
    let mine (p : PartBuf) : Bool := p.src = src && p.chunk = h.chunk && p.down = down
    let old := o.parts.find? mine
    let rest := o.parts.filter (fun p => !mine p)
    let have_ := match old with
      | some p => if h.part = 0 then some ([], 0) else if p.parts = h.part then some (p.bytes, p.parts) else none
      | none => if h.part = 0 then some ([], 0) else none
    match have_ with
    | none => (modOp s c (fun o => { o with parts := rest }), none)
    | some b =>
      if last then (modOp s c (fun o => { o with parts := rest }), some (b.1 ++ data))
      else (modOp s c (fun o => { o with parts := rest ++ [{ src := src, chunk := h.chunk, down := down, bytes := b.1 ++ data, parts := b.2 + 1 }] }), none)

/-- The first arrival of a chunk from a sender is noted. -/
def noteHeard (s : State) (c : Nat) (n : BitVec 20) (k : Nat) : State :=
  modOp s c (fun o => if heardHas o n k then o else { o with heard := o.heard ++ [(n, k, s.tb.time)] })

/-- A whole partial chunk of a child: held, added in its turn, acknowledged (R219, R234). -/
def acceptUp (s : State) (c : Nat) (child : BitVec 20) (h : CollHdr) (bs : List Byte) (flags : BitVec 4) : State :=
  let g := getGroup s c
  match g.op with
  | none => s
  | some o =>
    let a := getAcc o h.chunk
    let s := if heardHas o child h.chunk then s
      else
        let a := { a with held := a.held ++ [(child, bs, flags)] }
        let a := if a.own then absorb o.entry (childrenOf s g) a else a
        noteHeard (modOp (lanesGood s o.entry) c (fun o => setAcc o a)) c child h.chunk
    match (getGroup s c).op with
    | some o => pumpColl (sendAck s c child (opHdr g o 0) (heardCum o child)) c
    | none => s

/-- CHUNK_UP once its operation is found (R234). -/
def chunkUpIn (src : BitVec 20) (h : CollHdr) (data : List Byte) (flags : BitVec 4) (last crcOk crowd : Bool) (s : State) (c : Nat) : State :=
  let child := fdOf src
  if !(childrenOf s (getGroup s c)).any (fun m => m.node = child) then s
  else
    let x := collect (noteCrowd s c src crowd) c child h false data last
    match x.2 with
    | none => x.1
    | some bs => if crcOk then acceptUp x.1 c child h bs flags else rerequest x.1 c child h.chunk stCheckFailed

/-- CHUNK_UP (R234). -/
def execChunkUp (src : BitVec 20) (h : CollHdr) (data : List Byte) (flags : BitVec 4) (last crcOk crowd : Bool) (s : State) : Result :=
  .next (gate s h (.chunkUp src h data flags last crcOk crowd) true (chunkUpIn src h data flags last crcOk crowd))

/-- Where a result chunk, or a block chunk of an ALLTOALL, comes from. -/
def downFrom (g : Group) (o : CollOp) (src : BitVec 20) : BitVec 20 := if eOp o.entry = opAlltoall then fdOf src else rootOf g

/-- CHUNK_DOWN once its operation is found (R235). -/
def chunkDownIn (src : BitVec 20) (h : CollHdr) (data : List Byte) (_flags : BitVec 4) (last crcOk crowd : Bool) (s : State) (c : Nat) : State :=
  let g := getGroup s c
  match g.op with
  | none => s
  | some o =>
    let origin := downFrom g o src
    let x := collect (noteCrowd s c src crowd) c origin h true data last
    match x.2 with
    | none => x.1
    | some bs =>
      if !crcOk then rerequest x.1 c origin h.chunk stCheckFailed
      else
        let s := noteHeard x.1 c origin h.chunk
        if eOp o.entry = opAlltoall then takeBlock s c h.chunk bs
        else takeChunk s c h.chunk bs

/-- A module that holds no rank of the group counts a discarded chunk (R220). -/
def countDiscard (s : State) (h : CollHdr) (last : Bool) : State :=
  if last && (findGroup s h.gid).isNone then modColl s (fun e => { e with discards := satUp e.discards 1 0xFF }) else s

/-- The write that would follow meets a stack in HOLD: the packet waits (R147). -/
def downHeld (s : State) (h : CollHdr) (last : Bool) : Bool :=
  last && (match groupFor s h with
    | some (_, g) => g.op.any (fun o => o.opseq = h.opseq && isTreeOp (eOp o.entry) && dstHeld s g o.entry h.chunk)
    | none => false)

/-- CHUNK_DOWN (R220, R235). -/
def execChunkDown (src : BitVec 20) (h : CollHdr) (data : List Byte) (flags : BitVec 4) (last crcOk crowd : Bool) (s : State) : Result :=
  .next (if downHeld s h last then s else gate (countDiscard s h last) h (.chunkDown src h data flags last crcOk crowd) true (chunkDownIn src h data flags last crcOk crowd))

/-- CHUNK_ACK once its operation is found: of a block to its sender, of partial chunks by the parent, or of a subtree (R234, R235, R242, R315). -/
def chunkAckIn (src : BitVec 20) (h : CollHdr) (cum : Nat) (crowd : Bool) (s : State) (c : Nat) : State :=
  let g := getGroup s c
  match g.op with
  | none => s
  | some o =>
    let n := fdOf src
    if eOp o.entry = opAlltoall && cum < finalCum g o then
      let freed := (a2aBetween g o.entry (fdNode s) n).take cum
      pumpColl (modOp s c (fun o => { o with retained := o.retained.filter (fun r => !freed.contains r.1) })) c
    else
      let old := nodeVal o.acks n 0
      let new := max old cum
      let s := modOp s c (fun o => windowStep { o with
        acks := nodeSet o.acks n new
        ackAt := if old < new then nodeSet o.ackAt n s.tb.time else o.ackAt } n (new - old) crowd)
      if !isRoot s g && n = parentOf s g then
        pumpColl (modOp s c (fun o => { o with accs := o.accs.filter (fun a => !(a.sentUp && decide (a.chunk < new))) })) c
      else pumpColl (afterCount s c) c

/-- CHUNK_ACK (R235). -/
def execChunkAck (src : BitVec 20) (h : CollHdr) (cum : Nat) (crowd : Bool) (s : State) : Result :=
  .next (gate s h (.chunkAck src h cum crowd) true (chunkAckIn src h cum crowd))

/-- CHUNK_REREQ once its operation is found: the chunk goes again, to the module that asks. -/
def chunkRereqIn (src : BitVec 20) (chunk : Nat) (s : State) (c : Nat) : State :=
  let g := getGroup s c
  match g.op with
  | none => s
  | some o =>
    let now := s.tb.time
    let s := modOp s c (fun o => { o with sentAt := now })
    match o.retained.find? (fun r => r.1 = chunk) with
    | some r => sendChunk s (fdOf src) 0xC1 (opHdr g o chunk) r.2 0
    | none =>
      match o.accs.find? (fun a => a.chunk = chunk && a.sentUp) with
      | some a => sendChunk s (fdOf src) 0xC0 (opHdr g o chunk) a.sum a.flags
      | none => s

/-- CHUNK_REREQ (R234, R235): `h.chunk` is the chunk wanted, which the payload names; bytes 8 to 11 of the prefix are 0 (R232, R233). -/
def execChunkRereq (src : BitVec 20) (h : CollHdr) (s : State) : Result := .next (gate s h (.chunkRereq src h) true (chunkRereqIn src h.chunk))

/-- A later chunk of a sender arrived 20 us ago or more. -/
def laterHeard (s : State) (o : CollOp) (n : BitVec 20) (k : Nat) : Bool := o.heard.any (fun h => h.1 = n && decide (k < h.2.1) && decide (h.2.2 + 20 * usU ≤ s.tb.time))

/-- The member modules of a child's subtree. -/
def subtreeOf (g : Group) : Nat → BitVec 20 → List (BitVec 20)
  | 0, n => [n]
  | k + 1, n => n :: ((g.members.filter (fun m => m.parent = n && m.node ≠ n)).map (fun m => subtreeOf g k m.node)).flatten

/-- The root sends a chunk again down a subtree (R235). -/
def resendDown (s : State) (c : Nat) (peer : BitVec 20) (k : Nat) : State :=
  let g := getGroup s c
  match g.op with
  | none => s
  | some o =>
    match o.retained.find? (fun r => r.1 = k) with
    | none => s
    | some r =>
      let n := (o.rereqs.filter (fun r => r.1 = peer && r.2.1 = k)).foldl (fun a r => a + r.2.2) 0
      if 3 ≤ n then raiseAbort (modOp s c (fun o => { o with refused := true })) c stTimeout false
      else
        let now := s.tb.time
        let s := modOp s c (fun o => { o with sentAt := now, rereqs := o.rereqs.filter (fun r => !(r.1 = peer && r.2.1 = k)) ++ [(peer, k, n + 1)] })
        (subtreeOf g 4 peer).foldl (fun s m => sendChunk s m 0xC1 (opHdr g o k) r.2 0) s

/-- CHUNK_MISSING_TIMER (R234, R235): a chunk lacking 20 us after a later one of its sender is asked for; at the root, a subtree whose acknowledgement has not advanced for 20 us is sent its missing chunk again. -/
def execChunkMissingTimer (ctx : Fin 4096) (peer : BitVec 20) (chunk : Nat) (s : State) : Result :=
  let c := ctx.val
  let g := getGroup s c
  let n := fdOf peer
  .next (match g.op with
    | none => s
    | some o =>
      if o.refused then s
      else if !heardHas o n chunk && laterHeard s o n chunk then rerequest s c n chunk stTimeout
      else if isRoot s g && (childrenOf s g).any (fun m => m.node = n) && decide (chunk < o.sentN) && decide (nodeVal o.acks n 0 ≤ chunk) &&
          decide (max o.sentAt (nodeVal o.ackAt n 0) + 20 * usU ≤ s.tb.time) then resendDown s c n chunk
      else s)

/-- ARRIVE once its operation is found (R238, R241). -/
def arriveIn (src : BitVec 20) (node : BitVec 20) (verdict : Bool) (s : State) (c : Nat) : State :=
  let n := fdOf src
  match (getGroup s c).op with
  | none => s
  | some o =>
    if o.arrived.contains n then s
    else tryArrive (modOp s c (fun o => { o with arrived := o.arrived ++ [n], lastNode := node, verdictBad := o.verdictBad || !verdict })) c

/-- ARRIVE (R238, R241); `verdict` is true where no pair of the subtree differs. -/
def execArrive (src : BitVec 20) (h : CollHdr) (node : BitVec 20) (verdict : Bool) (s : State) : Result :=
  .next (gate s h (.arrive src h node verdict) true (arriveIn src node verdict))

/-- RELEASE after DONE has released the barrier: its last arrival is still counted (R240). -/
def lateRelease (s : State) (h : CollHdr) (node : BitVec 20) : State :=
  match groupFor s h with
  | none => s
  | some (c, g) =>
    match outcomeOf g h.opseq with
    | some l =>
      if l.unreleased then
        countRelease (modGroup s c (fun g => { g with outcomes := g.outcomes.map (fun x => if x.opseq = h.opseq then { x with unreleased := false } else x) })) c node
      else s
    | none => s

/-- RELEASE (R238 to R240). -/
def execRelease (h : CollHdr) (t : Word) (node : BitVec 20) (s : State) : Result :=
  .next (gate (lateRelease s h node) h (.release h t node) true (fun s c => takeRelease s c t.toNat (some node)))

/-- A rank's digest reaches its partner's module (R241). -/
def digestIn (rank : Nat) (bytes : List Byte) (s : State) (c : Nat) : State :=
  match (getGroup s c).op with
  | none => s
  | some o => if (digestOf o rank).isSome then s else tryArrive (modOp s c (fun o => { o with digests := o.digests ++ [(rank, padTo 48 bytes)] })) c

/-- DIGEST (R241). -/
def execDigest (src : BitVec 20) (h : CollHdr) (rank : Nat) (bytes : List Byte) (s : State) : Result :=
  .next (gate s h (.digest src h rank bytes) true (digestIn rank bytes))

/-! ## Outcomes (R230, R242, R244, R245) -/

/-- A request that is resent after the operation retired is answered with the outcome (R232, R244). -/
def answerRetired (s : State) (h : CollHdr) (src : BitVec 20) : State :=
  match groupFor s h with
  | none => s
  | some (_, g) =>
    match outcomeOf g h.opseq with
    | some l =>
      if !isRoot s g then s
      else if l.completed then sendColl s (fdOf src) 0xCC h (doneBytes l.code l.flags l.t)
      else sendColl s (fdOf src) 0xCB h (abortBytes l.code l.cause l.drill)
    | none => s

/-- The root takes the first request or refusal it processes. -/
def rootTake (code cause : BitVec 16) (drill : Bool) (s : State) (c : Nat) : State :=
  if isRoot s (getGroup s c) then rootAbort s c code cause drill else s

/-- ABORT_REQ (R244). -/
def execAbortReq (src : BitVec 20) (h : CollHdr) (cause : BitVec 16) (drill : Bool) (s : State) : Result :=
  .next (gate (answerRetired s h src) h (.abortReq src h cause drill) false (rootTake stAborted cause drill))

/-- REFUSE (R230, R244). -/
def execRefuse (src : BitVec 20) (h : CollHdr) (status : BitVec 16) (s : State) : Result :=
  .next (gate (answerRetired s h src) h (.refuse src h status) false (rootTake status 0 false))

/-- ABORT (R244): the member stops, discards what it retains and retires. -/
def execAbortI (h : CollHdr) (code cause : BitVec 16) (drill : Bool) (s : State) : Result :=
  .next (gate (dropReply s h) h (.abortI h code cause drill) false (fun s c => retireEntry s c code cause 0 drill))

/-- DONE (R241, R242). -/
def execDoneI (h : CollHdr) (code : BitVec 16) (flags : BitVec 4) (t : Word) (s : State) : Result :=
  .next (gate (dropReply s h) h (.doneI h code flags t) false (fun s c => takeDone s c code flags t.toNat))

/-- The operation in progress has this OPSEQ and another agreement block (R225). -/
def disagrees (g : Group) (h : CollHdr) : Bool :=
  match g.op with
  | some o => o.opseq = h.opseq && o.paramcrc ≠ h.paramcrc
  | none => false

/-- OUTCOME_QUERY (R225, R232, R245): what this module saw of the operation; the reply is resent until the outcome comes. -/
def execOutcomeQuery (src : BitVec 20) (h : CollHdr) (s : State) : Result :=
  .next (match groupFor s h with
    | none => s
    | some (c, g) =>
      let x := sawOutcome g h.opseq
      let bytes := leBytes 1 x.1 ++ doneBytes x.2.1 x.2.2.1 x.2.2.2
      let s := if disagrees g h then refuseOp s c stBadParam else s
      if s.fab.c4.any (fun k => k.opcode = 0xCF && k.dst = fdOf src && k.hdr = some h) then sendColl s (fdOf src) 0xCF h bytes
      else sendColl4 s (fdOf src) 0xCF h bytes)

/-- OUTCOME_REPLY once its operation is found. -/
def outcomeIn (src : BitVec 20) (seen : Nat) (code : BitVec 16) (flags : BitVec 4) (t : Nat) (s : State) (c : Nat) : State :=
  let n := fdOf src
  match (getGroup s c).op with
  | none => s
  | some o =>
    if !o.querying || o.replies.any (fun r => r.1 = n) then s
    else
      let s := { s with fab := { s.fab with c4 := s.fab.c4.filter (fun x => !(x.opcode = 0xCE && x.dst = n && x.key = (getGroup s c).gid.toNat)) } }
      standInDecide (modOp s c (fun o => { o with replies := o.replies ++ [(n, seen, code, flags, t)] })) c

/-- OUTCOME_REPLY (R245). -/
def execOutcomeReply (src : BitVec 20) (h : CollHdr) (seen : Nat) (code : BitVec 16) (flags : BitVec 4) (t : Word) (s : State) : Result :=
  .next (gate s h (.outcomeReply src h seen code flags t) false (outcomeIn src seen code flags t.toNat))

/-- OPERATION_TIMEOUT (R243): OPTO ms have passed since the root started the operation. -/
def execOperationTimeout (ctx : Fin 4096) (s : State) : Result :=
  let g := getGroup s ctx.val
  .next (match g.op with
    | none => s
    | some o =>
      if isRoot s g && gOpto g.desc ≠ 0 && !quireHeld s g o.index && decide (o.started + gOpto g.desc * msU ≤ s.tb.time) then rootAbort s ctx.val stAborted stTimeout false else s)

/-- COLL_C4_RESEND (R232): every 20 us until the reply or the effect arrives. -/
def execCollC4Resend (id : Nat) (s : State) : Result :=
  .next (match s.fab.c4.find? (fun c => c.id = id) with
    | none => s
    | some x =>
      match x.hdr with
      | none => s
      | some h =>
        if s.tb.time < x.sent + 20 * usU then s
        else
          let s := { s with fab := { s.fab with c4 := s.fab.c4.map (fun y => if y.id = id then { y with resends := y.resends + 1, sent := s.tb.time } else y) } }
          emit s (match x.box with
            | some b => .multicast b x.opcode h x.data
            | none => .coll x.dst x.opcode h x.data false))

/-! ## Starting (R192, R224, R225, R230) -/

/-- A packet that was held is taken now that its operation has started. -/
def replayEarly (s : State) (i : Instr) : State :=
  let go (r : Result) : State := match r with
    | .next s => s
    | .fault _ => s
    | .refused _ => s
  match i with
  | .chunkUp src h data flags last crcOk crowd => go (execChunkUp src h data flags last crcOk crowd s)
  | .chunkDown src h data flags last crcOk crowd => go (execChunkDown src h data flags last crcOk crowd s)
  | .chunkAck src h cum crowd => go (execChunkAck src h cum crowd s)
  | .chunkRereq src h => go (execChunkRereq src h s)
  | .arrive src h node verdict => go (execArrive src h node verdict s)
  | .release h t node => go (execRelease h t node s)
  | .digest src h rank bytes => go (execDigest src h rank bytes s)
  | .abortReq src h cause drill => go (execAbortReq src h cause drill s)
  | .refuse src h status => go (execRefuse src h status s)
  | .abortI h code cause drill => go (execAbortI h code cause drill s)
  | .doneI h code flags t => go (execDoneI h code flags t s)
  | .outcomeReply src h seen code flags t => go (execOutcomeReply src h seen code flags t s)
  | _ => s

/-- Packets held for the operation are taken. -/
def takeEarly (s : State) (c : Nat) : State :=
  let l := (getGroup s c).early
  l.foldl replayEarly (modGroup s c (fun g => { g with early := [] }))

/-- The operation with this OPSEQ is in progress. -/
def inOp (s : State) (c : Nat) (opseq : BitVec 32) : Bool :=
  match (getGroup s c).op with
  | some o => o.opseq = opseq
  | none => false

/-- The entry has passed its checks: its first moves. -/
def beginEntry (s : State) (c : Nat) (e : BitVec 512) : State :=
  let here := fdNode s
  let s := modOp s c (fun o => { o with begun := true, lastNode := here })
  let op := eOp e
  let s := if op = opPaircmp then makeDigests s c (localRanks s (getGroup s c)) else s
  let s := if op = opBarrier || op = opPaircmp then tryArrive s c else pumpColl s c
  let s := if (getGroup s c).drillAbort then raiseAbort (modGroup s c (fun g => { g with drillAbort := false })) c stAborted true else s
  if rootLost s (getGroup s c) then standInAct s c else s

/-- Operations in progress on the module. -/
def opsInProgress (s : State) : Nat := (s.fab.groups.filter (fun g => g.2.op.isSome)).length

/-- Read the next slot and start its entry: its checks come before anything that was sent or held for it (R230); a slot that cannot be read raises the abort (R243). -/
def startEntry (s : State) (c : Nat) : State :=
  let g := getGroup s c
  let v := hbmRead s (gQdie g.desc) (quireSlot g g.next) 64 (gOwner g.desc)
  let e := BitVec.ofNat 512 (leNat v.2)
  let q := BitVec.ofNat 32 g.opseq
  let s := modGroup s c (fun g => { g with
    next := g.next + 1, opseq := (g.opseq + 1) % 2 ^ 32
    op := some { index := g.next, opseq := q, entry := e, paramcrc := crc32c (agreement e), started := s.tb.time } })
  if v.1 ≠ stOk then collFault s c v.1
  else match entryCheck s (getGroup s c) e with
    | some st => takeEarly (refuseOp s c st) c
    | none =>
      let s := takeEarly s c
      if inOp s c q then beginEntry s c e else s

/-- ENTRY_START (R192, R225, R230, R250): a READY context with nothing in progress starts its next entry. -/
def execEntryStart (ctx : Fin 4096) (s : State) : Result :=
  let g := getGroup s ctx.val
  .next (if g.st = .ready && g.op.isNone && g.reform.isNone && decide (g.next < g.lastPi) && decide (opsInProgress s < 512) && !hbmHeld s (gQdie g.desc) (quireSlot g g.next) 64 then startEntry s ctx.val else s)

/-- Judge a quire's PI (R191, R224). -/
def judgeQuire (s : State) (c pi : Nat) : State :=
  let g := getGroup s c
  if 2 ^ gLog2n g.desc < (pi + 2 ^ 64 - g.ci) % 2 ^ 64 then modGroup s c (fun g => { g with st := .error, cause := stBadParam })
  else if pi < g.lastPi then s
  else modGroup s c (fun g => { g with lastPi := pi })

/-- QUIRE_WAKE (R190, R191, R224): the pending bit is cleared, then PI is read as OWNER. -/
def execQuireWake (ctx : Fin 4096) (s : State) : Result :=
  let c := ctx.val
  let g := getGroup s c
  .next (
    if !g.pendingBit || !(g.st = .joining || g.st = .ready) || hbmHeld s (gQdie g.desc) (gPioff g.desc) 8 then s
    else
      let s := modGroup s c (fun g => { g with pendingBit := false })
      let v := hbmRead s (gQdie g.desc) (gPioff g.desc) 8 (gOwner g.desc)
      if v.1 = stViolation then raiseAbort (freezeGroup s c) c stViolation false
      else if v.1 = stPoisoned then s
      else judgeQuire s c (leNat v.2))

/-! ## Joining (R221) -/

/-- GROUP_JOIN (R221): a join that does not match is discarded; one that repeats after READY is answered. -/
def execGroupJoin (src : BitVec 20) (gid : BitVec 16) (gepoch : BitVec 8) (mapcrc : BitVec 32) (s : State) : Result :=
  let n := fdOf src
  .next (match findGroup s gid with
    | none => s
    | some (c, g) =>
      if g.epoch ≠ gepoch || gMapcrc g.desc ≠ mapcrc || !(childrenOf s g).any (fun m => m.node = n) then s
      else if g.st = .joining then
        if g.joined.contains n then s else tryJoin (modGroup s c (fun g => { g with joined := g.joined ++ [n] })) c
      else if g.st = .ready then sendColl s n 0xC9 (collHdr g 0 0 0) (readyBytes g)
      else s)

/-- The joins a context has sent need no more resending. -/
def dropJoins (s : State) (gid : BitVec 16) : State :=
  { s with fab := { s.fab with c4 := s.fab.c4.filter (fun x => !(x.opcode = 0xC8 && x.key = gid.toNat)) } }

/-- GROUP_READY (R221). -/
def execGroupReady (gid : BitVec 16) (gepoch : BitVec 8) (s : State) : Result :=
  .next (match findGroup s gid with
    | none => s
    | some (c, g) => if g.epoch = gepoch && g.st = .joining then dropJoins (modGroup s c (fun g => { g with st := .ready })) gid else s)

/-- JOIN_TIMEOUT (R221): 10 ms after the commit the context is not READY. -/
def execJoinTimeout (ctx : Fin 4096) (s : State) : Result :=
  let c := ctx.val
  let g := getGroup s c
  .next (if g.st = .joining && decide (g.committed + 10 * msU ≤ s.tb.time) then dropJoins (modGroup s c (fun g => { g with st := .error, cause := stTimeout })) g.gid else s)

/-! ## Release of barriers (R239, R264) -/

/-- BARRIER_PREWAKE (R264): 50 ns before T the control cores of those clusters are ungated. -/
def execBarrierPrewake (ctx : Fin 4096) (s : State) : Result :=
  let g := getGroup s ctx.val
  .next (match g.op with
    | none => s
    | some o =>
      match o.t with
      | none => s
      | some t =>
        match reachTime s (t - 50 * nsU) with
        | none => s
        | some s =>
          let cs := barClusters s g
          { s with compute := { s.compute with
              cores := Tab.mapVals s.compute.cores (fun k x => if coreInClusters cs k then ungate s (k / 192) x else x)
              clusters := Tab.mapVals s.compute.clusters (fun k x => if cs.any (fun c => clIx c.1 c.2 = k) then { x with pllDown := false } else x) } })

/-- BARRIER_RELEASE (R239): at T the counts are made and the entry retires with OK. -/
def execBarrierRelease (ctx : Fin 4096) (s : State) : Result :=
  let c := ctx.val
  let g := getGroup s c
  .next (match g.op with
    | none => s
    | some o =>
      match o.t with
      | none => s
      | some t =>
        match if quireHeld s g o.index then none else reachTime s t with
        | none => s
        | some s =>
          let s := if eAcen o.entry then (localDies s g).foldl (fun s d => counterAddTo s d (eActr o.entry) 1) s else s
          retireEntry s c stOk 0 0 false)

/-! ## Lanes (R236) -/

/-- Operations in progress that add. -/
def addingOps (s : State) : List Nat :=
  (s.fab.groups.filter (fun g => match g.2.op with
    | some o => opAdds (eOp o.entry)
    | none => false)).map Prod.fst

/-- LANE_RESIDUE_FAIL (R236): the addition is done again; after three failures the lane is fenced, and with no lane left every operation that adds is aborted. -/
def execLaneResidueFail (lane : Fin 64) (s : State) : Result :=
  let e := s.fab.coll
  .next (
    if e.fencedLanes.contains lane.val then s
    else
      let n := Tab.getD e.laneFails lane.val 0 + 1
      let s := modColl s (fun e => { e with ruRecomp := satUp e.ruRecomp 1 0xFF, laneFails := Tab.set e.laneFails lane.val n })
      if n < 3 then s
      else
        let s := modColl s (fun e => { e with fencedLanes := e.fencedLanes ++ [lane.val] })
        let s := record s { source := srcKind 0xA 1, event := evEngineFenced, status := stCheckFailed, location := BitVec.ofNat 64 lane.val }
        if s.fab.coll.fencedLanes.length < 64 then s
        else (addingOps s).foldl (fun s c => raiseAbort (modOp s c (fun o => { o with refused := true })) c stCheckFailed false) s)

end Sys2Proof.Machine
end

