-- ==== Sys2Proof/Machine/Couch.lean ====
section
/-! DEFINITION. The couch engine's events: wakes, descriptors, copies at both ends, bulk flows and the opening and closing of flows (R190 to R213, R547). -/

namespace Sys2Proof.Machine

/-! ## Wakes (R190, R191) -/

/-- Judge a PI that has been read (R191). -/
def judgePi (s : State) (r pi : Nat) : State :=
  let x := getRing s r
  if ringN x < (pi + 2 ^ 64 - x.ci) % 2 ^ 64 then modRing s r (fun x => { x with st := .error, cause := stBadParam })
  else if pi < x.lastPi then s
  else modRing s r (fun x => { x with lastPi := pi })

/-- Read the PI line of an ACTIVE ring as its owner. A poisoned line gives no PI. -/
def readPi (s : State) (r : Nat) : State :=
  let x := getRing s r
  let v := hbmRead s x.die x.piLine 8 x.owner
  if v.1 = stViolation then freezeRing s r x.next 0
  else if v.1 = stPoisoned then s
  else judgePi s r (leNat v.2)

/-- RING_WAKE (R190, R191): the pending bit is cleared, then PI is read, once its stack takes requests (R147). -/
def execRingWake (ring : Fin 4096) (s : State) : Result :=
  let r := ring.val
  .next (if (getRing s r).pendingBit && (getRing s r).st = .active && !hbmHeld s (getRing s r).die (getRing s r).piLine 8 then readPi (modRing s r (fun x => { x with pendingBit := false })) r else s)

/-! ## Start checks (R198, R547) -/

def dReservedOk (d : BitVec 512) : Bool :=
  d.extractLsb' 448 64 = 0 && d.extractLsb' 348 36 = 0 && d.extractLsb' 334 2 = 0 && d.extractLsb' 301 3 = 0

def isCopyOp (op : BitVec 4) : Bool := op = 1 || op = 2 || op = 3

/-- Every field the OP does not use is zero (R547). -/
def dUnusedOk (d : BitVec 512) : Bool :=
  let op := dOp d
  (op = 1 || op = 2 || op = 3 || dSrc d = 0) &&
  (isCopyOp op || op = 5 || (dDst d = 0 && dDkey d = 0 && dDctr d = 0)) &&
  (op = 1 || op = 3 || dSkey d = 0) &&
  (isCopyOp op || dCunit d = 0) &&
  (op = 3 || dMkh d = 0) &&
  (dDcen d || dDctr d = 0) &&
  (op ≠ 5 || addrOff (dDst d) = 0)

/-- Check 1 of R198. -/
def check1 (d : BitVec 512) : Bool :=
  decide ((dOp d).toNat ≤ 5) && (dCunit d = 0 || (decide (6 ≤ dCunit d) && decide (dCunit d ≤ 30))) && dReservedOk d && dUnusedOk d

/-- An address a copy may use: a multiple of 64 that names a compute endpoint. -/
def copyAddrOk (a : Word) : Bool := a.toNat % 64 = 0 && a.extractLsb' 62 2 = 0 && decide (nodeEp (addrNode a) < 4)

/-- Check 2 of R198. -/
def check2 (d : BitVec 512) : Bool :=
  let op := dOp d
  if isCopyOp op then
    dLength d ≠ 0 && dLength d % 64 = 0 && copyAddrOk (dDst d) && (op = 2 || copyAddrOk (dSrc d))
  else dLength d = 0 && (op ≠ 5 || (dDcen d && copyAddrOk (dDst d)))

/-- Check 3 of R198: the ranges of a COPY do not overlap. -/
def check3 (d : BitVec 512) : Bool :=
  dOp d ≠ 1 || decide ((dSrc d).toNat + dLength d ≤ (dDst d).toNat) || decide ((dDst d).toNat + dLength d ≤ (dSrc d).toNat)

/-- Check 4 of R198. -/
def check4 (s : State) (d : BitVec 512) : Bool := dOp d ≠ 3 || (dCunit d = 0 && isHere s (addrNode (dDst d)))

/-- Check 5 of R198. -/
def check5 (s : State) (x : Ring) (d : BitVec 512) : Bool :=
  (!dCcen d || ownsCounter s x.die (dCctr d).toNat x.owner) &&
  (dOp d ≠ 3 || (match Tab.find s.fab.mouldKeys (dMkh d) with
    | some k => k.slice = x.owner
    | none => false))

/-- The status of the first start check that fails, if any (R198). -/
def startCheck (s : State) (x : Ring) (d : BitVec 512) : Option (BitVec 16) :=
  if !check1 d || !check2 d || !check3 d || !check4 s d then some stBadParam
  else if !check5 s x d then some stDenied
  else none

/-! ## Starting (R192, R193, R197, R207) -/

/-- The sending half of a ring's descriptor on this module. -/
def ringCopy (s : State) (r index : Nat) : Option Copy :=
  s.fab.copies.find? (fun c => !c.atDest && c.issuer = fdNode s && c.ring = r && c.slot = index)

/-- A SIGNAL at the head of its ring goes out (R197). -/
def kickSignal (s : State) (r : Nat) : State :=
  let x := getRing s r
  match x.prog.find? (fun p => p.index = x.ci) with
  | none => s
  | some p =>
    if p.code.isNone && dOp p.desc = 5 && (ringCopy s r p.index).isNone then startCopy s (fdNode s) r p.index x.die x.owner p.desc
    else s

/-- Bytes of COPY_DELEGATE (R205). -/
def delegateBytes (s : State) (r index : Nat) (d : BitVec 512) : List Byte :=
  leBytes 64 d.toNat ++ leBytes 4 (fdNode s).toNat ++ leBytes 2 r ++ leBytes 2 index

/-- A descriptor that has passed its checks starts. -/
def beginDesc (s : State) (r index : Nat) (d : BitVec 512) : State :=
  let x := getRing s r
  let op := dOp d
  if op = 0 || op = 4 then endDesc s r index stOk 0
  else if op = 5 then kickSignal s r
  else if op = 2 || isHere s (addrNode (dSrc d)) then startCopy s (fdNode s) r index x.die x.owner d
  else match decodeReq s (dSrc d) with
    | .violation => freezeRing s r index 0
    | .poisoned => endDesc s r index stPoisoned 0
    | .send => sendC4 s (fdOf (addrNode (dSrc d))) 0xB5 x.owner (descTag r index).toNat (delegateBytes s r index d)

/-- A ring with a descriptor ready (R193, R197): none starts past a FENCE that has not retired. -/
def ringReady (x : Ring) : Bool :=
  x.st = .active && decide (x.next < x.lastPi) && decide (x.prog.length < 16) && !x.prog.any (fun p => p.read && p.passed && dOp p.desc = 4)

/-- Descriptors in progress on the module. -/
def descsInProgress (s : State) : Nat := (s.fab.rings.map (fun r => r.2.prog.length)).foldl (· + ·) 0

/-- The next descriptor is a FENCE that earlier ones still hold up: the ring has none ready (R197). -/
def fenceHeld (s : State) (x : Ring) : Bool :=
  let v := hbmRead s x.die (slotOff x x.next) 64 x.owner
  let d := BitVec.ofNat 512 (leNat v.2)
  v.1 = stOk && dOp d = 4 && (startCheck s x d).isNone && !x.prog.isEmpty

/-- Weighted round-robin: the ring has starts left this round, or every ready ring has used its own and a new round begins. -/
def takeTurn (s : State) (r : Nat) : Option State :=
  let grant (s : State) : State := modRing s r (fun x => { x with granted := x.granted + 1 })
  if (getRing s r).granted < (getRing s r).weight then some (grant s)
  else if s.fab.rings.any (fun e => ringReady e.2 && !fenceHeld s e.2 && decide (e.2.granted < e.2.weight)) then none
  else some (grant { s with fab := { s.fab with rings := Tab.mapVals s.fab.rings (fun _ x => { x with granted := 0 }) } })

/-- Read the next slot of a ring and start, fail or hold what it holds. -/
def startNext (s : State) (r : Nat) : State :=
  let x := getRing s r
  let i := x.next
  let v := hbmRead s x.die (slotOff x i) 64 x.owner
  let enter (s : State) (p : DescProg) : State := modRing s r (fun x => { x with next := i + 1, prog := x.prog ++ [p] })
  if v.1 = stViolation then freezeRing s r i 0
  else if v.1 = stPoisoned then
    match takeTurn s r with
    | none => s
    | some s => enter s { index := i, desc := 0, read := false, passed := false, code := some stPoisoned }
  else
    let d := BitVec.ofNat 512 (leNat v.2)
    if fenceHeld s x then s
    else match takeTurn s r with
      | none => s
      | some s =>
        match startCheck s x d with
        | some st => enter s { index := i, desc := d, passed := false, code := some st }
        | none => beginDesc (enter s { index := i, desc := d }) r i d

/-- DESCRIPTOR_START (R147, R192, R193, R198). -/
def execDescriptorStart (ring : Fin 4096) (s : State) : Result :=
  let x := getRing s ring.val
  .next (if ringReady x && decide (descsInProgress s < 8192) && !hbmHeld s x.die (slotOff x x.next) 64 then startNext s ring.val else s)

/-- DESCRIPTOR_RETIRE (R210): the earliest descriptor in progress retires once it has ended. -/
def execDescriptorRetire (ring : Fin 4096) (s : State) : Result :=
  let r := ring.val
  let x := getRing s r
  .next (match x.prog.find? (fun p => p.index = x.ci) with
    | some p =>
      match p.code with
      | some code => if hbmHeld s x.die (slotOff x p.index) 64 || hbmHeld s x.die x.ciLine 64 then s else kickSignal (retireDesc s r p code) r
      | none => s
    | none => s)

/-! ## Copies (R200, R205, R207) -/

/-- COPY_DELEGATE (R207): a descriptor of another module's ring whose source is here. A copy of one that runs, or has ended a moment ago, is not run again. -/
def execCopyDelegate (issuer : BitVec 20) (ring : Nat) (slot : Nat) (slice : BitVec 16) (desc : List Byte) (s : State) : Result :=
  let s := tidyCopies s
  let d := BitVec.ofNat 512 (leNat (desc.take 64))
  .next (match s.fab.copies.find? (fun c => !c.atDest && c.issuer = issuer && c.ring = ring && c.slot = slot && c.src = dSrc d && c.dst = dDst d) with
    | some c =>
      match c.ended with
      | some st => tellIssuer s c st c.units
      | none => s
    | none =>
      if (findSlice s slice).isNone || !isHere s (addrNode (dSrc d)) then
        emit s (.c4 issuer 0xB7 slice ring (copyEndBytes (descTag ring slot) stDenied 0))
      else startCopy s issuer ring slot 0 slice d)

/-- The destination counter is owned by the slice that owns the deckle DKEY names (R200). -/
def dctrOk (s : State) (d : Nat) (dkey : Word) (dctr : BitVec 14) : Bool :=
  let x := getDeckle s (keyIndex dkey)
  x.valid && ownsCounter s d dctr.toNat x.owner

/-- SIGNAL at its destination (R200): checks 2 and 3 of R176, then the counter's owner, then the count. -/
def signalDest (s : State) (d : Nat) (src : BitVec 20) (slice : BitVec 16) (dst dkey : Word) (dctr : BitVec 14) : BitVec 16 × State :=
  let x := getDeckle s (keyIndex dkey)
  let home (s : State) : State := modEp s d (fun e => { e with violHome := satUp e.violHome 1 0xFF })
  if x.spoiled then (stPoisoned, s)
  else if !x.valid || x.endpoint ≠ d then (stViolation, home s)
  else if keySecret dkey ≠ x.secret then (stViolation, home (countViolation s (copyReq src slice dst dkey true)))
  else if !dctrOk s d dkey dctr then (stDenied, s)
  else (stOk, counterAddTo s d dctr.toNat 1)

/-- COPY_START (R200, R205, R207) at the module of the destination. One that repeats a copy already known is answered again if it has ended, and otherwise absorbed. -/
def execCopyStart (src : BitVec 20) (slice : BitVec 16) (tag : BitVec 16) (op : BitVec 4) (dst dkey : Word) (dctr : BitVec 14) (dcen : Bool) (cunit : Nat) (length : Nat) (mkh : Nat) (s : State) : Result :=
  let s := tidyCopies s
  let same (c : Copy) : Bool := c.op = op && c.dst = dst && c.dkey = dkey && c.dctr = dctr && c.dcen = dcen && c.cunit = cunit && c.length = length && c.mkh = mkh
  let known := match findDest s src tag with
    | some c => same c
    | none => false
  .next (
    if !isHere s (addrNode dst) then s
    else if known then
      match findDest s src tag with
      | some c =>
        match c.ended with
        | some st => emit s (.c4 (fdOf src) 0xB7 0xFFFF tag.toNat (copyEndBytes tag st c.sent))
        | none => s
      | none => s
    else
      let d := nodeEp (addrNode dst)
      let c : Copy := { tag := tag, atDest := true, peer := src, issuer := src, ring := 0, slot := 0, slice := slice, op := op, src := 0, dst := dst, skey := 0, dkey := dkey, dctr := dctr, dcen := dcen, cunit := cunit, length := length, mkh := mkh }
      let s := { s with fab := { s.fab with copies := s.fab.copies.filter (fun x => !(x.atDest && x.tag = tag && nodeModule x.peer = nodeModule src)) ++ [c] } }
      if op = 5 then
        let x := signalDest s d src slice dst dkey dctr
        destEnd x.2 src tag x.1 0
      else if dcen && !dctrOk s d dkey dctr then destEnd s src tag stDenied 0
      else s)

/-- The payload of one accepted packet reaches its copy; a copy that has ended writes nothing more. -/
def bulkDeliver (s : State) (c : Copy) (off : Nat) (data : List Byte) (bad : List Nat) : State :=
  if c.ended.isSome then s
  else if c.op = 3 then mouldData s c off data bad
  else plainData s c off data

/-- The destination's memory holds the write back (R147, R163): the packet waits, and is not yet accepted. -/
def deliverHeld (s : State) (c : Copy) (off n : Nat) : Bool :=
  c.ended.isNone && c.op ≠ 3 && copyHeld s (copyReq c.peer c.slice (c.dst + BitVec.ofNat 64 off) c.dkey true) n

/-- BULK_DATA (R200, R205, R206, R209): a packet whose trailer is not the CRC of what it covers is discarded. `bad` names the tags of the container that fail: 0 its header's, i + 1 segment i's. -/
def execBulkData (src : BitVec 20) (flow : BitVec 20) (seq : BitVec 24) (tag : BitVec 16) (offset : Nat) (data : List Byte) (crc : BitVec 32) (bad : List Nat) (s : State) : Result :=
  .next (match findRecv s src flow, findDest s src tag with
    | some f, some c =>
      if crc ≠ bulkCrc src flow seq tag offset data || deliverHeld s c offset data.length || 256 ≤ (seq - f.cum).toNat || f.arrived.contains seq || decide (c.length < offset + data.length) then s
      else
        let s := bulkDeliver s c offset data bad
        let now := s.tb.time
        let s := modRecv s src flow (fun f =>
          let f := advanceCum 257 { f with arrived := f.arrived ++ [seq] }
          { f with uncovered := f.uncovered + 1, uncoveredSince := if f.uncovered = 0 then now else f.uncoveredSince })
        match findRecv s src flow with
        | some f => if 16 ≤ f.uncovered then sendBulkAck s src flow else s
        | none => s
    | _, _ => s)

/-- BULK_ACK_TIMER (R206): 2 us after an accepted packet that no BULK_ACK has covered. -/
def execBulkAckTimer (src : BitVec 20) (flow : BitVec 20) (s : State) : Result :=
  .next (match findRecv s src flow with
    | some f => if f.uncovered ≠ 0 && decide (f.uncoveredSince + 2 * usU ≤ s.tb.time) then sendBulkAck s src flow else s
    | none => s)

/-! ## The sender's side of a bulk flow (R206) -/

/-- A sequence that a BULK_ACK shows arrived. -/
def ackCovers (cum : BitVec 24) (map : BitVec 256) (q : BitVec 24) : Bool :=
  let k := (q - cum).toNat
  decide (2 ^ 23 ≤ k) || (decide (1 ≤ k) && decide (k ≤ 256) && map.getLsbD (k - 1))

/-- Sequences later than one that a BULK_ACK shows arrived. -/
def laterArrived (cum : BitVec 24) (map : BitVec 256) (q : BitVec 24) : Nat :=
  ((List.range 256).filter (fun i => map.getLsbD i && decide ((q - cum).toNat < i + 1))).length

/-- Send one outstanding packet again: the source is read again under SKEY. -/
def resendBulk (s : State) (k : Nat) (o : BulkOut) : State :=
  match findCopy s o.tag, getFlow s k with
  | some c, some f =>
    if c.ended.isSome || dataHeld s c o.offset o.len then s
    else
      match copyData s c o.offset o.len with
      | (st, bs, s) =>
        if st ≠ stOk then senderStop s o.tag st
        else
          let s := bumpFlowCtr s f.slice (nodeEp f.src) 5 1
          sendBulk { s with fab := { s.fab with retrans := satUp s.fab.retrans 1 0xFFFF } } f k o.seq o.tag o.offset bs
  | _, _ => s

/-- The window after `n` packets more have been acknowledged. -/
def growWindow (f : Flow) (n : Nat) : Flow :=
  let a := f.ackedInWindow + n
  if f.window ≤ a then { f with window := min (f.window + 1) 256, ackedInWindow := a - f.window } else { f with ackedInWindow := a }

/-- The window halves at most once per window of packets sent. -/
def halveWindow (f : Flow) : Flow :=
  if f.window ≤ f.sentSinceHalve then { f with window := max (f.window / 2) 4, sentSinceHalve := 0, ackedInWindow := 0 } else f

/-- COPY_START has its answer once the flow acknowledges a packet of the copy. -/
def ackedStarts (s : State) (tags : List (BitVec 16)) : State := tags.foldl (fun s t => dropC4 s 0xB6 t.toNat) s

/-- BULK_ACK (R206). -/
def execBulkAck (flow : BitVec 20) (cum : BitVec 24) (map : BitVec 256) (s : State) : Result :=
  let k := flow.toNat
  .next (match getFlow s k with
    | none => s
    | some f =>
      if !f.bulk then s
      else
        let gone := f.out.filter (fun o => ackCovers cum map o.seq)
        let left := f.out.filter (fun o => !ackCovers cum map o.seq)
        let ahead := cum ≠ f.cum && decide ((cum - f.cum).toNat < 2 ^ 23)
        let lost := left.filter (fun o => decide (32 ≤ laterArrived cum map o.seq))
        let now := s.tb.time
        let s := modFlow s k (fun f =>
          let f := growWindow { f with out := left, lastUse := now } gone.length
          let f := if lost.isEmpty then f else halveWindow f
          if ahead then { f with cum := cum, rto := 20 * usU, timerFrom := now, progress := now } else f)
        let s := ackedStarts s (gone.map (fun o => o.tag))
        let s := lost.foldl (fun s o => resendBulk s k o) s
        pumpCopies (tidyCopies s))

/-- RETRANSMISSION_TIMER (R206): the oldest unacknowledged packet goes again, and the timer doubles up to 160 us. -/
def execRetransmissionTimer (flow : BitVec 20) (s : State) : Result :=
  let k := flow.toNat
  .next (match getFlow s k with
    | none => s
    | some f =>
      match f.out.head? with
      | none => s
      | some o =>
        if s.tb.time < f.timerFrom + f.rto then s
        else resendBulk (modFlow s k (fun f => { f with rto := min (2 * f.rto) (160 * usU), timerFrom := s.tb.time })) k o)

def flowFailed (s : State) : State := { s with fab := { s.fab with flowsFailed := satUp s.fab.flowsFailed 1 0xFF } }

/-- BULK_FLOW_FAIL (R206): CUM has not advanced for 1 ms while data is outstanding. -/
def execBulkFlowFail (flow : BitVec 20) (s : State) : Result :=
  let k := flow.toNat
  .next (match getFlow s k with
    | none => s
    | some f =>
      if f.out.isEmpty || decide (s.tb.time < f.progress + msU) then s
      else pumpCopies (flowFailed (closeFlow (endCopiesOn s k stTimeout) k)))

/-- COPY_END (R207, R211): at the sender it answers the copy; at the issuer it answers COPY_DELEGATE. COUNTED of a copy whose destination is this module is that half's own count. -/
def execCopyEnd (toIssuer : Bool) (tag : BitVec 16) (status : BitVec 16) (counted : Nat) (s : State) : Result :=
  if !toIssuer then .next (pumpCopies (senderEnd s tag status counted))
  else
    let r := tag.toNat / 16
    .next (match progOf s r (tag.toNat % 16) with
      | none => s
      | some p =>
        let s := dropC4 s 0xB5 tag.toNat
        let n := match destOf s (getRing s r).owner (dOp p.desc) (dDst p.desc) (dDkey p.desc) (dLength p.desc) with
          | some c => destCounted c
          | none => counted
        issuerEnd s r p.index status n)

/-! ## Opening and closing flows (R203, R204) -/

/-- FLOW_OPEN at a destination: DENIED where the slice is not defined here, BUSY where no context is free, else the context is made and acknowledged; a repeat is acknowledged again. -/
def openHere (s : State) (src dst flow : BitVec 20) (bulk : Bool) (slice : BitVec 16) (seq0 : BitVec 24) : State :=
  let ep := nodeEp dst
  let reply (s : State) (recv : BitVec 20) : State := emit s (.c4 (fdOf src) 0xB1 slice flow.toNat (leBytes 4 recv.toNat))
  let nak (s : State) (st : BitVec 16) : State := emit s (.c4 (fdOf src) 0xB2 slice flow.toNat (leBytes 2 st.toNat))
  let f := takeFree s
  let recv := BitVec.ofNat 20 ((pickContext s f.1.toNat).getD 0)
  match (if bulk then (findRecv s src flow).map (fun x => (x.recv, false)) else (findHome s ep src flow).map (fun h => (h.recv, h.closed))) with
  | some x => if x.2 then s else reply s x.1
  | none =>
    if (findSlice s slice).isNone then nak s stDenied
    else if !mayOpen s slice || (pickContext s f.1.toNat).isNone then nak s stBusy
    else if bulk then
      reply { f.2 with fab := { f.2.fab with recvFlows := f.2.fab.recvFlows ++ [{ src := src, flow := flow, slice := slice, recv := recv, cum := seq0 }] } } recv
    else reply (modEp f.2 ep (fun e => { e with homeFlows := e.homeFlows ++ [{ src := src, flow := flow, slice := slice, recv := recv, n := seq0 }] })) recv

/-- FLOW_OPEN (R203). -/
def execFlowOpen (src : BitVec 20) (dst : BitVec 20) (flow : BitVec 20) (bulk : Bool) (slice : BitVec 16) (seq0 : BitVec 24) (s : State) : Result :=
  .next (if isHere s dst && decide (nodeEp dst ≤ 4) then openHere s src dst flow bulk slice seq0 else s)

/-- Every gather and copy that may go on does. -/
def pumpAll (s : State) : State := pumpCopies ((List.range 4).foldl pumpDie s)

/-- FLOW_OPEN_ACK (R203): the flow is open. -/
def execFlowOpenAck (flow : BitVec 20) (recv : BitVec 20) (s : State) : Result :=
  let k := flow.toNat
  .next (match getFlow s k with
    | none => s
    | some f =>
      if f.st = .opened then s
      else pumpAll (modFlow (dropC4 s 0xB0 k) k (fun f => { f with st := .opened, recv := recv, lastUse := s.tb.time })))

/-- Strands that wait on a flow, with the address of the request that waits. -/
def waitersOn (s : State) (k : Nat) : List (Pos × Word) :=
  s.compute.strands.filterMap (fun e =>
    let st := e.2
    match st.wait with
    | .credit (some j) a => if j = k && st.st = .wait then
        some (⟨Fin.ofNat 4 (e.1 / 6144), Fin.ofNat 12 (e.1 / 512), Fin.ofNat 16 (e.1 / 32), Fin.ofNat 32 e.1⟩, a) else none
    | _ => none)

/-- A request of a slice that was not sent completes with a fault at the endpoint of its die (R186, R203). -/
def countUnsent (s : State) (d : Nat) (id : BitVec 16) (cause : Nat) : State :=
  let s := modEp s d (fun e => { e with
    violSrc := if cause = cViolation then satUp e.violSrc 1 0xFF else e.violSrc
    timeouts := if cause = cTimeout then satUp e.timeouts 1 0xFF else e.timeouts })
  if cause = cViolation then bumpFlowCtr s id d 3 1 else s

/-- A request that waits completes with a fault before it was sent (R203). -/
def failWaiter (s : State) (cause : Nat) (x : Pos × Word) : State :=
  let st := getStrand s x.1
  asyncFault (countUnsent s x.1.die (strandSliceId s x.1) cause) x.1 st.gen st.pc x.2 cause

/-- A gather whose next read needs the flow meets the fault (R131, R203). -/
def failGather (s : State) (f : Flow) (cause : Nat) (d l k : Nat) : State :=
  match getGather s d l k with
  | none => s
  | some g =>
    match nextRead s d l k g with
    | none => s
    | some r =>
      let a := (readAddr g r).1
      if g.slice = f.slice && nodeOf s d = f.src && addrNode a = f.dst && !(gaPtloc g.desc && (match r with
          | .entry _ => true
          | .line _ _ => false)) then gatherFault (countUnsent s d g.slice cause) d l k g a cause
      else s

/-- An open fails for good: what waits for the flow ends, and the context is freed (R203). -/
def openFails (s : State) (k : Nat) (status : BitVec 16) : State :=
  match getFlow s k with
  | none => s
  | some f =>
    let cause := if status = stTimeout then cTimeout else cViolation
    let d := nodeEp f.src
    let ws := if f.bulk then [] else waitersOn s k
    let s := if f.bulk then endCopiesOn s k status else s
    let s := freeFlow s k
    let s := ws.foldl (fun s x => failWaiter s cause x) s
    if f.bulk then pumpCopies s
    else (List.range 12).foldl (fun s l => ((getCluster s d l).slots.map Prod.fst).foldl (fun s j => failGather s f cause d l j) s) s

/-- FLOW_OPEN_NAK (R203). -/
def execFlowOpenNak (flow : BitVec 20) (status : BitVec 16) (s : State) : Result :=
  let k := flow.toNat
  .next (match getFlow s k with
    | none => s
    | some f =>
      if f.st ≠ .opening then s
      else
        let s := dropC4 s 0xB0 k
        if status = stBusy then
          modFlow { s with fab := { s.fab with openBusy := satUp s.fab.openBusy 1 0xFF } } k (fun f => { f with st := .busy, since := s.tb.time })
        else openFails s k stDenied)

/-- FLOW_OPEN_RETRY (R202, R203): 10 us after BUSY the source opens again. Of a number with no context it is the retry of gathers and copies for which none could be had, or which held memory kept back. -/
def execFlowOpenRetry (flow : BitVec 20) (s : State) : Result :=
  let k := flow.toNat
  .next (match getFlow s k with
    | none => pumpAll s
    | some f =>
      if f.st ≠ .busy || decide (s.tb.time < f.since + 10 * usU) then s
      else
        let s := modFlow s k (fun f => { f with st := .opening, since := s.tb.time })
        sendC4 s (fdOf f.dst) 0xB0 f.slice k (flowOpenBytes f.bulk f.slice f.seqNext))

/-- FLOW_CLOSE (R204): the receive context is freed. -/
def execFlowClose (src : BitVec 20) (flow : BitVec 20) (s : State) : Result :=
  let s := (List.range 5).foldl (fun s ep => closeHome s ep src flow) s
  .next { s with fab := { s.fab with recvFlows := s.fab.recvFlows.filter (fun f => !(f.src = src && f.flow = flow)) } }

/-- FLOW_IDLE_CLOSE (R204): nothing outstanding for 10 ms. -/
def execFlowIdleClose (flow : BitVec 20) (s : State) : Result :=
  let k := flow.toNat
  .next (match getFlow s k with
    | none => s
    | some f =>
      if f.st = .opened && f.out.isEmpty && flowOutstanding s (nodeEp f.src) flow = 0 && decide (f.lastUse + 10 * msU ≤ s.tb.time) then
        closeFlow (modCopies s (fun c => if !c.atDest && c.flow = some flow then { c with flow := none } else c)) k
      else s)

/-! ## C4 packets without a reply (R205) -/

/-- What a couch C4 packet whose resends are spent ends. -/
def c4Fails (s : State) (c : C4Out) : State :=
  if c.opcode = 0xB0 then openFails s c.key stTimeout
  else if c.opcode = 0xB5 then
    match progOf s (c.key / 16) (c.key % 16) with
    | some p => issuerEnd s (c.key / 16) p.index stTimeout 0
    | none => s
  else if c.opcode = 0xB6 then pumpCopies (senderStop s (BitVec.ofNat 16 c.key) stTimeout)
  else s

/-- COUCH_C4_RESEND (R180, R205): 50 us after a send the packet goes again, three times at most; then what it serves ends with TIMEOUT. -/
def execCouchC4Resend (id : Nat) (s : State) : Result :=
  .next (match s.fab.c4.find? (fun c => c.id = id && c.hdr.isNone) with
    | none => s
    | some c =>
      if s.tb.time < c.sent + 50 * usU then s
      else if c.resends < 3 then
        let s := { s with fab := { s.fab with c4 := s.fab.c4.map (fun x => if x.id = id then { x with resends := x.resends + 1, sent := s.tb.time } else x) } }
        emit s (.c4 c.dst c.opcode c.slice c.key c.data)
      else c4Fails { s with fab := { s.fab with c4 := s.fab.c4.filter (fun x => x.id ≠ id) } } c)

/-! ## An error in a flow context (R154, R208) -/

/-- Every request of a flow that awaits a response completes with POISONED. -/
def poisonOutst (s : State) (k : Nat) : State :=
  (List.range 4).foldl (fun s d =>
    ((getEp s d).outst.filter (fun o => o.req.flow.toNat = k && o.req.src = nodeOf s d)).foldl (fun s o => countStatus (complete s d o 5 []) d o 5) s) s

/-- The receive context of a bulk flow is lost: its copies end with POISONED, and the sender's flow finds no receiver. -/
def recvLost (s : State) (f : RecvFlow) : State :=
  let mine := s.fab.copies.filter (fun c => c.atDest && c.ended.isNone && c.op ≠ 5 && c.slice = f.slice && nodeModule c.peer = nodeModule f.src)
  let s := mine.foldl (fun s c => destEnd s c.peer c.tag stPoisoned (destCounted c)) s
  flowFailed { s with fab := { s.fab with recvFlows := s.fab.recvFlows.filter (fun x => !(x.src = f.src && x.flow = f.flow)) } }

/-- The receive context of a request flow is lost: every request of it that waits at the home completes with POISONED, and the flow is closed. -/
def homeLost (s : State) (ep : Nat) (h : HomeFlow) : State :=
  let s := (h.window ++ h.admitted).foldl (fun s r => respond s r 5 0 false []) s
  let s := h.admitted.foldl (fun s r => leaveOrder s ep h.src h.flow r.seq) s
  flowFailed (modEp s ep (fun e => { e with homeFlows := e.homeFlows.filter (fun x => !isFlow h.src h.flow x) }))

/-- A flow context is lost, at either end: the flow closes at once (R202, R208). -/
def flowLost (s : State) (k : Nat) : State :=
  match getFlow s k with
  | none =>
    match s.fab.recvFlows.find? (fun f => f.recv.toNat = k) with
    | some f => recvLost s f
    | none =>
      match (List.range 5).find? (fun ep => (getEp s ep).homeFlows.any (fun h => !h.closed && h.recv.toNat = k)) with
      | none => s
      | some ep =>
        match (getEp s ep).homeFlows.find? (fun h => !h.closed && h.recv.toNat = k) with
        | some h => homeLost s ep h
        | none => s
  | some f =>
    let s := if f.bulk then endCopiesOn s k stPoisoned else poisonOutst s k
    pumpCopies (flowFailed (closeFlow s k))

/-- FLOW_CONTEXT_ERROR (R154, R155, R208); the place in the region is not told (log entry 3). -/
def execFlowContextError (flow : BitVec 20) (s : State) : Result :=
  let f := takeFree s
  .next (flowLost (memError f.2 (.fd 1) true f.1.toNat) flow.toNat)

end Sys2Proof.Machine
end

