-- ==== Sys2Proof/Machine/System.lean ====
section
/-! DEFINITION. System registers and system instructions (R67, R70 to R73, R102, R103, R253). -/

namespace Sys2Proof.Machine

/-! ## System registers (R70) -/

/-- The numbers of R70's table. -/
def srReadable (n : Nat) : Bool := n ≤ 4 || (8 ≤ n && n ≤ 11) || (0x10 ≤ n && n ≤ 0x15)

/-- Those that are not ro. -/
def srWritable (n : Nat) : Bool := n = 4 || (8 ≤ n && n ≤ 11) || (0x10 ≤ n && n ≤ 0x12)

/-- STRAND_ID (R71). -/
def strandIdWord (s : State) (p : Pos) : Word := BitVec.ofNat 64 ((nodeOf s p.die).toNat * 2 ^ 32 + strandIdLow p)

/-- SLICE_ID: the EXACT attribute above the ID. -/
def sliceIdWord (s : State) (p : Pos) : Word :=
  BitVec.ofNat 64 ((strandSliceId s p).toNat + (if isExact s p then 65536 else 0))

/-- CAUSE (R72). -/
def causeWord (st : Strand) : Word :=
  BitVec.ofNat 64 (st.code.toNat + (if st.async then 256 else 0) + (if st.inHandler then 512 else 0))

/-- OUTSTANDING. -/
def outstandingWord (st : Strand) : Word := BitVec.ofNat 64 (putN st.tmmas 8 8 + putN st.loads 0 5)

/-- The lags of FTIME that are less than one arithmetic cycle of the die: 4,000 units of fabric time make a cycle at 1 MHz (R253). -/
def ftimeLags (s : State) (d : Nat) : Nat := max 1 ((4000 + dieFreq s d - 1) / max 1 (dieFreq s d))

/-- The value a register reads as; FTIME lags fabric time by less than one arithmetic cycle, by an amount the spec leaves open (R253, log entry 17). -/
def srRead (s : State) (p : Pos) (n : Nat) (lag : Word) : Word :=
  let st := getStrand s p
  if n = 0 then strandIdWord s p
  else if n = 1 then sliceIdWord s p
  else if n = 2 then cycleWord (getCore s (coreOf p))
  else if n = 3 then BitVec.ofNat 64 (s.tb.time - lag.toNat % ftimeLags s p.die.val)
  else if n = 4 then st.flags.setWidth 64
  else if n < 12 then Tab.getD st.keys (n - 8) 0
  else if n = 0x10 then st.wto.setWidth 64
  else if n = 0x11 then st.tvec
  else if n = 0x12 then st.epc
  else if n = 0x13 then causeWord st
  else if n = 0x14 then st.tval
  else outstandingWord st

/-- RSR (R102): a number outside the table traps whatever the guard (R70). -/
def execRsr (p : Pos) (g : Guard) (sd : BitVec 6) (imm : BitVec 10) (s : State) : Result :=
  .next (issue s p g (srReadable imm.toNat) [sd] (fun s =>
    let s := if imm = 2 then touchCycle s (coreOf p) else s
    let s := if imm = 3 then passTime s else s
    let f := takeFree s
    let s := if imm = 3 then f.2 else s
    let v := srRead s p imm.toNat f.1
    finish s p (fun st => wr st sd v)) [])

/-- What a WSR does to its register: reserved bits are ignored (R8), FLAGS is w1c. -/
def srWrite (n : Nat) (v : Word) (st : Strand) : Strand :=
  if n = 4 then { st with flags := st.flags &&& ~~~ (v.setWidth 4) }
  else if n = 0x10 then { st with wto := v.setWidth 32 }
  else if n = 0x11 then { st with tvec := v &&& ~~~ 2#64 }
  else if n = 0x12 then { st with epc := v &&& ~~~ 3#64 }
  else { st with keys := Tab.set st.keys (n - 8) v }

/-- WSR (R102): an ro register and a number outside the table trap whatever the guard (R70). -/
def execWsr (p : Pos) (g : Guard) (sa : BitVec 6) (imm : BitVec 10) (s : State) : Result :=
  .next (issue s p g (srWritable imm.toNat) [sa] (fun s =>
    let v := rd (getStrand s p) sa
    finish s p (srWrite imm.toNat v)))

/-! ## Starting and ending strands (R67, R73) -/

/-- A strand made READY at an entry offset: registers, predicates and tile descriptors zero, system registers at their Reset column, but the keys and TVEC given, and s1. -/
def startStrand (gen : Nat) (pc s1 : Word) (keys : Tab Word) (tvec : Word) : Strand :=
  { st := .ready, pc := pc, regs := if s1 = 0 then [] else [(1, s1)], keys := keys, tvec := tvec, gen := gen + 1 }

/-- STOP: the strand is FREE; what it has outstanding completes elsewhere. -/
def execStopI (p : Pos) (g : Guard) (s : State) : Result :=
  .next (issue s p g true [] (fun s => finish s p (fun st => { st := .free, gen := st.gen })))

/-- YIELD: the strand is passed over once (R63). -/
def execYieldI (p : Pos) (g : Guard) (s : State) : Result :=
  .next (issue s p g true [] (fun s => finish s p (fun st => { st with yielded := true })))

/-- The strand of the same core that SPAWN names. -/
def spawnTarget (p : Pos) (v : Word) : Pos := ⟨p.die, p.cluster, p.core, ⟨v.toNat % 32, Nat.mod_lt _ (by decide)⟩⟩

/-- SPAWN (R67): the target starts where it is FREE, and p[PD] says so. -/
def execSpawn (p : Pos) (g : Guard) (pd : BitVec 3) (sa sb : BitVec 6) (s : State) : Result :=
  .next (issue s p g true [sa, sb] (fun s =>
    let st := getStrand s p
    let q := spawnTarget p (rd st sa)
    let entry := rd st sb
    if entry.toNat % 4 ≠ 0 then trapAt s p cMisaligned entry
    else if (getStrand s q).st ≠ .free then finish s p (fun st => wrP st pd false)
    else
      let s := modStrand s q (fun t => startStrand t.gen entry 0 st.keys st.tvec)
      finish s p (fun st => wrP st pd true)))

/-- TRAP (R102): SW_TRAP with TVAL := sa[15:0]. -/
def execTrap (p : Pos) (g : Guard) (sa : BitVec 6) (s : State) : Result :=
  .next (issue s p g true [sa] (fun s => trapAt s p cSwTrap ((rd (getStrand s p) sa) &&& 0xFFFF#64)))

/-- RETT (R102): out of the handler to EPC; outside a handler it traps. -/
def execRett (p : Pos) (g : Guard) (s : State) : Result :=
  .next (issue s p g true [] (fun s =>
    let st := getStrand s p
    if st.inHandler then finishTo s p st.epc (fun st => { st with inHandler := false }) else trapFree s p cIllegal))

/-- ICINV (R68, R102): the core's instruction cache is invalid. -/
def execIcinv (p : Pos) (g : Guard) (s : State) : Result :=
  .next (issue s p g true [] (fun s => modCore (finish s p id) (coreOf p) (fun k => { k with icache := [] })))

/-- BKPT (R511, R512): the strand halts at this instruction; resumed, it passes it. -/
def execBkpt (p : Pos) (g : Guard) (s : State) : Result :=
  .next (issue s p g true [] (fun s => if (getStrand s p).skipBkpt.contains .instr then finish s p id else passNext (haltOne s p false) p .instr))

end Sys2Proof.Machine
end

