-- ==== Sys2Proof/Machine/SliceOps.lean ====
section
/-! DEFINITION. What becomes of a slice's state: usage sums, the saved images, residency, and repulp (R384, R396, R404 to R411, R434, R435). -/

namespace Sys2Proof.Machine

/-! ## Usage (R434, R435) -/

/-- Granules a slice owns. -/
def granulesOwned (s : State) (id : BitVec 16) : Nat :=
  (s.mem.granules.filter (fun g => g.2.st = .owned && g.2.owner = id)).length

/-- Usage with the clusters and granules summed up to now: whole microseconds and milliseconds of fabric time. -/
def summed (s : State) (sl : Slice) : Usage :=
  let u := sl.usage
  let now := s.tb.time
  { u with
    time := now
    clusterUs := u.clusterUs + (if sl.st = .resident then sl.clusters.length * (now / usU - u.lastSum / usU) else 0)
    granuleMs := u.granuleMs + granulesOwned s sl.id * (now / msU - u.lastSum / msU)
    lastSum := now }

/-- Sum a slice's usage before its state changes. -/
def sumUsage (s : State) (slot : Nat) : State :=
  match getSlice s slot with
  | some sl => modSlice s slot (fun x => { x with usage := summed s sl })
  | none => s

/-- A slice changes STATE (R402). -/
def setSlice (s : State) (slot : Nat) (st : SliceSt) : State :=
  modSlice (sumUsage s slot) slot (fun x => { x with st := st, changed := s.tb.time })

/-! ## Clusters and granules -/

/-- A slice's clusters with their place among its clusters of their die. -/
def placed (sl : Slice) : List (Nat × Nat × Nat) :=
  (List.range 4).flatMap (fun d => (List.range (clustersOn sl d).length).map (fun n => (d, (clustersOn sl d).getD n 0, n)))

/-- Every cluster of the slice holds zeros, and its die may be idle from now on. -/
def vacate (s : State) (sl : Slice) : State :=
  sl.clusters.foldl (fun s c => modPwDie (zeroCluster s c.1 c.2) c.1 (fun x => { x with idleSince := s.tb.time })) s

/-- A logical cluster is in service, and no spare is about to take its place (R133, R485). -/
def clusterReady (s : State) (c : Nat × Nat) : Bool :=
  physCluster s c.1 c.2 ≠ 0xF && !((getMap s c.1).failedCl.contains c.2 && (getMap s c.1).spare ≠ 0xF)

/-! ## Images (R406 to R408) -/

/-- Memory address of a cluster's image. -/
def imageKey (sl : Slice) (d n : Nat) : Nat := memKey d (ctxOff sl d + n * 0x1900000)

/-- Poison of SRAM words that a move carries to HBM sectors. -/
def poisonOut (s : State) (src dst n : Nat) : List Nat :=
  ((s.mem.sramPoison.filter (fun w => src ≤ 8 * w && 8 * w < src + n)).map (fun w => (8 * w - src + dst) / 32)).dedup

/-- Poison of HBM sectors that a move carries to SRAM words. -/
def poisonIn (s : State) (src dst n : Nat) : List Nat :=
  (s.mem.poison.filter (fun c => src ≤ 32 * c && 32 * c < src + n)).flatMap (fun c => (List.range 4).map (fun i => (32 * c - src + dst) / 8 + i))

/-- Save an array: bytes to HBM, poison with them. -/
def saveArray (s : State) (src dst n : Nat) : State :=
  let bad := poisonOut s src dst n
  { s with mem := { s.mem with
      bytes := memCopy s.mem.bytes src dst n
      poison := s.mem.poison.filter (fun c => !(dst ≤ 32 * c && 32 * c < dst + n)) ++ bad } }

/-- Restore an array. -/
def loadArray (s : State) (src dst n : Nat) : State :=
  let bad := poisonIn s src dst n
  { s with mem := { s.mem with
      bytes := memCopy s.mem.bytes src dst n
      sramPoison := s.mem.sramPoison.filter (fun w => !(dst ≤ 8 * w && 8 * w < dst + n)) ++ bad } }

/-- The felt, then the tile stores, of one cluster are saved. -/
def saveWindows (s : State) (sl : Slice) (c : Nat × Nat × Nat) : State :=
  let img := imageKey sl c.1 c.2.2
  saveArray (saveArray s (feltKey c.1 c.2.1 0) img 0x800000) (tileKey c.1 c.2.1 0 0) (img + 0x800000) 0x1000000

def loadWindows (s : State) (sl : Slice) (c : Nat × Nat × Nat) : State :=
  let img := imageKey sl c.1 c.2.2
  loadArray (loadArray s img (feltKey c.1 c.2.1 0) 0x800000) (img + 0x800000) (tileKey c.1 c.2.1 0 0) 0x1000000

/-- A WAITC's timeout stands still while the strand is away (R98, R107). -/
def parkStrand (now : Nat) (st : Strand) : Strand :=
  match st.deadline with
  | some d => { st with remain := some (d - now), deadline := none }
  | none => st

/-- It runs on from there; a halted strand's stays where it is (R511). -/
def unparkStrand (now : Nat) (st : Strand) : Strand :=
  if st.st = .wait then { st with deadline := st.remain.map (fun r => now + r), remain := none } else st

/-- A restored gather starts at its lowest uncounted page and reads it again in full (R407). -/
def resumeGathers (c : Cluster) : Cluster := { c with slots := Tab.mapVals c.slots (fun _ g => { g with stopped := false, linesDone := [] }) }

/-- A core of an image on a physical core: its health is the core's own, and CYCLE goes on from what was saved (R107). -/
def onCore (start : Nat) (saved cur : Core) : Core :=
  { saved with engRecomp := cur.engRecomp, vecRecomp := cur.vecRecomp, failed := cur.failed, fenced := cur.fenced, engGated := cur.engGated, icache := [], cycAt := start }

/-- The WAITC timeouts of a slice's strands stand still (R98). -/
def parkSlice (s : State) (sl : Slice) : State :=
  { s with compute := { s.compute with strands := Tab.mapVals s.compute.strands (fun k st => if ixInClusters sl.clusters k then parkStrand s.tb.time st else st) } }

/-- The cycles of a slice's cores are counted up to now. -/
def settleCycles (s : State) (sl : Slice) : State :=
  (sl.clusters.flatMap (fun c => (List.range 16).map (fun k => corePos c.1 c.2 k))).foldl touchCycle s

/-- Where the private part of a cluster's image begins, and its 1 MiB as written: its layout is the part's own, so its bytes are free (R406; log entry 28). -/
def privateKey (sl : Slice) (c : Nat × Nat × Nat) : Nat := imageKey sl c.1 c.2.2 + 0x1800000

def privateBytes (draw : Nat) (c : Nat × Nat × Nat) : List Byte := (List.range 0x100000).map (fun i => Config.freeByte draw (0x100000 * (12 * c.1 + c.2.2) + i))

/-- The private part still holds what was written there. -/
def privateKept (s : State) (sl : Slice) (c : Nat × Nat × Nat) : Bool :=
  memRead s.mem.bytes (privateKey sl c) 0x100000 = privateBytes sl.imageDraw c && !poisonedAt s (privateKey sl c) 0x100000

/-- Clusters whose private part a slice has altered: only its own registers change by it (R408). -/
def alteredClusters (s : State) (sl : Slice) : List (Nat × Nat) := ((placed sl).filter (fun c => !privateKept s sl c)).map (fun c => (c.1, c.2.1))

/-- A strand whose registers come from an altered image: each is free, and s0, p0 and the bits that read 0 stay as they are (R408; log entry 28). -/
def alteredStrand (draw : Nat) (st : Strand) : Strand :=
  let w := fun i => Config.freeWord (draw + i)
  { st with
    pc := w 0 &&& ~~~ 3#64
    regs := (List.range 63).map (fun i => (i + 1, w (i + 1)))
    preds := (w 64).setWidth 8 ||| 1
    tds := (List.range 16).map (fun i => (i, w (68 + 4 * i) ++ w (69 + 4 * i) ++ w (70 + 4 * i) ++ w (71 + 4 * i)))
    flags := (w 65).setWidth 4
    wto := (w 66).setWidth 32
    tvec := w 67 &&& ~~~ 2#64
    keys := (List.range 4).map (fun i => (i, w (132 + i)))
    epc := w 136 &&& ~~~ 3#64
    code := (w 137).setWidth 8
    tval := w 138 }

/-- The strands of a slice's images, with the draws that altered ones take. -/
def restoredStrands (s : State) (sl : Slice) : List (Nat × Strand) :=
  let bad := alteredClusters s sl
  sl.savedStrands.zipIdx.map (fun e => (e.1.1, if ixInClusters bad e.1.1 then alteredStrand (s.freeCtr + 139 * e.2) e.1.2 else e.1.2))

/-- Save every cluster of a slice; the clusters are left empty. -/
def saveSlice (s : State) (slot : Nat) (sl : Slice) : State :=
  let s := settleCycles s sl
  let draw := s.freeCtr
  let s1 := (placed sl).foldl (fun s c => memStore (saveWindows s sl c) (privateKey sl c) (privateBytes draw c)) { s with freeCtr := draw + 1 }
  let now := s.tb.time
  let s2 := modSlice s1 slot (fun x => { x with
    savedStrands := (s.compute.strands.filter (fun e => ixInClusters sl.clusters e.1)).map (fun e => (e.1, parkStrand now e.2))
    savedCores := s.compute.cores.filter (fun e => coreInClusters sl.clusters e.1)
    savedClusters := s.compute.clusters.filter (fun e => sl.clusters.any (fun c => clIx c.1 c.2 = e.1))
    imageDraw := draw })
  vacate s2 sl

/-- Restore every cluster of a slice. -/
def restoreSlice (s : State) (slot : Nat) (sl : Slice) : State :=
  let strands := restoredStrands s sl
  let s := { s with freeCtr := s.freeCtr + 139 * sl.savedStrands.length }
  let s := (placed sl).foldl (fun s c => loadWindows s sl c) s
  let now := s.tb.time
  let s := { s with compute := { s.compute with
    strands := strands.foldl (fun t e => Tab.set t e.1 (unparkStrand now e.2)) s.compute.strands
    cores := sl.savedCores.foldl (fun t e => Tab.upd t e.1 {} (onCore (Tab.getD s.compute.cyc (e.1 / 192) 0) e.2)) s.compute.cores
    clusters := sl.savedClusters.foldl (fun t e => Tab.set t e.1 { resumeGathers e.2 with pllDown := false, idleSince := now }) s.compute.clusters } }
  modSlice s slot (fun x => { x with savedStrands := [], savedCores := [], savedClusters := [] })

/-- Strands launched before a slice was ever RESIDENT start on its zeroed clusters. -/
def installStrands (s : State) (slot : Nat) (sl : Slice) : State :=
  let s := { s with compute := { s.compute with strands := sl.savedStrands.foldl (fun t e => Tab.set t e.1 e.2) s.compute.strands } }
  modSlice s slot (fun x => { x with savedStrands := [] })

/-- The slice becomes RESIDENT: its images are restored, or its clusters zeroed on first residency (R407, R408). -/
def enterResident (s : State) (slot : Nat) : State :=
  match getSlice s slot with
  | none => s
  | some sl =>
    let s := if sl.everIn then restoreSlice s slot sl else installStrands (vacate s sl) slot sl
    let s := modSlice (setSlice s slot .resident) slot (fun x => { x with since := s.tb.time, everIn := true })
    sl.clusters.foldl (fun s c => pumpGather c.1 c.2 2048 s) s

/-! ## Repulp (R384, R410) -/

/-- The channel's pending commands end ABORTED, its results are zeroed, and it is unbound. -/
def unbindChannel (s : State) (slot : Nat) : State :=
  let waiting := (getChan s slot).tags.filter (fun t => t.status.isNone)
  let s := waiting.foldl (fun s t => abortPending s slot t.tag) s
  let s := setWaits s (s.ctl.memWaits.filter (fun w => w.channel ≠ slot))
  modChan s slot (fun x => { x with slice := 0xFFFF, tags := [] })

/-- The group context is deleted: its operation and entries retire ABORTED, and it and its monitor entry are free (R248). -/
def deleteGroup (s : State) (c : Nat) : State :=
  let s := modGroup s c (fun g => { g with reform := none })
  let s := raiseAbort s c stBadState false
  let s := retireEntry s c stAborted stBadState 0 false
  let s := abortUnstarted s c ((getGroup s c).lastPi - (getGroup s c).next)
  freeGroup s c

/-- A deckle entry leaves VALID (R174, R178). -/
def dropDeckle (s : State) (j : Nat) : State :=
  { s with fab := { s.fab with deckles := Tab.upd s.fab.deckles j {} (fun x => if x.valid then { x with valid := false, secret := 0, changed := s.tb.time } else x) } }

def dropDeckles (s : State) (id : BitVec 16) : State :=
  ((s.fab.deckles.filter (fun e => e.2.valid && e.2.owner = id)).map Prod.fst).foldl dropDeckle s

/-- The slice's counters are zeroed and free (R199). -/
def freeCounters (s : State) (id : BitVec 16) : State :=
  { s with fab := { s.fab with
      eps := Tab.mapVals s.fab.eps (fun _ e => { e with
        counters := e.counters.filter (fun k => Tab.find e.counterOwner (k.1 / 256) ≠ some id)
        counterOwner := e.counterOwner.filter (fun o => o.2 ≠ id) }) } }

/-- Replay-table entries of the slice, and its flows at this module's homes (R410). -/
def purgeHomes (s : State) (id : BitVec 16) : State :=
  let s := (List.range 5).foldl (fun s ep =>
    ((getEp s ep).homeFlows.filter (fun h => h.slice = id)).foldl (fun s h => closeHome s ep h.src h.flow) s) s
  { s with fab := { s.fab with
      eps := Tab.mapVals s.fab.eps (fun _ e => { e with replay := e.replay.filter (fun r => r.slice ≠ id) })
      copies := s.fab.copies.filter (fun c => c.slice ≠ id) } }

/-- Samplers and watermark units of the slice are off (R505). -/
def dropInstruments (s : State) (id : BitVec 16) : State :=
  { s with ctl := { s.ctl with
      samplers := s.ctl.samplers.filter (fun e => e.2.owner ≠ id)
      watermarks := s.ctl.watermarks.filter (fun e => e.2.owner ≠ id) } }

/-- The slice's granules enter SCRUBBING. -/
def scrubGranules (s : State) (id : BitVec 16) : State :=
  { s with mem := { s.mem with granules := Tab.mapVals s.mem.granules (fun _ g => if g.st = .owned && g.owner = id then { g with st := .scrubbing, zeroing := false } else g) } }

/-- The final usage record (R435). -/
def keepUsage (s : State) (slot : Nat) : State :=
  match getSlice s slot with
  | none => s
  | some sl => { s with ctl := { s.ctl with oldUsage := Tab.set s.ctl.oldUsage slot { id := sl.id, job := sl.job, desc := sl.desc, usage := sl.usage, snapshots := sl.snapshots } } }

/-- A session ends: its keys are gone, the channel's held results zeroed and its tags freed (R425). -/
def endSession (s : State) (slot : Nat) : State :=
  match getSlice s slot with
  | none => s
  | some sl =>
    if sl.session.isNone then s
    else modChan (modSlice s slot (fun x => { x with session := none })) slot (fun x => { x with tags := [] })

/-- Everything of R410 but the zeroing of the granules, which GRANULE_SCRUB_START and GRANULE_ZEROED do. -/
def repulp (s : State) (slot : Nat) : State :=
  match getSlice s slot with
  | none => s
  | some sl =>
    let s := unbindChannel (setSlice s slot .scrubbing) slot
    let s := endGathers s sl.id
    let s := (ringsOf s sl.id).foldl deleteRing s
    let s := (groupsOf s sl.id).foldl deleteGroup s
    let s := dropDeckles s sl.id
    let s := { s with fab := { s.fab with mouldKeys := s.fab.mouldKeys.filter (fun e => e.2.slice ≠ sl.id) } }
    let s := modSlice s slot (fun x => { x with session := none })
    let s := { s with net := { s.net with meters := Tab.erase s.net.meters slot } }
    let s := keepUsage s slot
    let s := dropInstruments (purgeHomes (closeSliceFlows s sl.id) sl.id) sl.id
    let s := if holdsClusters sl then vacate s sl else s
    let s := freeCounters s sl.id
    let s := modSlice s slot (fun x => { x with savedStrands := [], savedCores := [], savedClusters := [], evRing := {}, flowCtrs := [] })
    finishScrub (scrubGranules s sl.id)

end Sys2Proof.Machine
end

