-- ==== Sys2Proof/Machine/ResetOps.lean ====
section
/-! DEFINITION. What each reset domain loses and keeps, and what a start-up builds from the records (R24, R142, R148, R273, R464 to R472, R529, R533). -/

namespace Sys2Proof.Machine

/-! ## Records and pins -/

/-- The error source of a reset of a domain (R486). -/
def resetSource (dom : Nat) : BitVec 16 :=
  if 1 ≤ dom && dom ≤ 4 then srcKind 2 (dom - 1)
  else if dom = 5 then srcKind 0xC 1
  else if dom = 6 then srcKind 0xC 0
  else if dom = 7 then srcKind 9 0
  else srcKind 0xA 2

/-- A RESET event (R487). -/
def noteReset (s : State) (dom : Nat) (status : BitVec 16) : State :=
  record s { source := resetSource dom, event := evReset, status := status, location := BitVec.ofNat 64 dom }

def noteFirmware (s : State) (unit : Nat) (status : BitVec 16) : State :=
  record s { source := srcKind 0xC unit, event := evFirmware, status := status }

def modRst (s : State) (f : Machine.Reset → Machine.Reset) : State := { s with rst := f s.rst }

def modTrust (s : State) (f : Trust → Trust) : State := { s with ctl := { s.ctl with trust := f s.ctl.trust } }

def modFw (s : State) (f : Firmware → Firmware) : State := { s with ctl := { s.ctl with fw := f s.ctl.fw } }

/-- A reset of the domain, or of one that encloses it, is in progress (R464, R466). -/
def resetBusy (s : State) (dom : Nat) : Bool := s.rst.busy.any (fun b => b.1 = dom || 7 ≤ b.1 && dom < b.1)

/-- A reset starts: those it encloses are superseded. -/
def busyWith (s : State) (dom : Nat) : State :=
  modRst s (fun r => { r with busy := (r.busy.filter (fun b => b.1 ≠ dom && !(7 ≤ dom && b.1 < dom))) ++ [(dom, s.tb.time)] })

def busyDone (s : State) (dom : Nat) : State := modRst s (fun r => { r with busy := r.busy.filter (fun b => b.1 ≠ dom) })

/-- A console line of a start-up step (R539); the manual gives the line's end and not its words, and the record holds the end alone. -/
def consoleStep (s : State) (step : Nat) : State := emit s (.console step [0x0D, 0x0A])

/-! ## The I3C target (R448, R536) -/

/-- The status byte. -/
def i3cStatus (s : State) : Byte :=
  BitVec.ofNat 8 ((if s.caps.rackLow || s.caps.hostLow then 1 else 0) + (if s.pw.selfBrake < 16 then 2 else 0) + (if s.pw.throttle then 4 else 0) +
    (if anyWarn s then 8 else 0) + (if s.pins.faultN then 0 else 16))

/-- An in-band interrupt follows a change of bit 0, 1 or 4. -/
def notifyI3c (before after : State) : State :=
  if (i3cStatus before ^^^ i3cStatus after) &&& 0x13 = 0 then after else emit after (.ibi (i3cStatus after))

/-! ## Slices of a die -/

/-- A slice owns a cluster, a granule or a counter on a die (R466). -/
def ownsOnDie (s : State) (sl : Slice) (d : Nat) : Bool :=
  sl.clusters.any (fun c => c.1 = d) ||
  s.mem.granules.any (fun g => g.1 / 16 = d && g.2.st = .owned && g.2.owner = sl.id) ||
  (getEp s d).counterOwner.any (fun o => o.2 = sl.id)

/-- Slices on a die. -/
def slicesOnDie (s : State) (d : Nat) : List Nat := (s.ctl.slices.filter (fun e => ownsOnDie s e.2 d)).map Prod.fst

/-- The jobs of the slices on a die meet the job stop, once each (R443, R456, R466, R479). -/
def stopDie (s : State) (d : Nat) (status : BitVec 16) : State :=
  let jobs := ((slicesOnDie s d).filterMap (fun k => (getSlice s k).map (fun sl => sl.job))).dedup
  jobs.foldl (fun s j => raiseStop s j status) s

/-! ## Compute die (R465) -/

/-- A die's granules other than RETIRED and ABSENT ones enter SCRUBBING, with no owner (R143, R144). -/
def scrubDie (s : State) (d : Nat) : State :=
  (List.range 16).foldl (fun s g =>
    let x := getGran s d g
    if x.st = .retired || x.st = .absent then s else modGran s d g (fun x => { x with st := .scrubbing, owner := 0, zeroing := false })) s

/-- The windows of a die are zeroed; its HBM is left to the granules' zeroing. -/
def zeroDieWindows (s : State) (d : Nat) : State :=
  let lo := memKey d (2 ^ 38)
  let hi := memKey (d + 1) 0
  { s with mem := { s.mem with
      bytes := memZero s.mem.bytes lo hi
      sramPoison := s.mem.sramPoison.filter (fun w => !(lo ≤ 8 * w && 8 * w < hi)) } }

/-- Everything a die holds is lost (R465): strands, cores, clusters, its endpoint, its error registers, its stacks' readings and training; no patrol runs until they are trained again (R157, R158). The map stays (R24), and its cores take their health from the record. -/
def clearDie (s : State) (d : Nat) : State :=
  let s := zeroDieWindows s d
  let s := { s with
    compute := { s.compute with
      strands := s.compute.strands.filter (fun e => e.1 / 6144 ≠ d)
      cores := s.compute.cores.filter (fun e => e.1 / 192 ≠ d)
      clusters := s.compute.clusters.filter (fun e => e.1 / 12 ≠ d) }
    fab := { s.fab with eps := Tab.erase s.fab.eps d }
    mem := { s.mem with
      stks := s.mem.stks.filter (fun e => e.1 / 4 ≠ d)
      errs := s.mem.errs.filter (fun e => !(16 + 13 * d ≤ e.1 && e.1 < 16 + 13 * d + 13) && !(4 * d ≤ e.1 && e.1 < 4 * d + 4)) } }
  let s := modHbm s d (fun h => { h with periodH := 0x18, periodInForce := 0x18, passes := 0, patrolOn := false })
  (List.range 12).foldl (fun s l =>
    let p := physCluster s d l
    if p = 0xF then s else loadHealth s d l p) (scrubDie s d)

/-- The bit of a die. -/
def dieBit (d : Nat) : BitVec 4 := 1#4 <<< d

/-- A compute-die reset begins (R464 to R466). -/
def resetDie (s : State) (d : Nat) : State :=
  let s := busyWith (noteReset s (d + 1) 0) (d + 1)
  let s := modRst (clearDie s d) (fun r => { r with dieUp := r.dieUp &&& ~~~ dieBit d, dieOut := r.dieOut &&& ~~~ dieBit d })
  modPwDie s d (fun x => { x with pwr := 2, point := 1600, tripped := false, railLost := false, idleSince := s.tb.time })

/-- THROTTLE_N acts on a die whose clock is f (R451). -/
def throttleDie (x : PwDie) : PwDie := { x with thrDuty := some (min 16 (16 * x.point / 1600)) }

/-- HBM row entries of the record for a stack: soft repairs made at start-up. -/
def rowEntries (s : State) (k : Nat) : Nat :=
  (s.ctl.records.repair.filter (fun e => entryKind e = 1 && entryDie e = k)).length

/-- A stack after training: in service or failed, its rows of the record repaired; the soft repairs its banks have left are the stack's own affair, a free value (log entry 3). -/
def trainStack (ok : BitVec 16) (s : State) (k : Nat) : State :=
  let f := takeFree s
  modStack f.2 k (fun x => { x with link := if ok.getLsbD k then 1 else 2, repairs := satUp 0 (rowEntries s k) 0xFF, soft := some s.freeCtr, softUsed := [] })

/-- The training step of a compute-die reset (R158): the stacks in service are trained again, the interleave of the last start-up stands (R142), and the first patrol pass begins. -/
def retrainDie (s : State) (d : Nat) : State :=
  (List.range 4).foldl (fun s k => trainStack s.rst.hbmOk s (4 * d + k)) (modHbm s d (fun h => { h with patrolOn := true, passes := 0 }))

/-- A die's bring-up is over: it is trained, also where it has no granule to zero, its registers answer, it is up, and a THROTTLE_N held low acts on it (R534). -/
def dieReady (s : State) (d : Nat) : State :=
  let s := modRst s (fun r => { r with dieUp := r.dieUp ||| dieBit d, dieOut := r.dieOut ||| dieBit d })
  let s := if (getHbm s d).patrolOn then s else retrainDie s d
  modPwDie s d (fun x => if s.pw.throttle then throttleDie x else x)

/-- No granule of the die is being zeroed. -/
def dieScrubbed (s : State) (d : Nat) : Bool := (List.range 16).all (fun g => (getGran s d g).st ≠ .scrubbing)

/-! ## Steward and trust (R465, R476) -/

/-- A pending commit ends ABORTED. -/
def abortCommits (s : State) : State :=
  (s.ctl.txns.filterMap (fun t => t.commit.map (fun x => (t.channel, x.2)))).foldl (fun s x => abortPending s x.1 x.2) s

/-- Pending GROUP_ABORT commands end ABORTED; the aborts they raised stand. -/
def abortAborters (s : State) : State :=
  let ts := s.fab.groups.flatMap (fun e => e.2.aborters)
  let s := { s with fab := { s.fab with groups := s.fab.groups.map (fun e => (e.1, { e.2 with aborters := [] })) } }
  ts.foldl (fun s x => abortPending s x.1 x.2) s

/-- A STEWARD reset: open transactions are lost, and pending commands that the steward interprets end ABORTED (R465). -/
def resetSteward (s : State) (status : BitVec 16) : State :=
  let s := abortAborters (abortCommits (busyWith (noteReset s 5 status) 5))
  { s with ctl := { s.ctl with txns := [] } }

/-- Evidence waiting for a batch other than ATTEST's ends ABORTED; ATTEST stays pending (R466). -/
def abortEvidence (s : State) : State :=
  let isAttest := fun (e : EvidenceReq) => match (getChan s e.channel).tags.find? (fun t => t.tag = e.tag) with
    | some t => decide (t.opcode = 0x5000)
    | none => false
  (s.ctl.trust.batch.filter (fun e => !isAttest e)).foldl (fun s e => abortPending s e.channel e.tag) s

/-- A TRUST reset: every session ends, AK-E and FC are made anew, a staging that is open is lost (R465). TR_KEYSTAT.ATT_LEFT stays as it is here and at a FABRIC reset: the spec does not say which domain holds the trust registers (DESIGN CHOICE, log entry 95). -/
def resetTrust (s : State) : State :=
  let s := abortEvidence (busyWith (noteReset s 6 0) 6)
  let s := (s.ctl.slices.map Prod.fst).foldl endSession s
  modFw s (fun f => { f with staged := f.staged.filter (fun x => !x.opened) })

/-- One signature of IDK-L (R415). -/
def signIdentity (s : State) : State := modTrust s (fun t => { t with idLeft := t.idLeft - 1 })

/-- AK-L is made at the first start-up after a MODULE reset, and IDK-L certifies it (R415, R416, R418). -/
def makeAkl (s : State) : State :=
  if s.ctl.trust.akl.isSome then s
  else
    let a := takeFree (signIdentity s)
    modTrust a.2 (fun t => { t with akl := some a.1.toNat })

/-- AK-E and FC are made, and IDK-E certifies them (R416, R418, R419, R468). -/
def certify (s : State) : State :=
  let a := takeFree s
  let f := takeFree a.2
  modTrust f.2 (fun t => { t with
    ake := a.1.toNat
    fc := { made := f.1.toNat, subject := t.identity, opDigest := sha384 t.opKey, notBefore := timeOfDay s } })

/-! ## Coordinates (R273, R529) -/

/-- A coordinate of a source that lies in its dimension's range. -/
def inRange (d : Dim) (v : Option Nat) : Option Nat := v.filter (fun x => decide (x < d.range))

/-- What the configuration record supplies. -/
def recordCoord (s : State) (d : Dim) : Option Nat := inRange d (s.ctl.records.coords.getD d.code none)

/-- What the straps supply. -/
def strapCoord (s : State) (d : Dim) : Option Nat := inRange d ((s.rst.straps.getD d.code none).map (fun v => v.toNat))

/-- A coordinate from the first source that supplies it. -/
def coordFrom (s : State) (d : Dim) : Nat := ((recordCoord s d).orElse (fun _ => strapCoord s d)).getD 0xF

/-- The route state after a reset: coordinates from the record and the straps, not joined. -/
def freshRoute (s : State) : Route :=
  { w := coordFrom s .w, x := coordFrom s .x, y := coordFrom s .y, z := coordFrom s .z
    source := if dims.any (fun d => (recordCoord s d).isSome) then 1 else 0 }

def setCoordsFresh (s : State) : State :=
  let n := freshRoute s
  modRoute s (fun r => { r with w := n.w, x := n.x, y := n.y, z := n.z, source := n.source })

/-! ## Fabric (R465) -/

/-- Every slice is repulped with no command; the channels' tags are gone with the steward's and the trust core's memory. -/
def repulpAll (s : State) : State :=
  let s := { s with ctl := { s.ctl with channels := [] } }
  (s.ctl.slices.map Prod.fst).foldl repulp s

/-- A FABRIC reset: the fabric die and the compute dies lose everything; the always-on domain goes on in HOLDOVER, and start-up runs again from its fifth step. -/
def resetFabric (s : State) (status : BitVec 16) : State :=
  let s := repulpAll (noteReset s 7 status)
  let s := (List.range 4).foldl clearDie s
  let s := busyWith s 7
  let s := holdOver s
  let s := modTrust s (fun t => { t with batch := [], lastBatch := none })
  { s with
    compute := { s.compute with strands := [], cores := [], clusters := [], d2dFailed := 0, viaSwitch := [] }
    mem := { s.mem with errs := [], stks := [], sramPoison := [] }
    fab := {}
    net := { route := freshRoute s }
    ctl := { s.ctl with hl := {}, channels := [], memWaits := [], txns := [], samplers := [], watermarks := [] }
    tb := { s.tb with heard := [] }
    fleet := { s.fleet with rings := [], serial := 0, stops := [], shadow := 0, diverged := false, window := [], suspect := false, drills := [], noted := [] }
    pins := { s.pins with transmitters := false }
    pw := { s.pw with lent := false }
    pwDies := Tab.mapVals s.pwDies (fun _ x => { x with lendW := 0 })
    rst := { s.rst with step := 4, stopped := false, dieUp := 0, dieOut := 0, hbmOk := 0, oeOk := 0 } }

/-! ## Module (R465, R533) -/

/-- What MRAM keeps of the firmware: verified images stay staged (R475). -/
def keptFirmware (f : Firmware) : Firmware := { f with staged := f.staged.filter (fun x => x.verified), activatedAt := none }

/-- Voltage in mV that the records give a rail, a VCD rail at 1.6 GHz (R441, R445, R462). -/
def recordMv (r : Records) (rail : Nat) : Nat :=
  match rail with
  | 0 | 1 => r.points.getD 0 850
  | 2 => r.vfd
  | 3 => r.vhbm
  | 4 => r.vopt
  | _ => r.vaon

/-- The rails, off, with the records' voltages as targets. -/
def offRails (r : Records) : Tab Rail := (List.range 6).map (fun k => (k, { target := recordMv r k }))

/-- A CONFIG body (R471): every field a function of its bytes, within the values R3 and R4 give a part: VARIANT is C or P, and STEPPING counts from 1 (log entry 7). -/
def takeConfig (r : Records) (b : List Byte) : Records :=
  let f := Config.recordField b
  { r with
    variant := if f 0 % 2 = 0 then 1 else 2, stepping := BitVec.ofNat 8 (1 + f 1 % 255), points := (List.range 9).map (fun i => f (2 + i))
    vfd := f 11, vhbm := f 12, vopt := f 13, vaon := f 14, peak := f 15
    asym := (List.range 64).map (fun p => (p, (BitVec.ofNat 16 (f (32 + p))).toInt)) }

/-- A REPAIR body: the factory part changes, appended entries are kept. -/
def takeRepair (r : Records) (b : List Byte) : Records :=
  let es := (Config.repairEntries b).take 65536
  { r with repair := (es ++ r.repair.drop r.factory).take 65536, factory := es.length }

/-- An OPCONFIG body. -/
def takeOpconfig (r : Records) (b : List Byte) : Records :=
  let f := Config.recordField b
  { r with coords := (List.range 4).map (fun i => some (f i % 16)), prio := BitVec.ofNat 8 (f 4) }

/-- Records written since the last start-up take effect (R476). -/
def takeEffect (r : Records) : Records :=
  let r1 := r.written.foldl (fun r w => { (if w.1 = 3 then takeConfig r w.2 else if w.1 = 4 then takeRepair r w.2 else takeOpconfig r w.2) with bodies := Tab.set r.bodies w.1 w.2 }) r
  { r1 with written := [] }

/-- A MODULE reset: everything but MRAM is at its reset value, and fabric time restarts at 0. The pins' levels and the straps' resistors are the board's. -/
def resetModule (s : State) (status : BitVec 16) : State :=
  let s := noteReset s 8 status
  let rec_ := takeEffect s.ctl.records
  { State.reset with
    pending := s.pending
    out := s.out
    freeCtr := s.freeCtr
    ctl := { State.reset.ctl with
      records := rec_
      fw := keptFirmware s.ctl.fw
      trust := { idLeft := s.ctl.trust.idLeft, opKey := s.ctl.trust.opKey, ocount := s.ctl.trust.ocount, identity := s.ctl.trust.identity, unlockSerial := s.ctl.trust.unlockSerial } }
    mem := { repairQueue := s.mem.repairQueue }
    tb := { prio := rec_.prio, prioInForce := rec_.prio }
    rails := offRails rec_
    fleet := { accepted := s.fleet.accepted, records := s.fleet.records, nextSeq := s.fleet.nextSeq }
    pins := { throttleN := s.pins.throttleN }
    rst := { resetN := s.rst.resetN, pwrOk := s.rst.pwrOk, refclk := s.rst.refclk, straps := s.rst.straps, boot := (s.rst.boot + 1) % 2 ^ 16, busy := [(8, 0)] } }

def modRail (s : State) (k : Nat) (f : Rail → Rail) : State := { s with rails := Tab.upd s.rails k {} f }

def getRail (s : State) (k : Nat) : Rail := Tab.getD s.rails k {}

/-- t0 of R468: fabric time counts from 0, the straps are sampled, and start-up begins; VAON is in regulation, as PWR_OK says, and a THROTTLE_N held low acts from now (R534). -/
def startUp (s : State) : State :=
  let s := modRail s 5 (fun r => { r with st := 2 })
  let s := if s.pins.throttleN then s else { s with pw := { s.pw with throttle := true, throttles := satUp s.pw.throttles 1 0xFF } }
  consoleStep (setCoordsFresh (modRst s (fun r => { r with step := 1, stopped := false, busy := [(8, 0)] }))) 1

/-- A MODULE reset that the board's pins do not hold: start-up follows at once. -/
def restart (s : State) (status : BitVec 16) : State :=
  let s := resetModule s status
  if s.rst.resetN && s.rst.pwrOk && s.rst.refclk then startUp s else s

/-! ## Building the dies from the record (R142, R148, R468, R472) -/

/-- Physical clusters of a die still in service, ascending. -/
def servicePcls (s : State) (d : Nat) : List Nat := (List.range 13).filter (fun p => !recOut s.ctl.records.repair d p)

/-- A die's cluster map (R472). SPARE_USED follows from the record (R23, R24): the thirteenth physical cluster has a logical number, in place of one out of service. -/
def buildMap (s : State) (d : Nat) : State :=
  let ps := servicePcls s d
  let s := modMap s d (fun _ => { spare := ps.getD 12 0xF, map := (List.range 12).map (fun l => (l, ps.getD l 0xF)) })
  let used := decide (ps.length < 13) && ps.contains 12
  let s := modRst s (fun r => { r with spareUsed := if used then r.spareUsed ||| dieBit d else r.spareUsed &&& ~~~ dieBit d })
  (List.range 12).foldl (fun s l =>
    let p := physCluster s d l
    if p = 0xF then s else loadHealth s d l p) s

/-- A die leaves its reset with THROTTLE_N as it stands. -/
def dieOutOfReset (s : State) (d : Nat) : State :=
  let s := modRst s (fun r => { r with dieOut := r.dieOut ||| dieBit d })
  modPwDie s d (fun x =>
    let x := { x with pwr := 2, point := 1600, tripped := false, railLost := false, idleSince := s.tb.time }
    if s.pw.throttle then throttleDie x else x)

/-- Stacks of a die that trained. -/
def dieStacks (ok : BitVec 16) (d : Nat) : BitVec 4 := ok.extractLsb' (4 * d) 4

def stacksUp (ok : BitVec 16) (d : Nat) : Nat := ((List.range 4).filter (fun k => (dieStacks ok d).getLsbD k)).length

/-- Whether granule g is part of a die's interleave (R142). -/
def granuleThere (n g : Nat) : Bool := if n = 4 then true else if n = 3 then decide (g < 12) else false

/-- HBM training ends: stacks in service or failed, the interleave fixed, granules ABSENT or to be zeroed, patrol running. A RETIRED granule waits for the next start-up of the module. -/
def trainDie (ok : BitVec 16) (s : State) (d : Nat) : State :=
  let n := stacksUp ok d
  let again := s.rst.busy.any (fun b => b.1 = 7)
  let s := modHbm s d (fun h => { h with inUse := dieStacks ok d, patrolOn := true, passes := 0 })
  let s := (List.range 4).foldl (fun s k => trainStack ok s (4 * d + k)) s
  (List.range 16).foldl (fun s g =>
    modGran s d g (fun x =>
      if !granuleThere n g then { x with st := .absent, zeroing := false }
      else if again && x.st = .retired then x
      else { x with st := .scrubbing, zeroing := false })) s

end Sys2Proof.Machine
end

