-- ==== Sys2Proof/Machine/Reset.lean ====
section
/-! DEFINITION. Reset domains and start-up: what begins a reset, the steps of R468, the rails' order, REFCLK, and the end of each reset (R464 to R470, R476, R529, R533, R537). -/

namespace Sys2Proof.Machine

/-! ## DOMAIN_RESET (R466) -/

/-- The refusals of R466. -/
def domainRefused (s : State) (dom : Nat) : Option (BitVec 16) :=
  if dom = 0 || 8 < dom then some stBadParam
  else if dom ≤ 4 && !(slicesOnDie s (dom - 1)).isEmpty then some stBadState
  else if dom = 7 && !s.ctl.slices.isEmpty then some stBadState
  else if resetBusy s dom then some stBusy
  else none

def beginReset (s : State) (dom : Nat) : State :=
  if dom ≤ 4 then resetDie s (dom - 1)
  else if dom = 5 then resetSteward s 0
  else if dom = 6 then resetTrust s
  else if dom = 7 then resetFabric s 0
  else restart s 0

/-- The command ends OK as the reset starts. -/
def domainReset (s : State) (h : Hdr) (dom : Nat) : State × Reply :=
  match domainRefused s dom with
  | some st => ends s st
  | none => (beginReset (finishTag s h.channel.toNat h.tag stOk []) dom, .pend)

/-- DOMAIN_RESET (R466; in recovery, of MODULE only, R470). -/
def execDomainReset (h : Hdr) (domain : BitVec 8) (s : State) : Result :=
  .next (command s h { code := 0x0008, chan := .adminSigned, recovery := decide (domain = 8) } (fun s => domainReset s h domain.toNat))

/-! ## Pins and REFCLK (R467, R533) -/

/-- RESET_N_ASSERT (R466, R467): RESET_N or PWR_OK falls; every transmitter stops, and the module stays in MODULE reset. While a pin holds it there already, only the pins change. -/
def execResetNAssert (pwrOk : Bool) (s : State) : Result :=
  let t := modRst s (fun r => { r with resetN := false, pwrOk := pwrOk })
  .next (if s.rst.resetN && s.rst.pwrOk then resetModule t 0 else t)

/-- RESET_N_RELEASE (R467, R468, R529): RESET_N rises with PWR_OK high; start-up begins unless REFCLK is not valid. -/
def execResetNRelease (straps : List (Option (BitVec 4))) (s : State) : Result :=
  .next (
    if s.rst.resetN then s
    else
      let s := modRst s (fun r => { r with resetN := true, pwrOk := true, straps := straps })
      if s.rst.refclk then startUp s else s)

/-- REFCLK_LOSS (R533): a RESET event with TIMEOUT, and a MODULE reset that REFCLK_VALID ends. -/
def execRefclkLoss (s : State) : Result := .next (if s.rst.refclk then resetModule (modRst s (fun r => { r with refclk := false })) stTimeout else s)

/-- REFCLK_VALID (R533). -/
def execRefclkValid (s : State) : Result :=
  .next (
    if s.rst.refclk then s
    else
      let s := modRst s (fun r => { r with refclk := true })
      if s.rst.resetN && s.rst.pwrOk then startUp s else s)

/-! ## Rails (R467, R537) -/

/-- The order in which the module raises the rails. -/
def railOrder : List Nat := [2, 4, 3, 0, 1]

/-- The first write of a rail. -/
def writeRail (s : State) (k : Nat) : State :=
  let mv := recordMv s.ctl.records k
  emit (modRail s k (fun r => { r with target := mv, st := 1 })) (.avs k mv)

/-- The next rail is written; in recovery those of the compute dies and their memory stay off (R470). -/
def nextRail (s : State) : State :=
  match railOrder[s.rst.rails]? with
  | some k => if s.ctl.trust.recovery && 2 ≤ s.rst.rails then s else writeRail s k
  | none => s

/-- RAIL_UP (R467, R537): the rail being raised reports in regulation, or fails to within 2 ms and start-up stops there. -/
def execRailUp (rail : Fin 6) (inRegulation : Bool) (s : State) : Result :=
  .next (
    if railOrder[s.rst.rails]? ≠ some rail.val || (getRail s rail.val).st ≠ 1 || s.rst.stopped then s
    else if inRegulation then
      nextRail (modRst (modRail s rail.val (fun r => { r with st := 2 })) (fun r => { r with rails := r.rails + 1 }))
    else
      record (notifyI3c s (assertFault (modRst s (fun r => { r with stopped := true })))) { source := srcKind 0xB rail.val, event := evRailFault, location := BitVec.ofNat 64 rail.val })

/-! ## Start-up (R468, R469) -/

def enterRecovery (s : State) : State := modTrust s (fun t => { t with recovery := true })

def slotOf (f : Firmware) (k : Nat) : FwSlot := if k = 0 then f.slotA else f.slotB

def setSlot (f : Firmware) (k : Nat) (x : FwSlot) : Firmware := if k = 0 then { f with slotA := x } else { f with slotB := x }

/-- A slot changes state. -/
def slotTo (s : State) (k st : Nat) : State :=
  modFw s (fun f => setSlot f k { slotOf f k with st := st, changed := s.tb.time })

/-- The steward starts from the active slot; an image not yet confirmed has its 60 s from here. -/
def stewardStarts (s : State) : State :=
  modFw s (fun f => { f with activatedAt := if (slotOf f f.active).confirmed then none else some s.tb.time })

/-- The active steward slot failed: the other takes its place when it holds a verified image, else recovery (R469). -/
def otherSlot (s : State) : State :=
  let a := s.ctl.fw.active
  let b := 1 - a
  let s := slotTo s a 4
  if (slotOf s.ctl.fw b).st = 1 then
    noteFirmware (stewardStarts (modFw (slotTo s b 2) (fun f => { f with active := b, previous := a }))) 1 stCheckFailed
  else enterRecovery s

/-- The VCD rail of a die (R441). -/
def dieRail (d : Nat) : Nat := if d < 2 then 0 else 1

/-- Dies that come up: those that pass, on a rail in regulation. -/
def diesUp (s : State) (ok : BitVec 4) : List Nat := (List.range 4).filter (fun d => ok.getLsbD d && (getRail s (dieRail d)).st = 2)

/-- The work of a step may end: rails in regulation, granules zeroed. -/
def stepReady (s : State) (n : Nat) : Bool :=
  if n < 4 then true
  else if n < 7 then (getRail s 2).st = 2 && (getRail s 4).st = 2
  else if n = 7 then !s.ctl.trust.recovery && (getRail s 3).st = 2 && (getRail s 0).st ≠ 0 && (getRail s 0).st ≠ 1 && (getRail s 1).st ≠ 0 && (getRail s 1).st ≠ 1
  else if n = 9 then (List.range 4).all (fun d => !s.rst.dieOut.getLsbD d || dieScrubbed s d)
  else true

/-- What a step leaves when it completes. `unitsOk` names the optical engines that passed bring-up at step 6 and the stacks that trained at step 8 (R22). A configuration record that fails verification at step 3 leaves VARIANT UNSET; STEPPING then keeps its 0x00, of which R3 and R4 say nothing (log entry 91). -/
def stepEffect (s : State) (n : Nat) (ok : Bool) (unitsOk : BitVec 16) (diesOk : BitVec 4) (deviceIdOk : Bool) : State :=
  match n with
  | 2 => if deviceIdOk then s else enterRecovery (modTrust s (fun t => { t with noIdentity := true }))
  | 3 =>
    let s := if ok then modRst s (fun r => { r with variant := s.ctl.records.variant, stepping := s.ctl.records.stepping }) else enterRecovery s
    nextRail s
  | 4 => if ok then s else enterRecovery s
  | 5 =>
    let s := if s.ctl.trust.recovery then s else if ok then stewardStarts s else otherSlot s
    let s := if s.ctl.trust.recovery then s else certify (makeAkl s)
    { s with pins := { s.pins with transmitters := true } }
  | 6 => elect (modRst s (fun r => { r with oeOk := unitsOk }))
  | 7 => (diesUp s diesOk).foldl dieOutOfReset ((List.range 4).foldl buildMap s)
  | 8 => (List.range 4).foldl (fun s d => if s.rst.dieOut.getLsbD d then trainDie unitsOk s d else s) (modRst s (fun r => { r with hbmOk := unitsOk }))
  | 10 => modRst s (fun r => { r with dieUp := r.dieOut &&& diesOk })
  | _ => s

/-- START_UP_STEP (R468 to R470): the step after the last completed one completes, in a MODULE or a FABRIC reset; recovery goes no further than step 6. -/
def execStartUpStep (ok : Bool) (unitsOk : BitVec 16) (diesOk : BitVec 4) (deviceIdOk : Bool) (s : State) : Result :=
  let n := s.rst.step + 1
  .next (
    if n < 2 || 10 < n || s.rst.stopped || !s.rst.busy.any (fun b => 7 ≤ b.1) || !stepReady s n then s
    else consoleStep (modRst (stepEffect s n ok unitsOk diesOk deviceIdOk) (fun r => { r with step := n })) n)

/-! ## Compute dies that reset themselves (R466) -/

/-- Whether a cause lets the die begin its reset now. -/
def cdResetDue (s : State) (d : Nat) (cause : CdResetCause) : Bool :=
  let x := getPwDie s d
  match cause with
  | .trip => x.tripped && decide (x.temp < 95)
  | .railFault => x.railLost && (getRail s (dieRail d)).st = 2
  | .stateError | .connectionsLost => s.rst.dieUp.getLsbD d

/-- AUTONOMOUS_CD_RESET (R466): the jobs of the slices on the die stop, the slices are repulped, and the die is reset. -/
def execAutonomousCdReset (die : Fin 4) (cause : CdResetCause) (s : State) : Result :=
  let d := die.val
  .next (
    if resetBusy s (d + 1) || !cdResetDue s d cause then s
    else
      let s := stopDie s d stPoisoned
      resetDie ((slicesOnDie s d).foldl repulp s) d)

/-! ## Steward (R466, R476) -/

/-- STEWARD_HEARTBEAT_TIMEOUT: a new image not yet confirmed is taken back once 5 s have gone by; otherwise the steward is reset. -/
def execStewardHeartbeatTimeout (s : State) : Result :=
  .next (
    if resetBusy s 5 || s.ctl.trust.recovery || s.rst.step < 5 then s
    else match s.ctl.fw.activatedAt with
      | none => resetSteward s stTimeout
      | some t =>
        if s.tb.time < t + 5 * secU then s
        else
          let bad := s.ctl.fw.active
          let good := s.ctl.fw.previous
          let s := modFw (slotTo (slotTo s bad 5) good 2) (fun f => { f with active := good, activatedAt := none })
          resetSteward (noteFirmware s 1 stTimeout) stTimeout)

/-- FW_CONFIRM (R476): 60 s of heartbeats. -/
def execFwConfirm (s : State) : Result :=
  .next (match s.ctl.fw.activatedAt with
    | none => s
    | some t =>
      if s.tb.time < t + 60 * secU || resetBusy s 5 then s
      else
        let k := s.ctl.fw.active
        let x := slotOf s.ctl.fw k
        let s := modFw s (fun f => { setSlot f k { x with confirmed := true, changed := s.tb.time } with activatedAt := none })
        let s := { s with ctl := { s.ctl with records := { s.ctl.records with minSvn := Tab.set s.ctl.records.minSvn 1 x.svn } } }
        noteFirmware s 1 0)

/-! ## The end of a reset (R465) -/

/-- The work of the domain's reset is done. -/
def resetDone (s : State) (dom : Nat) : Bool :=
  if dom = 0 then false
  else if dom ≤ 4 then dieScrubbed s (dom - 1)
  else if dom ≤ 6 then true
  else s.rst.step = 10 || (s.ctl.trust.recovery && s.rst.step = 6)

/-- RESET_COMPLETE. -/
def execResetComplete (domain : BitVec 4) (s : State) : Result :=
  let dom := domain.toNat
  .next (
    if !s.rst.busy.any (fun b => b.1 = dom) || !resetDone s dom then s
    else
      let s := busyDone s dom
      if dom ≤ 4 then dieReady s (dom - 1)
      else if dom = 6 then certify s
      else s)

end Sys2Proof.Machine
end

