-- ==== Sys2Proof/Machine/PowerOps.lean ====
section
/-! DEFINITION. The power controller's operations: caps and brakes, the lend, rails and their faults, operating points (R441 to R456). -/

namespace Sys2Proof.Machine

def modPw (s : State) (f : Power → Power) : State := { s with pw := f s.pw }

/-! ## What the last sample read (R449, R450) -/

/-- Power of a rail in mW. -/
def railMw (r : Rail) : Nat := r.current * r.voltage

def railW (s : State) (k : Nat) : Nat := railMw (getRail s k) / 1000

/-- Compute power, of VCD_A and VCD_B, in mW, and that of the other parts. -/
def computeMw (s : State) : Nat := railMw (getRail s 0) + railMw (getRail s 1)

def otherMw (s : State) : Nat := railMw (getRail s 2) + railMw (getRail s 3) + railMw (getRail s 4) + railMw (getRail s 5)

/-- The largest duty D, from 1 to 16, whose estimated compute power stays within the cap less the other parts; 1 when none does. -/
def brakeDuty (s : State) : Nat :=
  ((List.range 16).reverse.map (· + 1)).find? (fun d => computeMw s * d / 16 + otherMw s ≤ s.caps.inForce * 1000) |>.getD 1

/-! ## The lend (R237, R454, R455) -/

/-- The lend ends: the lanes return to 1.4 GHz and the dies have their budget again. -/
def endLend (s : State) : State :=
  if s.pw.lent then
    modPw { s with pwDies := Tab.mapVals s.pwDies (fun _ x => { x with lendW := 0 }) } (fun p => { p with lent := false })
  else s

/-- Group contexts in whose operation the module adds (R225). -/
def addingGroups (s : State) : List Group :=
  (s.fab.groups.map Prod.snd).filter (fun g => match g.op with
    | some o => opAdds (eOp o.entry)
    | none => false)

/-- Every engine of the group's OWNER on the module is clock-gated. -/
def ownerGated (s : State) (g : Group) : Bool :=
  match findSlice s (gOwner g.desc) with
  | none => true
  | some e => e.2.clusters.all (fun c => (List.range 16).all (fun k => (Tab.getD s.compute.cores (16 * clIx c.1 c.2 + k) {}).engGated = 15))

/-- Contexts that ask for a lend. -/
def lendWanted (s : State) : List Group := (addingGroups s).filter (ownerGated s)

/-- A brake of R450 to R453 is active. -/
def braked (s : State) : Bool := s.pw.throttle || decide (s.pw.selfBrake < 16) || atFloor s

/-- Clusters of the slices that ask. -/
def lendClusters (s : State) : List (Nat × Nat) :=
  (((lendWanted s).filterMap (fun g => findSlice s (gOwner g.desc))).flatMap (fun e => e.2.clusters)).dedup

/-! ## The self-brake (R450) -/

/-- The trigger: it is counted, the lend is withdrawn, and the duty is limited at once; one that comes while the brake holds never raises the duty (DEDUCED, log entry 69). -/
def selfBrakeNow (s : State) : State :=
  let s := endLend s
  setAlert (modPw s (fun p => { p with selfBrakes := satUp p.selfBrakes 1 0xFF, selfBrake := min p.selfBrake (brakeDuty s) }))

/-! ## Caps (R447, R448) -/

/-- A cap as it is held. -/
def heldCap (v : Nat) : Nat := max 900 (min 4400 v)

/-- The cap in force at an earlier time. -/
def capAt (s : State) (t : Nat) : Nat := ((s.pw.capHist.filter (fun e => e.1 ≤ t)).getLast?.map Prod.snd).getD 4400

/-- The caps in force as far back as 2 ms, and the one before them. -/
def capHistory (now : Nat) (h : List (Nat × Nat)) : List (Nat × Nat) :=
  (h.filter (fun e => e.1 + 2 * msU < now)).getLast?.toList ++ h.filter (fun e => now ≤ e.1 + 2 * msU)

/-- A cap is written: the lower is in force, and a fall of more than 10% of its value of 1 ms earlier brakes. -/
def capsTo (s : State) (c : Caps) : State :=
  let now := s.tb.time
  let c := { c with inForce := min c.rack c.host }
  let s1 := modPw { s with caps := c } (fun p => { p with capHist := capHistory now p.capHist ++ [(now, c.inForce)] })
  let s2 := setAlert s1
  notifyI3c s (if c.inForce * 10 < capAt s (now - msU) * 9 then selfBrakeNow s2 else s2)

/-! ## Rails (R441, R443, R449) -/

/-- The read-back voltage lies outside 5% of its target. -/
def railDeviates (r : Rail) : Bool := decide (r.target * 105 < r.voltage * 100) || decide (r.voltage * 100 < r.target * 95)

/-- One sample of a rail; a rail not yet in regulation is not judged. -/
def sampleRail (now : Nat) (r : Rail) (x : RailRead) : Rail :=
  let r := if x.answered then { r with current := x.current, voltage := x.voltage } else r
  let bad := x.fault || !x.answered
  if r.st ≠ 2 && r.st ≠ 3 then r
  else
    let since := if x.answered && railDeviates r then some (r.deviatesSince.getD now) else none
    let late := match since with
      | some t => decide (t + msU ≤ now)
      | none => false
    { r with
      faults := if bad then satUp r.faults 1 0xF else r.faults
      deviatesSince := since
      st := if bad || late then 3 else if since.isNone then 2 else r.st }

/-- A compute die loses its power. -/
def gateDie (s : State) (d : Nat) : State :=
  let s := modRst s (fun r => { r with dieUp := r.dieUp &&& ~~~ dieBit d, dieOut := r.dieOut &&& ~~~ dieBit d })
  modPwDie s d (fun x => { x with pwr := 0 })

/-- Every transmitter stops: neighbours see a node loss (R294, R358). -/
def darken (s : State) : State :=
  (List.range 65).foldl (fun s p => portTo s p .off 0) { s with pins := { s.pins with transmitters := false } }

/-- A rail has failed (R443): FAULT_N, a record, and the loss of what it feeds. -/
def railFails (s : State) (k : Nat) : State :=
  let s := record (notifyI3c s (assertFault s)) { source := srcKind 0xB k, event := evRailFault, location := BitVec.ofNat 64 k }
  if k < 2 then
    let s := stopDie (stopDie s (2 * k) stPoisoned) (2 * k + 1) stPoisoned
    (List.range 2).foldl (fun s i => modPwDie (gateDie s (2 * k + i)) (2 * k + i) (fun x => { x with railLost := true })) s
  else if k = 2 then resetFabric (darken s) 0
  else darken s

/-! ## Operating points (R445, R449) -/

/-- The VCD voltage of an operating point. -/
def pointMv (s : State) (mhz : Nat) : Nat := s.ctl.records.points.getD ((1600 - mhz) / 100) 850

/-- The rail's voltage is the highest that either of its dies needs. -/
def vcdNeed (s : State) (rail : Nat) : Nat :=
  let need := fun d => if dieOn s d then pointMv s (getPwDie s d).point else 0
  max (need (2 * rail)) (need (2 * rail + 1))

/-- A VCD rail is commanded to what its dies need. -/
def setVcd (s : State) (rail : Nat) : State :=
  let mv := vcdNeed s rail
  if mv = 0 || mv = (getRail s rail).target then s
  else emit (modRail s rail (fun r => { r with target := mv })) (.avs rail mv)

/-- The die with the highest operating point, the lowest number among equals. -/
def highestDie (s : State) : Option Nat :=
  (List.range 4).foldl (fun b d =>
    if !dieOn s d then b
    else match b with
      | some k => if (getPwDie s k).point < (getPwDie s d).point then some d else b
      | none => some d) none

/-- The die's own budget has been cut (R456). -/
def budgetCut (s : State) (d : Nat) : Bool := decide ((getPwDie s d).cutW < 780) || decide (dieHot s d ≠ 0)

/-- Something requires a lower point: power above the cap, a self-brake, the floor, or the die's own budget. -/
def lowerDue (s : State) (d : Nat) : Bool :=
  dieOn s d && decide (800 < (getPwDie s d).point) &&
  (budgetCut s d || ((decide (s.caps.inForce < s.pw.power) || decide (s.pw.selfBrake < 16) || atFloor s) && highestDie s = some d))

/-- As a point takes effect the self-brake's duty rises; by how much is the controller's estimate, a free value (log entry 3). -/
def easeBrake (s : State) : State :=
  if s.pw.selfBrake < 16 then
    let f := takeFree s
    setAlert (modPw f.2 (fun p => { p with selfBrake := p.selfBrake + f.1.toNat % (17 - p.selfBrake) }))
  else s

/-- A point may rise: no brake, no limit, and power below the cap by more than 2%, one step in 1 ms. -/
def raiseDue (s : State) (d : Nat) : Bool :=
  dieOn s d && decide ((getPwDie s d).point < 1600) && !braked s && !budgetCut s d &&
  decide (s.pw.lastRaise + msU ≤ s.tb.time) && decide (s.pw.power * 100 < s.caps.inForce * 98)

/-! ## Thermal limits (R456) -/

/-- A warning at a threshold, cleared 3 degrees below it. -/
def warnNext (old : Bool) (bound t : Nat) : Bool := decide (bound ≤ t) || (old && decide (bound - 3 < t))

def thermal (s : State) (i : Nat) : State := record s { source := srcKind 0xB 6, event := evThermal, location := BitVec.ofNat 64 i }

/-- A die's budget while it is at its limit, or the fabric die at its own: 10% less each millisecond. -/
def cutDie (s : State) (d : Nat) (hot : Bool) : State :=
  let x := getPwDie s d
  if !hot then modPwDie s d (fun x => { x with cutW := 780 })
  else if x.cutW = 780 || decide (x.cutAt + msU ≤ s.tb.time) then modPwDie s d (fun x => { x with cutW := x.cutW * 9 / 10, cutAt := s.tb.time })
  else s

/-- One die's temperature is judged. -/
def judgeDie (fdHot : Bool) (s : State) (d t : Nat) : State :=
  let x := getPwDie s d
  let w := warnNext x.warn 95 t
  let s := modPwDie s d (fun x => { x with temp := t, warn := w })
  let s := if w && !x.warn then thermal s d else s
  let s := cutDie s d (fdHot || decide (105 ≤ t))
  if 115 ≤ t && !x.tripped && dieOn s d then
    let s := thermal (notifyI3c s (assertFault s)) d
    modPwDie (gateDie (stopDie s d stPoisoned) d) d (fun x => { x with tripped := true })
  else s

/-- One optical engine's: from 85 degrees its ports leave service. -/
def judgeOe (s : State) (k t : Nat) : State :=
  let old := s.pw.oeWarn.getLsbD k
  let w := warnNext old 75 t
  let bit : BitVec 16 := 1#16 <<< k
  let s := modPw s (fun p => { p with oeWarn := if w then p.oeWarn ||| bit else p.oeWarn &&& ~~~ bit })
  let s := if w && !old then thermal s (16 + k) else s
  let s := modOptic s k (fun o => { o with temp := BitVec.ofNat 8 t })
  if 85 ≤ t then (List.range 4).foldl (fun s i => portFails s (4 * k + i)) s else s

/-- The fabric die's: at 105 degrees the lend is withdrawn and refused, at 115 the transmitters stop, the dies are gated and the fabric die is reset. -/
def judgeFd (s : State) (t : Nat) : State :=
  let w := warnNext s.pw.fdWarn 95 t
  let s := if w && !s.pw.fdWarn then thermal s 4 else s
  let s := modPw s (fun p => { p with fdTemp := t, fdWarn := w, fdLimit := decide (105 ≤ t) })
  let s := if 105 ≤ t then endLend s else s
  if 115 ≤ t && !resetBusy s 7 then
    let s := thermal (notifyI3c s (assertFault s)) 4
    resetFabric ((List.range 4).foldl gateDie (darken s)) 0
  else s

end Sys2Proof.Machine
end

