-- ==== Sys2Proof/Machine/Power.lean ====
section
/-! DEFINITION. Power, clocks and thermal control: the caps' commands and writes, samples, steps, brakes, the lend, gating (R440 to R463). -/

namespace Sys2Proof.Machine

/-! ## Caps and telemetry on the host link (R447, R458) -/

def setHostCap (s : State) (cap : Nat) : State × Reply :=
  let s := capsTo s { s.caps with host := heldCap cap, hostLow := decide (cap < 900) }
  (s, .done (if cap < 900 then stCapBelowFloor else stOk) (leBytes 4 s.caps.inForce))

/-- PWR_CAP_SET (R447). -/
def execPwrCapSet (h : Hdr) (cap : BitVec 32) (s : State) : Result :=
  .next (command s h { code := 0x6000, chan := .admin, reserve := 4 } (fun s => setHostCap s cap.toNat))

/-- The telemetry record of R458. -/
def telemetry (s : State) : List Byte :=
  leBytes 8 s.pw.lastSample ++ leBytes 2 s.caps.inForce ++ leBytes 2 s.caps.rack ++ leBytes 2 s.caps.host ++ leBytes 2 0 ++
  (List.range 6).flatMap (fun k => leBytes 2 (railW s k)) ++ leBytes 4 s.pw.power10 ++ leBytes 4 s.pw.power ++
  (List.range 4).flatMap (fun d => leBytes 2 (dieFreq s d)) ++ (List.range 4).flatMap (fun d => leBytes 1 (dieDuty s d)) ++
  (List.range 4).flatMap (fun d => leBytes 1 (getPwDie s d).temp) ++ leBytes 1 s.pw.fdTemp ++ leBytes 1 s.pw.stackTemp ++ leBytes 1 s.pw.oeTemp ++
  leBytes 1 (pwFlags s) ++ leBytes 72 0

/-- What a slice channel sees of it. -/
def telemetrySlice (s : State) : List Byte :=
  leBytes 8 s.pw.lastWindow ++ leBytes 2 s.caps.inForce ++ leBytes 18 0 ++ leBytes 4 s.pw.power10 ++ leBytes 96 0

/-- PWR_STATUS (R458). -/
def execPwrStatus (h : Hdr) (s : State) : Result :=
  .next (command s h { code := 0x6001, chan := .either, reserve := 1024 } (fun s => (s, .done stOk (if isAdmin h then telemetry s else telemetrySlice s))))

/-! ## I3C (R448, R529, R536) -/

/-- The target has an address: its static one, or a dynamic one; it answers from the first step of start-up on. -/
def i3cAnswers (s : State) : Bool := decide (1 ≤ s.rst.step) && (s.pw.i3cDyn.isSome || (s.rst.straps.getD 4 none).isSome)

/-- RACK_CAP_WRITE (R447, R448): both bytes, at STOP. -/
def execRackCapWrite (lo hi : Option Byte) (s : State) : Result :=
  .next (
    if !i3cAnswers s then s
    else
      let s := modPw s (fun p => { p with i3cIndex := 0 })
      match lo, hi with
      | some l, some u =>
        let v := l.toNat + 256 * u.toNat
        modPw (capsTo s { s.caps with rack := heldCap v, rackLow := decide (v < 900) }) (fun p => { p with i3cWrites := (p.i3cWrites + 1) % 256 })
      | _, _ => s)

/-- ENTDAA (R448). -/
def execEntdaa (addr : BitVec 7) (s : State) : Result :=
  .next (if s.rst.step = 0 then s else modPw s (fun p => { p with i3cDyn := some addr }))

/-! ## Samples (R443, R449, R450, R458) -/

/-- Read the rails and temperatures of one sample. -/
def takeSample (s : State) (rails : List RailRead) (dieTemps stackTemps oeTemps : List Nat) (fdTemp : Nat) : State :=
  let now := s.tb.time
  let s := { s with
    rails := (List.range 6).foldl (fun t k => match rails[k]? with
      | some x => Tab.upd t k {} (fun r => sampleRail now r x)
      | none => t) s.rails
    pwDies := (List.range 4).foldl (fun t d => match dieTemps[d]? with
      | some x => Tab.upd t d {} (fun e => { e with temp := x })
      | none => t) s.pwDies }
  modPw s (fun p => { p with fdTemp := fdTemp, stackTemp := stackTemps.foldl max 0, oeTemp := oeTemps.foldl max 0, lastSample := now })

/-- Module power of the sample, and the 10 ms window's mean when its hundredth sample is in. -/
def takePower (s : State) : State :=
  let w := (computeMw s + otherMw s) / 1000
  let p := s.pw
  if p.windowCount = 99 then
    modPw s (fun p => { p with power := w, power10 := (p.windowSum + w) / 100, windowSum := 0, windowCount := 0, lastWindow := s.tb.time })
  else modPw s (fun p => { p with power := w, windowSum := p.windowSum + w, windowCount := p.windowCount + 1 })

/-- Rails that this sample finds failed. -/
def newFailures (old new : State) : List Nat := (List.range 6).filter (fun k => (getRail old k).st ≠ 3 && (getRail new k).st = 3)

/-- With every point at its lowest the brake has no later point to ease with: it eases while power stays below the cap by more than 2% (DESIGN CHOICE, log entry 33). -/
def easeAt (s : State) : State :=
  if (List.range 4).all (fun d => !dieOn s d || (getPwDie s d).point ≤ 800) && decide (s.pw.power * 100 < s.caps.inForce * 98) then easeBrake s else s

/-- POWER_SAMPLE: a sample more than 5% above the cap triggers the self-brake. -/
def execPowerSample (rails : List RailRead) (dieTemps stackTemps oeTemps : List Nat) (fdTemp : Nat) (s : State) : Result :=
  let t := takePower (takeSample s rails dieTemps stackTemps oeTemps fdTemp)
  let t := if t.caps.inForce * 105 < t.pw.power * 100 then notifyI3c t (selfBrakeNow t) else notifyI3c t (easeAt t)
  .next ((newFailures s t).foldl railFails t)

/-- THERMAL_SAMPLE (R456). -/
def execThermalSample (dieTemps oeTemps : List Nat) (fdTemp : Nat) (s : State) : Result :=
  let fdHot := decide (105 ≤ fdTemp)
  let s := (List.range 4).foldl (fun s d => match dieTemps[d]? with
    | some t => judgeDie fdHot s d t
    | none => s) s
  let s := (List.range 16).foldl (fun s k => match oeTemps[k]? with
    | some t => judgeOe s k t
    | none => s) s
  .next (setAlert (judgeFd s fdTemp))

/-! ## Operating points and brakes (R445, R449 to R452) -/

/-- The die's point moves one step; the rail follows after a fall, and leads a rise. -/
def stepDie (s : State) (d : Nat) (dir : DvfsDir) : State :=
  match dir with
  | .down =>
    if !lowerDue s d then s
    else
      let s := modPwDie s d (fun x => { x with point := x.point - 100 })
      notifyI3c s (easeBrake (setVcd s (dieRail d)))
  | .up =>
    if !raiseDue s d then s
    else modPw (setVcd (modPwDie s d (fun x => { x with point := x.point + 100 })) (dieRail d)) (fun p => { p with lastRaise := s.tb.time })

/-- DVFS_STEP. -/
def execDvfsStep (die : Fin 4) (dir : DvfsDir) (s : State) : Result := .next (stepDie s die.val dir)

/-- THROTTLE_N_ASSERT (R451): ignored in reset; the lend goes first, then every die that is on is braked. -/
def execThrottleNAssert (s : State) : Result :=
  let s := { s with pins := { s.pins with throttleN := false } }
  .next (
    if s.rst.step = 0 || s.pw.throttle then s
    else
      let s := modPw (endLend s) (fun p => { p with throttle := true, throttles := satUp p.throttles 1 0xFF })
      (List.range 4).foldl (fun s d => if dieOn s d then modPwDie s d throttleDie else s) s)

/-- THROTTLE_N_RELEASE (R451): the dies restore their duty and then their point. -/
def execThrottleNRelease (s : State) : Result :=
  let s := { s with pins := { s.pins with throttleN := true } }
  .next (modPw { s with pwDies := Tab.mapVals s.pwDies (fun _ x => { x with thrDuty := none }) } (fun p => { p with throttle := false }))

/-! ## The lend (R237, R454, R455) -/

/-- LEND_REQUEST: granted when there is room for 80 W and no brake is active. -/
def execLendRequest (s : State) : Result :=
  .next (
    if s.pw.lent || (lendWanted s).isEmpty || braked s || s.pw.fdLimit || !decide (s.pw.power + 80 < s.caps.inForce) then s
    else
      let cs := lendClusters s
      let s := modPw s (fun p => { p with lent := true })
      (List.range 4).foldl (fun s d => modPwDie s d (fun x => { x with lendW := if cs.isEmpty then 0 else 80 * (cs.filter (fun c => c.1 = d)).length / cs.length })) s)

/-- The lend's need is over, or the controller takes it back. -/
def lendOver (s : State) : Bool :=
  (lendWanted s).isEmpty || braked s || s.pw.fdLimit || decide (s.caps.inForce < s.pw.power + 80)

/-- LEND_WITHDRAW. -/
def execLendWithdraw (s : State) : Result := .next (if lendOver s then endLend s else s)

/-! ## Gating (R66, R264, R446) -/

/-- A barrier in progress of a group whose OWNER holds the cluster, on a die of its local ranks, keeps its PLL running. -/
def barrierHolds (s : State) (d l : Nat) : Bool :=
  s.fab.groups.any (fun g => match g.2.op with
    | some o => eOp o.entry = opBarrier && (barClusters s g.2).contains (d, l)
    | none => false)

/-- Such a barrier is within 50 ns of its release: the cluster's control cores run. -/
def barrierNear (s : State) (d l : Nat) : Bool :=
  s.fab.groups.any (fun g => match g.2.op with
    | some o => eOp o.entry = opBarrier && (barClusters s g.2).contains (d, l) && o.t.any (fun t => decide (t ≤ s.tb.time + 50 * nsU))
    | none => false)

/-- No strand is READY and no TMMA executes or is queued. -/
def coreIdle (s : State) (c : CorePos) : Bool :=
  (strandsOf c).all (fun p => (getStrand s p).st ≠ .ready) &&
  ([0, 1, 2, 3].all (fun e => (getEngine s c e).queue.isEmpty && (getEngine s c e).running.isNone))

/-- CORE_GATE (R66): an idle core's clock stops; not from 50 ns before a barrier's release on (R264). -/
def execCoreGate (c : CorePos) (s : State) : Result :=
  .next (if coreIdle s c && !(getCore s c).gated && !barrierNear s c.die.val c.cluster.val then
      modCore (modCluster (touchCycle s c) c.die c.cluster (fun k => { k with idleSince := s.tb.time })) c (fun k => { k with gated := true })
    else s)

/-- CORE_WAKE (R66): a strand of a gated core is READY; the cluster's PLL runs first (R446). -/
def execCoreWake (c : CorePos) (s : State) : Result :=
  .next (if (getCore s c).gated && !coreIdle s c then
      modCore (modCluster s c.die c.cluster (fun k => { k with pllDown := false })) c (ungate s c.die)
    else s)
/-- CLUSTER_PLL_GATE. -/
def execClusterPllGate (die : Fin 4) (cluster : Fin 12) (s : State) : Result :=
  let d := die.val
  let l := cluster.val
  let idle := (List.range 16).all (fun k =>
    let c := Tab.getD s.compute.cores (16 * clIx d l + k) {}
    c.gated && c.engGated = 15)
  .next (
    if idle && !(getCluster s d l).pllDown && !barrierHolds s d l && decide ((getCluster s d l).idleSince + 100 * usU ≤ s.tb.time) then
      modCluster s d l (fun k => { k with pllDown := true })
    else s)

/-- The die holds nothing that keeps it on. -/
def dieIdle (s : State) (d : Nat) : Bool :=
  (List.range 16).all (fun g => (getGran s d g).st ≠ .owned && (getGran s d g).st ≠ .scrubbing) &&
  (List.range 12).all (fun l => (sliceOn s d l).isNone)

/-- DIE_POWER_GATE: no architectural state changes; the die's registers are out of reach until it is powered again (R392). -/
def execDiePowerGate (die : Fin 4) (s : State) : Result :=
  let d := die.val
  .next (
    if dieOn s d && s.rst.step = 10 && s.rst.busy.isEmpty && dieIdle s d && decide ((getPwDie s d).idleSince + 10 * msU ≤ s.tb.time) then
      modPwDie (modRst s (fun r => { r with dieOut := r.dieOut &&& ~~~ dieBit d })) d (fun x => { x with pwr := 0 })
    else s)

/-- A gated die is powered for a slice's commit (R446). -/
def powerDie (s : State) (d : Nat) : State := if (getPwDie s d).pwr = 0 && s.rst.dieUp.getLsbD d then dieOutOfReset s d else s

end Sys2Proof.Machine
end

