-- ==== Sys2Proof/Machine/TxnOps.lean ====
section
/-! DEFINITION. The checks and the application of each staged item: slice descriptors, route banks, group descriptors and deletions (R217, R247, R248, R286 to R290, R398 to R404, R495, R498, R499). -/

namespace Sys2Proof.Machine

/-! ## Slice descriptors (R398 to R400) -/

def sdId (b : List Byte) : BitVec 16 := BitVec.ofNat 16 (leAt b 0 2)
def sdSlot (b : List Byte) : Nat := leAt b 2 1
def sdAttr (b : List Byte) : Nat := leAt b 3 1
def sdQuantum (b : List Byte) : Nat := leAt b 4 1
def sdJob (b : List Byte) : BitVec 32 := BitVec.ofNat 32 (leAt b 8 4)
def sdFlows (b : List Byte) : Nat := leAt b 12 4
def sdRings (b : List Byte) : Nat := leAt b 16 2
def sdGroups (b : List Byte) : Nat := leAt b 18 2
def sdDeckles (b : List Byte) : Nat := leAt b 20 4
def sdClusterMask (b : List Byte) (d : Nat) : Nat := leAt b (24 + 2 * d) 2
def sdGranuleMask (b : List Byte) (d : Nat) : Nat := leAt b (32 + 2 * d) 2
def sdCounterMask (b : List Byte) (d : Nat) : Nat := leAt b (40 + 8 * d) 8
def sdCtx (b : List Byte) (d : Nat) : Nat := leAt b (72 + 8 * d) 8

def sdTimesliced (b : List Byte) : Bool := (sdAttr b).testBit 1

/-- Indexes of the bits set below a bound. -/
def bitsSet (m n : Nat) : List Nat := (List.range n).filter (fun i => m.testBit i)

/-- Named clusters, by die and ascending logical number. -/
def sdClusters (b : List Byte) : List (Nat × Nat) := (List.range 4).flatMap (fun d => (bitsSet (sdClusterMask b d) 12).map (fun l => (d, l)))

/-- Named granules, by 16 times the die plus the granule. -/
def sdGranules (b : List Byte) : List Nat := (List.range 4).flatMap (fun d => (bitsSet (sdGranuleMask b d) 16).map (fun g => 16 * d + g))

/-- Named counter blocks, by die. -/
def sdBlocks (b : List Byte) : List (Nat × Nat) := (List.range 4).flatMap (fun d => (bitsSet (sdCounterMask b d) 64).map (fun k => (d, k)))

/-- Bytes of a die's context area: its images and its debug area (R406, R503). -/
def ctxSize (n : Nat) : Nat := n * 0x1900000 + 0x10000 + n * 0x100000

/-- A die's clusters, granules and context area agree. -/
def sdDieOk (b : List Byte) (d : Nat) : Bool :=
  let n := (bitsSet (sdClusterMask b d) 12).length
  let lo := sdCtx b d
  let hi := lo + ctxSize n
  if n = 0 then lo = 0
  else
    sdGranuleMask b d ≠ 0 && lo % 0x10000 = 0 && decide (hi ≤ 2 ^ 38) &&
    (List.range (granOf (hi - 1) - granOf lo + 1)).all (fun i => (sdGranuleMask b d).testBit (granOf lo + i))

/-- No BAD_PARAM condition of R400 holds. -/
def sdFieldsOk (b : List Byte) : Bool :=
  b.length = 192 && sdAttr b < 8 && leAt b 5 3 = 0 && leAt b 184 8 = 0 && sdId b ≠ 0xFFFF && sdSlot b < 64 &&
  (if sdTimesliced b then 1 ≤ sdQuantum b && sdQuantum b ≤ 100 else sdQuantum b = 0) &&
  1 ≤ sdFlows b && sdFlows b < 2 ^ 20 && sdRings b ≤ 4096 && sdGroups b ≤ 4096 && sdDeckles b < 2 ^ 18 &&
  (List.range 4).all (fun d => sdClusterMask b d < 4096) && !(sdClusters b).isEmpty && !(sdGranules b).isEmpty &&
  (List.range 4).all (sdDieOk b)

/-- What the descriptor names is free to take: the BAD_STATE conditions. -/
def sdThingsFree (s : State) (b : List Byte) : Bool :=
  (findSlice s (sdId b)).isNone &&
  (sdGranules b).all (fun g => (getGran s (g / 16) (g % 16)).st = .free) &&
  (sdBlocks b).all (fun k => (Tab.find (getEp s k.1).counterOwner k.2).isNone) &&
  (sdClusters b).all (fun c => physCluster s c.1 c.2 ≠ 0xF)

/-- Sum of a limit over the defined slices. -/
def limitSum (s : State) (f : Slice → Nat) : Nat := ((s.ctl.slices.map Prod.snd).map f).sum

/-- The BUSY conditions do not hold. -/
def sdRoom (s : State) (b : List Byte) : Bool :=
  (getSlice s (sdSlot b)).isNone &&
  s.ctl.slices.all (fun e => (e.2.timesliced && sdTimesliced b) || (sdClusters b).all (fun c => !e.2.clusters.contains c)) &&
  decide (limitSum s (·.maxFlows) + sdFlows b ≤ 1048576) && decide (limitSum s (·.maxRings) + sdRings b ≤ 4096) &&
  decide (limitSum s (·.maxGroups) + sdGroups b ≤ 4096) && decide (limitSum s (·.maxDeckles) + sdDeckles b ≤ 262144)

/-- R400. -/
def sliceCheck (s : State) (b : List Byte) : BitVec 16 :=
  if !sdFieldsOk b then stBadParam else if !sdThingsFree s b then stBadState else if !sdRoom s b then stBusy else stOk

/-- The slice a descriptor defines. -/
def sliceOf (s : State) (b : List Byte) : Slice :=
  { id := sdId b, desc := b, exact := (sdAttr b).testBit 0, timesliced := sdTimesliced b, debugOk := (sdAttr b).testBit 2
    quantum := sdQuantum b, job := sdJob b, maxFlows := sdFlows b, maxRings := sdRings b, maxGroups := sdGroups b, maxDeckles := sdDeckles b
    clusters := sdClusters b, changed := s.tb.time, usage := { lastSum := s.tb.time } }

/-- R401, R404, R446: what is named becomes the slice's; a slice that is not time-sliced is RESIDENT at once. -/
def sliceApply (s : State) (b : List Byte) : State :=
  let k := sdSlot b
  let id := sdId b
  let s := (sdGranules b).foldl (fun s g => modGran s (g / 16) (g % 16) (fun x => { x with st := .owned, owner := id, zeroing := false })) s
  let s := (sdBlocks b).foldl (fun s c => modEp s c.1 (fun e => { e with
    counterOwner := Tab.set e.counterOwner c.2 id, counters := e.counters.filter (fun x => x.1 / 256 ≠ c.2) })) s
  let s := modChan s k (fun x => { x with slice := id })
  let s := { s with ctl := { s.ctl with slices := Tab.set s.ctl.slices k (sliceOf s b), oldUsage := Tab.erase s.ctl.oldUsage k } }
  let s := (((sdClusters b).map Prod.fst) ++ (sdGranules b).map (· / 16)).dedup.foldl powerDie s
  if sdTimesliced b then s else enterResident s k

/-! ## Route banks (R286 to R290) -/

/-- Every coordinate of the table, in entry order. -/
def allCoords : List Coord :=
  (List.range 4).flatMap (fun w => (List.range 4).flatMap (fun x => (List.range 6).flatMap (fun y => (List.range 6).map (fun z => ⟨w, x, y, z⟩))))

/-- The bank that an image holds. -/
def parseBank (b : List Byte) : Bank :=
  { nw := leAt b 0 1, nx := leAt b 1 1, ny := leAt b 2 1, nz := leAt b 3 1, expBudget := BitVec.ofNat 16 (leAt b 4 2)
    portEn := BitVec.ofNat 64 (leAt b 8 8), epoch := BitVec.ofNat 2 (leAt b 20 1)
    entries := (List.range 576).map (fun i => BitVec.ofNat 16 (leAt b (64 + 2 * i) 2)) }

/-- The header's extents, CRC and reserved fields. -/
def bankHeaderOk (b : List Byte) : Bool :=
  let k := parseBank b
  b.length = 1216 && 1 ≤ k.nw && k.nw ≤ 4 && 1 ≤ k.nx && k.nx ≤ 4 && 1 ≤ k.ny && k.ny ≤ 6 && 1 ≤ k.nz && k.nz ≤ 6 &&
  leAt b 6 2 = 0 && leAt b 20 1 < 4 && leAt b 21 43 = 0 && leAt b 16 4 = (crc32c (b.drop 64)).toNat &&
  k.entries.all (fun e => e.extractLsb' 4 10 = 0)

/-- One entry, seen from module `a` (R288). -/
def bankEntryOk (k : Bank) (a c : Coord) : Bool :=
  let e := bankEntry k c
  let mask := e.extractLsb' 0 4
  if !inExtent k c then e = 0
  else if c = a then mask = 0
  else match entrySt e with
    | .absent | .excluded => mask = 0
    | _ => mask ≠ 0 && dims.all (fun d =>
        !entryMask e d ||
        (coordGet c d ≠ coordGet a d &&
          (let n := coordSet a d (coordGet c d)
           decide (n = c) || entrySt (bankEntry k n) = .inService)))

/-- PORT_EN leaves a port to every peer that is IN_SERVICE or SHADOW. -/
def portsOk (s : State) (k : Bank) : Bool :=
  (List.range 16).all (fun oe =>
    let p := oePeer s oe
    let st := entrySt (bankEntry k p)
    !inExtent k p || (st ≠ .inService && st ≠ .shadow) || (List.range 4).any (fun i => k.portEn.getLsbD (4 * oe + i)))

/-- Modules that a bank expels softly: EXCLUDED in it, IN_SERVICE in the current one, not lost (R498). -/
def softExpelled (s : State) (k : Bank) : List Coord :=
  match s.net.route.cur with
  | none => []
  | some b => allCoords.filter (fun c => inExtent b c && entrySt (bankEntry b c) = .inService && entrySt (bankEntry k c) = .excluded && !isLost s c)

/-- COUNT and PERIOD in minutes (R498). -/
def budgetOf (x : BitVec 16) : Nat × Nat :=
  if x = 0 then (1, 10)
  else ((x.extractLsb' 12 4).toNat, if x.extractLsb' 0 12 = 0 then 10 else (x.extractLsb' 0 12).toNat)

/-- A group's member modules among some modules. -/
def expelledOf (g : Group) (cs : List Coord) : Nat := (cs.filter (fun c => g.members.any (fun m => nodeCoord m.node = c))).length

/-- The soft expulsions would bring some group above its budget (R499). -/
def overBudget (s : State) (k : Bank) : Bool :=
  let b := budgetOf k.expBudget
  let cs := softExpelled s k
  s.fab.groups.any (fun g =>
    let n := expelledOf g.2 cs
    decide (0 < n) && decide (b.1 < n + (g.2.expulsions.filter (fun t => s.tb.time < t + b.2 * 60 * secU)).length))

/-- This module's entry. -/
def ownEntry (s : State) (k : Bank) : EntrySt := entrySt (bankEntry k (hereC s))

/-- Its entry in the current bank. -/
def ownNow (s : State) : EntrySt :=
  match s.net.route.cur with
  | some b => ownEntry s b
  | none => .absent

/-- R288, R495, R499. -/
def routeCheck (s : State) (b : List Byte) : BitVec 16 :=
  let k := parseBank b
  let r := s.net.route
  if !bankHeaderOk b || !inExtent k (hereC s) || !allCoords.all (bankEntryOk k (hereC s)) || !portsOk s k then stBadParam
  else if (match r.cur with
    | some c => decide (k.epoch ≠ c.epoch + 1)
    | none => false) then stBadParam
  else if ownEntry s k = .excluded && !s.ctl.slices.isEmpty then stBadState
  else if ownEntry s k = .inService && ownNow s = .shadow && (s.fleet.shadow = 0 || s.fleet.diverged) then stBadState
  else if overBudget s k then stDenied
  else stOk

/-- A group's expulsions are noted in the list its GID keeps. -/
def noteExpulsions (s : State) (cs : List Coord) : State :=
  (s.fab.groups.map Prod.fst).foldl (fun s c =>
    modGroup s c (fun g => { g with expulsions := g.expulsions ++ List.replicate (expelledOf g cs) s.tb.time })) s

/-- Each soft expulsion of a member of a group held here is recorded (R487, R499). -/
def recordExpulsions (s : State) (cs : List Coord) : State :=
  (cs.filter (fun c => s.fab.groups.any (fun g => decide (0 < expelledOf g.2 [c])))).foldl (fun s c =>
    record s { source := srcRoute, event := evExpulsion, location := BitVec.ofNat 64 (coordNode c 4).toNat }) s

/-- R289, R290, R297, R495: the bank becomes current; the first one is the join. -/
def routeApply (s : State) (b : List Byte) : State :=
  let k := parseBank b
  let cs := softExpelled s k
  let enters := ownEntry s k = .shadow && ownNow s ≠ .shadow
  let s := recordExpulsions (noteExpulsions s cs) cs
  let s := modRoute s (fun r => { r with
    old := r.cur, oldLive := r.cur.isSome, oldPkts := 0, lastOld := s.tb.time, cur := some k, joined := true })
  let s := if enters then { s with fleet := { s.fleet with shadow := 0, diverged := false } } else s
  let s := emit (unstick (settlePorts s)) (.bank k.epoch)
  if s.net.route.backDue && (ownEntry s k = .inService || ownEntry s k = .shadow) then
    flood (modRoute s (fun r => { r with backDue := false })) none nNodeBack (nodeBackBytes (hereC s) k.epoch)
  else s

/-! ## Group descriptors (R215 to R217, R247, R248) -/

def descOf (b : List Byte) : BitVec 512 := BitVec.ofNat 512 (leNat b)

/-- The reserved bits of R215 are zero. -/
def gReservedOk (d : BitVec 512) : Bool :=
  d.extractLsb' 416 96 = 0 && d.extractLsb' 358 26 = 0 && d.extractLsb' 294 26 = 0 && d.extractLsb' 230 26 = 0 && d.extractLsb' 166 26 = 0 && d.extractLsb' 101 27 = 0

def gFieldsOk (d : BitVec 512) : Bool :=
  gReservedOk d && gAlgv d = 1 && 4 ≤ gLog2n d && gLog2n d ≤ 12 && 1 ≤ gNranks d && gNranks d ≤ 2304 &&
  gMapoff d % 64 = 0 && gCioff d % 64 = 0 && gPioff d % 64 = 0 && gQbase d % 64 = 0

/-- The quire's slots and lines lie in the OWNER's granules. -/
def gLinesOk (s : State) (d : BitVec 512) : Bool :=
  ownsHbm s (gQdie d) (gQbase d) (64 * 2 ^ gLog2n d) (gOwner d) && ownsHbm s (gQdie d) (gPioff d) 64 (gOwner d) && ownsHbm s (gQdie d) (gCioff d) 64 (gOwner d)

/-- The rank map's bytes, where they lie in the OWNER's granules. -/
def readMap (s : State) (d : BitVec 512) : Option (List Byte) :=
  let r := hbmRead s (gMapdie d) (gMapoff d) (4 * gNranks d) (gOwner d)
  if r.1 = stOk then some r.2 else none

def mapEntries (d : BitVec 512) (m : List Byte) : List Nat := (List.range (gNranks d)).map (fun r => leAt m (4 * r) 4)

def mapNodes (d : BitVec 512) (m : List Byte) : List (BitVec 20) := (mapEntries d m).map (BitVec.ofNat 20)

/-- A node lies in the pod extent; before the join only this module does. -/
def nodeInside (s : State) (n : BitVec 20) : Bool :=
  match s.net.route.cur with
  | some b => inExtent b (nodeCoord n)
  | none => isHere s n

/-- The map's entries, its CRC, and a rank of this module, which a re-form need not have. -/
def mapOk (s : State) (d : BitVec 512) (m : List Byte) (reform : Bool) : Bool :=
  crc32c m = gMapcrc d &&
  (mapEntries d m).all (fun e => e < 2 ^ 20 && e % 16 < 4 && nodeInside s (BitVec.ofNat 20 e)) && (mapEntries d m).Nodup &&
  (reform || (mapNodes d m).any (isHere s))

/-- The epoch a re-form follows: that of the re-form which waits, or the context's. -/
def baseEpoch (g : Group) : BitVec 8 :=
  match g.reform with
  | some r => gEpoch r.1
  | none => g.epoch

/-- A context and a monitor entry are free, and the slice's limit is not reached (R190, R217, R401); a re-form has its context, its monitor entry where the die stays, and its place under the limit where OWNER stays. -/
def groupRoom (s : State) (d : BitVec 512) (old : Option Group) : Bool :=
  let monitor := decide ((getEp s (gQdie d)).monitors.length < 4096)
  let place := match findSlice s (gOwner d) with
    | some e => decide ((groupsOf s (gOwner d)).length < e.2.maxGroups)
    | none => false
  match old with
  | none => decide (s.fab.groups.length < 4096) && monitor && place
  | some g => (gQdie g.desc = gQdie d || monitor) && (gOwner g.desc = gOwner d || place)

/-- R217, R247: the map as read, or as held since CHECK. -/
def groupCheck (s : State) (b : List Byte) (map : Option (List Byte)) : BitVec 16 :=
  let d := descOf b
  let old := findGroup s (gGid d)
  match map with
  | none => stBadParam
  | some m =>
    if b.length ≠ 64 || !gFieldsOk d || !gLinesOk s d || !mapOk s d m old.isSome then stBadParam
    else if (match old with
      | some g => decide (gEpoch d ≠ baseEpoch g.2 + 1)
      | none => false) then stBadParam
    else if !groupRoom s d (old.map Prod.snd) then stBusy
    else stOk

/-- R221, R247. -/
def groupApply (s : State) (b : List Byte) (m : List Byte) : State :=
  let d := descOf b
  let nodes := mapNodes d m
  let tree := buildTree nodes
  match findGroup s (gGid d) with
  | none =>
    let f := takeFree s
    (match Tab.pickFree f.2.fab.groups 4096 f.1.toNat with
      | none => f.2
      | some c => enterJoining (monitorAdd f.2 (gQdie d) (gPioff d / 64) (.quire c)) c d tree nodes)
  | some g =>
    let c := g.1
    let s := modGroup s c (fun x => { x with reform := none })
    let s := raiseAbort s c stBadState false
    let s := abortUnstarted s c ((getGroup s c).lastPi - (getGroup s c).next)
    let s := modGroup s c (fun x => { x with reform := some (d, tree, nodes) })
    if (getGroup s c).op.isNone then applyReform s c else s

/-! ## Items (R385, R386) -/

/-- Staged bytes of an item. -/
def itemSize : Item → Nat
  | .slice _ => 192
  | .route _ => 1216
  | .group _ _ => 64
  | .groupDelete _ => 2

/-- The object an item locks: a slice ID, a GID, or the staged route bank. -/
def itemLock : Item → Nat × Nat
  | .slice b => (0, (sdId b).toNat)
  | .route _ => (1, 0)
  | .group b _ => (2, (gGid (descOf b)).toNat)
  | .groupDelete g => (2, g.toNat)

/-- A group item concerns a slice's own group: the descriptor's OWNER, and that of the context the GID has (R389). -/
def itemOwned (s : State) (id : BitVec 16) : Item → Bool
  | .group b _ => gOwner (descOf b) = id && (match findGroup s (gGid (descOf b)) with
    | some g => gOwner g.2.desc = id
    | none => true)
  | .groupDelete gid => (match findGroup s gid with
    | some g => gOwner g.2.desc = id
    | none => true)
  | _ => true

/-- The slice an item must be of: on a slice channel, the channel's. -/
def itemDenied (s : State) (channel : Nat) (i : Item) : Bool := channel ≠ 64 && !itemOwned s (boundSlice s channel) i

/-- Read the rank map of a group item. -/
def freshItem (s : State) : Item → Item
  | .group b _ => .group b (if b.length = 64 && gFieldsOk (descOf b) then readMap s (descOf b) else none)
  | i => i

/-- One item's check. -/
def itemCheck (s : State) : Item → BitVec 16
  | .slice b => sliceCheck s b
  | .route b => routeCheck s b
  | .group b m => groupCheck s b m
  | .groupDelete gid => if (findGroup s gid).isSome then stOk else stBadParam

/-- One item's application. -/
def itemApply (s : State) : Item → State
  | .slice b => sliceApply s b
  | .route b => routeApply s b
  | .group b m => groupApply s b (m.getD [])
  | .groupDelete gid => match findGroup s gid with
    | some g => deleteGroup s g.1
    | none => s

/-- What checking the items of a transaction in staging order finds: the first failure, or the state with every item applied; and the items with their maps. -/
structure CheckRun where
  failed : Option (Nat × BitVec 16) := none
  after : State
  items : List Item := []

/-- Each item is checked against the state as the earlier ones change it (R386); `fresh` reads the rank maps anew. -/
def checkItems (fresh : Bool) (channel : Nat) : Nat → State → List Item → CheckRun
  | _, s, [] => { after := s }
  | n, s, i :: rest =>
    let i := if fresh then freshItem s i else i
    let st := if itemDenied s channel i then stDenied else itemCheck s i
    if st ≠ stOk then { failed := some (n, st), after := s }
    else
      let r := checkItems fresh channel (n + 1) (itemApply s i) rest
      { r with items := i :: r.items }

/-- A refused expulsion is counted and recorded (R497, R499). -/
def noteRefused (s : State) (items : List Item) (f : Nat × BitVec 16) : State :=
  match items[f.1]? with
  | some (.route b) =>
    if f.2 = stDenied then
      record { s with fleet := { s.fleet with refusedExp := s.fleet.refusedExp + (softExpelled s (parseBank b)).length } } { source := srcRoute, event := evExpulsion, status := stDenied }
    else s
  | _ => s

end Sys2Proof.Machine
end

