-- ==== Sys2Proof/Machine/Txn.lean ====
section
/-! DEFINITION. Configuration transactions and the commands that stage items in them (R385 to R389). -/

namespace Sys2Proof.Machine

/-! ## Finding a transaction -/

/-- An open transaction of a channel. -/
def findTxn (s : State) (h : Hdr) (handle : BitVec 16) : Option Txn :=
  s.ctl.txns.find? (fun t => t.handle = handle && t.channel = h.channel.toNat)

def modTxn (s : State) (handle : BitVec 16) (f : Txn → Txn) : State :=
  { s with ctl := { s.ctl with txns := s.ctl.txns.map (fun t => if t.handle = handle then f t else t) } }

def dropTxn (s : State) (handle : BitVec 16) : State := { s with ctl := { s.ctl with txns := s.ctl.txns.filter (fun t => t.handle ≠ handle) } }

/-- Run on the transaction a handle names: not open on the channel, BAD_PARAM; a commit of it pending, BUSY; else the command counts for its expiry. -/
def onTxn (s : State) (h : Hdr) (handle : BitVec 16) (f : State → Txn → State × Reply) : State × Reply :=
  match findTxn s h handle with
  | none => ends s stBadParam
  | some t =>
    let s := modTxn s handle (fun t => { t with lastCmd := s.tb.time })
    if t.commit.isSome then ends s stBusy else f s t

/-! ## TXN commands -/

def openTxn (s : State) (h : Hdr) : State × Reply :=
  if 8 ≤ s.ctl.txns.length then ends s stBusy
  else
    let f := takeFree s
    match Tab.pickFree (f.2.ctl.txns.map (fun t => (t.handle.toNat, t.channel))) 65536 f.1.toNat with
    | none => ends f.2 stBusy
    | some k =>
      let t : Txn := { handle := BitVec.ofNat 16 k, channel := h.channel.toNat, lastCmd := s.tb.time }
      ({ f.2 with ctl := { f.2.ctl with txns := f.2.ctl.txns ++ [t] } }, .done stOk (leBytes 2 k))

/-- TXN_OPEN; which handle is free to the module (log entry 3). -/
def execTxnOpen (h : Hdr) (s : State) : Result :=
  .next (command s h { code := 0x0010, chan := .either, reserve := 2 } (fun s => openTxn s h))

/-- The check applies nothing: what it leaves is the transaction's own mark, and the record of an expulsion it refuses. -/
def checkTxn (s : State) (h : Hdr) (handle : BitVec 16) : State × Reply :=
  onTxn s h handle (fun s t =>
    let r := checkItems true t.channel 0 s t.items
    match r.failed with
    | some f => (noteRefused (modTxn s handle (fun t => { t with checked := false })) t.items f, .done f.2 (leBytes 2 f.1))
    | none => ends (modTxn s handle (fun t => { t with checked := true, items := r.items })) stOk)

/-- TXN_CHECK (R386). -/
def execTxnCheck (h : Hdr) (handle : BitVec 16) (s : State) : Result :=
  .next (command s h { code := 0x0011, chan := .either, reserve := 2 } (fun s => checkTxn s h handle))

/-- The first switch-core cycle at or after T: 2 GHz, two units (R263). -/
def dueAt (t : Nat) : Nat := t + t % 2

def commitBytes (s : State) (now : Nat) (late : Bool) (index : Nat) : List Byte :=
  let epoch := match s.net.route.cur with
    | some b => b.epoch.toNat
    | none => 0
  leBytes 8 now ++ leBytes 1 epoch ++ leBytes 1 (bitN late) ++ leBytes 2 index ++ leBytes 4 0

/-- The commit's cycle: the checks again, then every item or none (R387). -/
def applyTxn (s : State) (t : Txn) (due : Nat) : State × BitVec 16 × List Byte :=
  let now := s.tb.time
  let late := decide (due < now)
  let r := checkItems false t.channel 0 s t.items
  match r.failed with
  | some f =>
    let s := noteRefused (modTxn s t.handle (fun t => { t with checked := false, commit := none })) t.items f
    (s, f.2, commitBytes s now late f.1)
  | none => (dropTxn r.after t.handle, stOk, commitBytes r.after now late 0)

def commitTxn (s : State) (h : Hdr) (handle : BitVec 16) (at_ : Nat) : State × Reply :=
  onTxn s h handle (fun s t =>
    if !t.checked then ends s stBadState
    else if s.tb.time + 60 * secU < at_ then ends s stBadParam
    else if dueAt at_ ≤ s.tb.time then
      let r := applyTxn s t (dueAt at_)
      (r.1, .done r.2.1 r.2.2)
    else (modTxn s handle (fun t => { t with commit := some (at_, h.tag) }), .pend))

/-- TXN_COMMIT_AT (R387). -/
def execTxnCommitAt (h : Hdr) (handle : BitVec 16) (t : Word) (s : State) : Result :=
  .next (command s h { code := 0x0012, chan := .either, reserve := 16 } (fun s => commitTxn s h handle t.toNat))

/-- TXN_COMMIT_FIRE (R387): the time of a pending commit has come. -/
def execTxnCommitFire (handle : BitVec 16) (s : State) : Result :=
  .next (match s.ctl.txns.find? (fun t => t.handle = handle) with
    | none => s
    | some t =>
      (match t.commit with
        | none => s
        | some c =>
          match reachTime s (dueAt c.1) with
          | none => s
          | some s =>
            let r := applyTxn s t (dueAt c.1)
            finishTag r.1 t.channel c.2 r.2.1 r.2.2))

/-- TXN_DISCARD (R388). -/
def execTxnDiscard (h : Hdr) (handle : BitVec 16) (s : State) : Result :=
  .next (command s h { code := 0x0013, chan := .either } (fun s => onTxn s h handle (fun s _ => ends (dropTxn s handle) stOk)))

/-- TXN_EXPIRE (R385): ten minutes without a command. -/
def execTxnExpire (handle : BitVec 16) (s : State) : Result :=
  .next (match s.ctl.txns.find? (fun t => t.handle = handle) with
    | none => s
    | some t => if t.commit.isNone && decide (t.lastCmd + 600 * secU ≤ s.tb.time) then dropTxn s handle else s)

/-! ## Staging (R385) -/

/-- Bytes staged in a transaction. -/
def stagedBytes (t : Txn) : Nat := (t.items.map itemSize).sum

/-- Another open transaction locks the object. -/
def lockedElsewhere (s : State) (handle : BitVec 16) (i : Item) : Bool :=
  s.ctl.txns.any (fun t => t.handle ≠ handle && t.items.any (fun j => itemLock j = itemLock i))

/-- Stage an item; a descriptor of another length than its structure's is BAD_PARAM. -/
def stage (s : State) (h : Hdr) (handle : BitVec 16) (lengthOk busy : Bool) (i : Item) : State × Reply :=
  onTxn s h handle (fun s t =>
    if !lengthOk then ends s stBadParam
    else if itemDenied s t.channel i then ends s stDenied
    else if busy || 64 ≤ t.items.length || decide (65536 < stagedBytes t + itemSize i) || lockedElsewhere s handle i then ends s stBusy
    else ends (modTxn s handle (fun t => { t with items := t.items ++ [i], checked := false })) stOk)

/-- SLICE_STAGE (R398). -/
def execSliceStage (h : Hdr) (handle : BitVec 16) (desc : List Byte) (s : State) : Result :=
  .next (command s h { code := 0x1000, chan := .adminSigned } (fun s => stage s h handle (desc.length = 192) false (.slice desc)))

/-- ROUTE_STAGE (R286, R290): BUSY until the old bank is retired. -/
def execRouteStage (h : Hdr) (handle : BitVec 16) (bank : List Byte) (s : State) : Result :=
  .next (command s h { code := 0x3001, chan := .admin } (fun s => stage s h handle (bank.length = 1216) s.net.route.oldLive (.route bank)))

/-- GROUP_STAGE (R215, R247). -/
def execGroupStage (h : Hdr) (handle : BitVec 16) (desc : List Byte) (s : State) : Result :=
  .next (command s h { code := 0x4000, chan := .either } (fun s => stage s h handle (desc.length = 64) false (.group desc none)))

/-- GROUP_DELETE_STAGE (R248). -/
def execGroupDeleteStage (h : Hdr) (handle : BitVec 16) (gid : BitVec 16) (s : State) : Result :=
  .next (command s h { code := 0x4001, chan := .either } (fun s => stage s h handle true false (.groupDelete gid)))

end Sys2Proof.Machine
end

