-- ==== Sys2Proof/Machine/Slices.lean ====
section
/-! DEFINITION. Slice commands and residency: launch, strand control, job stop and restart, switching, and usage snapshots (R67, R389, R402, R405 to R411, R434, R482 to R485). -/

namespace Sys2Proof.Machine

/-! ## A slice's strands, on its cores or in its images -/

def sliceStrand (s : State) (sl : Slice) (ix : Nat) : Strand :=
  if holdsClusters sl then Tab.getD s.compute.strands ix {} else Tab.getD sl.savedStrands ix {}

def modSliceStrand (s : State) (slot : Nat) (sl : Slice) (ix : Nat) (f : Strand → Strand) : State :=
  if holdsClusters sl then { s with compute := { s.compute with strands := Tab.upd s.compute.strands ix {} f } }
  else modSlice s slot (fun x => { x with savedStrands := Tab.upd x.savedStrands ix {} f })

/-- Index of a strand (R71). -/
def strandIx (d l c k : Nat) : Nat := 32 * (192 * d + 16 * l + c) + k

/-- Strands of the slice that are not at their reset state, with their indexes. -/
def strandsOfSlice (s : State) (sl : Slice) : Tab Strand :=
  if holdsClusters sl then s.compute.strands.filter (fun e => ixInClusters sl.clusters e.1) else sl.savedStrands

def countStrands (s : State) (sl : Slice) (st : StrandSt) : Nat := ((strandsOfSlice s sl).filter (fun e => e.2.st = st)).length

/-! ## SLICE_REPULP, SLICE_STATUS (R402, R410, R411) -/

def repulpCmd (s : State) (id : BitVec 16) : State × Reply :=
  match findSlice s id with
  | none => ends s stBadParam
  | some e => if e.2.st = .scrubbing then ends s stBadState else ends (repulp s e.1) stOk

/-- SLICE_REPULP. -/
def execSliceRepulp (h : Hdr) (slice : BitVec 16) (s : State) : Result :=
  .next (command s h { code := 0x1001, chan := .adminSigned } (fun s => repulpCmd s slice))

/-- STATE (R403). -/
def sliceStCode : SliceSt → Nat
  | .resident => 1
  | .out => 2
  | .switching => 3
  | .scrubbing => 4

/-- ATTR (R399). -/
def sliceAttr (sl : Slice) : Nat := leAt sl.desc 3 1

/-- The slice status record. -/
def statusBytes (s : State) (slot : Nat) (sl : Slice) : List Byte :=
  leBytes 2 sl.id.toNat ++ leBytes 1 slot ++ leBytes 1 (sliceStCode sl.st) ++ leBytes 1 (sliceAttr sl) ++ leBytes 1 sl.quantum ++
  leBytes 1 (if sl.session.isSome then 1 else 0) ++ leBytes 1 0 ++ leBytes 4 sl.job.toNat ++ leBytes 4 0 ++ leBytes 8 sl.changed ++ leBytes 8 sl.switches ++
  leBytes 2 (countStrands s sl .trapped) ++ leBytes 2 (countStrands s sl .frozen) ++ leBytes 2 (countStrands s sl .stopped) ++
  leBytes 2 (countStrands s sl .halted) ++ leBytes 24 0

/-- SLICE_STATUS. -/
def execSliceStatus (h : Hdr) (s : State) : Result :=
  .next (command s h { code := 0x1002, chan := .either, reserve := 64 } (fun s => forSlice s h (fun slot sl => (s, .done stOk (statusBytes s slot sl)))))

/-! ## SLICE_LAUNCH, STRAND_CTRL (R67, R485) -/

/-- Strand 0 of every core of the slice. -/
def launchIxs (sl : Slice) : List Nat := sl.clusters.flatMap (fun c => (List.range 16).map (fun k => strandIx c.1 c.2 k 0))

def launch (s : State) (slot : Nat) (sl : Slice) (offset arg : Word) : State × Reply :=
  if offset.toNat % 4 ≠ 0 then ends s stBadParam
  else if sl.clusters.any (fun c => physCluster s c.1 c.2 = 0xF) || (launchIxs sl).any (fun i => (sliceStrand s sl i).st ≠ .free) then ends s stBadState
  else ends ((launchIxs sl).foldl (fun s i => modSliceStrand s slot sl i (fun st => startStrand st.gen offset arg [] 0)) s) stOk

/-- SLICE_LAUNCH. -/
def execSliceLaunch (h : Hdr) (offset arg : Word) (s : State) : Result :=
  .next (command s h { code := 0x1003, chan := .slice } (fun s => forSlice s h (fun slot sl => launch s slot sl offset arg)))

/-- The slice holds the cluster, and the core and strand exist. -/
def strandNamed (sl : Slice) (die cluster core strand : Nat) : Bool :=
  sl.clusters.contains (die, cluster) && decide (core ≤ 15) && decide (strand ≤ 31)

/-- A strand leaves TRAPPED or FROZEN: FREE, or READY at an offset; EPC, CAUSE and TVAL stay. -/
def redirect (action : Nat) (offset : Word) (st : Strand) : Strand :=
  let st := { st with inHandler := false, wait := .nothing, deadline := none, loads := 0, posted := 0, tmmas := 0 }
  if action = 0 then { st with st := .free } else { st with st := .ready, pc := offset, gen := st.gen + 1 }

def strandCtrl (s : State) (slot : Nat) (sl : Slice) (die cluster core strand action : Nat) (offset : Word) : State × Reply :=
  let i := strandIx die cluster core strand
  if 1 < action || !strandNamed sl die cluster core strand || offset.toNat % 4 ≠ 0 then ends s stBadParam
  else if (sliceStrand s sl i).st ≠ .trapped && (sliceStrand s sl i).st ≠ .frozen then ends s stBadState
  else ends (modSliceStrand s slot sl i (redirect action offset)) stOk

/-- STRAND_CTRL. -/
def execStrandCtrl (h : Hdr) (die cluster core strand action : Nat) (offset : Word) (s : State) : Result :=
  .next (command s h { code := 0x1004, chan := .slice } (fun s => forSlice s h (fun slot sl => strandCtrl s slot sl die cluster core strand action offset)))

/-! ## JOB_STOP, JOB_RESTART (R482 to R484, R546) -/

/-- JOB_STOP. -/
def execJobStop (h : Hdr) (s : State) : Result :=
  .next (command s h { code := 0x1005, chan := .either } (fun s => forSlice s h (fun _ sl => ends (raiseStop s sl.job stAborted) stOk)))

/-- A STOPPED strand is FREE. -/
def restartStrand (st : Strand) : Strand := if st.st = .stopped then { st := .free, gen := st.gen } else st

def jobRestart (s : State) (slot : Nat) (sl : Slice) : State × Reply :=
  if countStrands s sl .stopped = 0 then ends s stBadState
  else
    let s :=
      if holdsClusters sl then
        { s with compute := { s.compute with strands := Tab.mapVals s.compute.strands (fun k st => if ixInClusters sl.clusters k then restartStrand st else st) } }
      else modSlice s slot (fun x => { x with savedStrands := Tab.mapVals x.savedStrands (fun _ st => restartStrand st) })
    ends (modSlice s slot (fun x => { x with lastRestart := s.tb.time })) stOk

/-- JOB_RESTART. -/
def execJobRestart (h : Hdr) (s : State) : Result :=
  .next (command s h { code := 0x1006, chan := .slice } (fun s => forSlice s h (fun slot sl => jobRestart s slot sl)))

/-! ## Switching (R133, R405 to R409) -/

def sharesCluster (a b : Slice) : Bool := a.clusters.any (fun c => b.clusters.contains c)

/-- A TIMESLICED slice RESIDENT for its quantum. -/
def quantumPast (s : State) (sl : Slice) : Bool := sl.timesliced && sl.st = .resident && decide (sl.since + sl.quantum * msU ≤ s.tb.time)

/-- A slice holds a cluster, other than one in a slot. -/
def holderOf (s : State) (c : Nat × Nat) : Option Slice := (sliceOn s c.1 c.2).map Prod.snd

/-- Every cluster of a waiting slice is ready, and free or about to be. -/
def canBeFreed (s : State) (sl : Slice) : Bool :=
  sl.clusters.all (fun c => clusterReady s c && (match holderOf s c with
    | none => true
    | some x => x.st = .switching || quantumPast s x))

/-- Every cluster of a waiting slice is ready and free. -/
def clustersFree (s : State) (sl : Slice) : Bool := sl.clusters.all (fun c => clusterReady s c && (holderOf s c).isNone)

/-- A slice waits for a cluster of this one. -/
def waiterFor (s : State) (sl : Slice) : Bool := s.ctl.slices.any (fun e => e.2.st = .out && sharesCluster e.2 sl && canBeFreed s e.2)

/-- A cluster of the slice is to be replaced by the spare of its die (R133). -/
def needsSpare (s : State) (sl : Slice) : Bool := sl.clusters.any (fun c => (getMap s c.1).failedCl.contains c.2 && (getMap s c.1).spare ≠ 0xF)

/-- The slice's gathers issue nothing more until they are restored. -/
def stopGathers (s : State) (sl : Slice) : State :=
  sl.clusters.foldl (fun s c => modCluster s c.1 c.2 (fun x => { x with slots := Tab.mapVals x.slots (fun _ g => { g with stopped := true }) })) s

/-- SLICE_SWITCH_OUT: a RESIDENT slice past its quantum with a waiter, or on a cluster the spare is to replace. -/
def execSliceSwitchOut (slot : Fin 64) (s : State) : Result :=
  .next (match getSlice s slot.val with
    | none => s
    | some sl =>
      if sl.st = .resident && ((quantumPast s sl && waiterFor s sl) || needsSpare s sl) then stopGathers (parkSlice (setSlice s slot.val .switching) sl) sl
      else s)

/-- A master of one of the slice's clusters. -/
def masterIn (sl : Slice) : Master → Bool
  | .strand p _ _ => sl.clusters.contains (p.die.val, p.cluster.val)
  | .gather d l _ _ => sl.clusters.contains (d, l)

/-- Nothing of the slice's clusters is outstanding (R107). -/
def drainedSlice (s : State) (sl : Slice) : Bool :=
  (List.range 4).all (fun d =>
    !(getEp s d).outst.any (fun o => masterIn sl o.master) && !(getEp s d).completed.any (fun c => masterIn sl c.master)) &&
  s.compute.cores.all (fun e => !coreInClusters sl.clusters e.1 || e.2.engines.all (fun g => g.2.queue.isEmpty && g.2.running.isNone))

/-- SWITCH_OUT_DRAINED: the images are written and the slice is OUT. -/
def execSwitchOutDrained (slot : Fin 64) (s : State) : Result :=
  .next (match getSlice s slot.val with
    | none => s
    | some sl =>
      if sl.st = .switching && drainedSlice s sl then
        pumpMem (modSlice (setSlice (saveSlice s slot.val sl) slot.val .out) slot.val
          (fun x => { x with switches := x.switches + 1, usage := { x.usage with switches := x.usage.switches + 1 } }))
      else s)

/-- Another waiting slice comes before this one: OUT longer, ties to the lower slot. -/
def goesBefore (a b : Nat × Slice) : Bool := decide (a.2.changed < b.2.changed) || (a.2.changed = b.2.changed && decide (a.1 < b.1))

/-- SLICE_SWITCH_IN: a waiting slice whose clusters are all free, and for which no slice that shares one has waited longer (R405). -/
def execSliceSwitchIn (slot : Fin 64) (s : State) : Result :=
  .next (match getSlice s slot.val with
    | none => s
    | some sl =>
      if sl.st = .out && clustersFree s sl &&
          !s.ctl.slices.any (fun e => e.1 ≠ slot.val && e.2.st = .out && sharesCluster e.2 sl && canBeFreed s e.2 && goesBefore e (slot.val, sl)) then
        enterResident s slot.val
      else s)

/-! ## USAGE_SNAPSHOT (R434) -/

/-- A minute of fabric time. -/
def minuteU : Nat := 60 * secU

/-- The snapshot of this minute is not taken yet. -/
def snapDue (now : Nat) (sl : Slice) : Bool :=
  match sl.snapshots.head? with
  | none => true
  | some u => decide (u.time / minuteU < now / minuteU)

/-- Take a slice's snapshot; the last 60 are held, newest first. -/
def takeSnapshot (s : State) (slot : Nat) : State :=
  let now := s.tb.time
  let s := sumUsage s slot
  modSlice s slot (fun x =>
    if x.st ≠ .scrubbing && snapDue now x then { x with snapshots := ({ x.usage with time := now / minuteU * minuteU } :: x.snapshots).take 60 } else x)

/-- USAGE_SNAPSHOT: fabric time has just passed a minute; one tick adds at most 129 units. -/
def execUsageSnapshot (s : State) : Result :=
  .next (if s.tb.time % minuteU < 129 then (s.ctl.slices.map Prod.fst).foldl takeSnapshot s else s)

end Sys2Proof.Machine
end

