-- ==== Sys2Proof/Machine/HostMem.lean ====
section
/-! DEFINITION. MEM_WRITE, MEM_READ and COUNTER_ADD (R389 to R391). -/

namespace Sys2Proof.Machine

/-- MEM_WRITE. -/
def execMemWrite (h : Hdr) (addr : Word) (data : List Byte) (s : State) : Result :=
  .next (command s h { code := 0x2000, chan := .slice } (fun s => forSlice s h (fun _ sl => memCmd s h sl (.write addr data))))

/-- MEM_READ. -/
def execMemRead (h : Hdr) (addr : Word) (len : Nat) (s : State) : Result :=
  .next (command s h { code := 0x2001, chan := .slice, reserve := min len partBytes } (fun s => forSlice s h (fun _ sl => memCmd s h sl (.read addr len))))

/-- COUNTER_ADD: the old value is the reply. -/
def execCounterAdd (h : Hdr) (die counter : Nat) (value : Word) (s : State) : Result :=
  .next (command s h { code := 0x2002, chan := .slice, reserve := 8 } (fun s => forSlice s h (fun _ sl => memCmd s h sl (.add die counter value))))

end Sys2Proof.Machine
end

