-- ==== Sys2Proof/Machine/Objects.lean ====
section
/-! DEFINITION. Commands on rings, deckles, mould key slots and groups (R174 to R178, R188 to R190, R212, R243, R244, R389, R396, R432, R433). -/

namespace Sys2Proof.Machine

/-- A command on a slice channel names an object of another slice; on the admin channel every object may be named. -/
def notMine (s : State) (h : Hdr) (owner : BitVec 16) : Bool := !isAdmin h && decide (owner ≠ boundSlice s h.channel.toNat)

/-! ## Rings (R188 to R190, R212) -/

/-- The numbers are in range, the lines aligned, and the slice owns every line named. -/
def ringParamsOk (s : State) (id : BitVec 16) (ring die log2n weight : Nat) (base pi ci : Word) : Bool :=
  decide (ring ≤ 4095) && decide (die ≤ 3) && decide (4 ≤ log2n) && decide (log2n ≤ 16) && decide (1 ≤ weight) && decide (weight ≤ 15) &&
  base.toNat % 64 = 0 && pi.toNat % 64 = 0 && ci.toNat % 64 = 0 &&
  ownsHbm s die base.toNat (64 * 2 ^ log2n) id && ownsHbm s die pi.toNat 64 id && ownsHbm s die ci.toNat 64 id

def ringDefine (s : State) (sl : Slice) (ring die log2n weight : Nat) (base pi ci : Word) : State × Reply :=
  if !ringParamsOk s sl.id ring die log2n weight base pi ci then ends s stBadParam
  else if (getRing s ring).st ≠ .undefined then ends s stBadState
  else if sl.maxRings ≤ (ringsOf s sl.id).length || 4096 ≤ (getEp s die).monitors.length then ends s stBusy
  else
    let r : Ring := { st := .active, owner := sl.id, die := die, base := base.toNat, log2n := log2n, piLine := pi.toNat, ciLine := ci.toNat, weight := weight, pendingBit := true }
    ends (writeCi (monitorAdd (modRing s ring (fun _ => r)) die (pi.toNat / 64) (.ring ring)) ring) stOk

/-- RING_DEFINE; the engine then reads PI once, as after a wake. -/
def execRingDefine (h : Hdr) (ring die log2n weight : Nat) (base pi ci : Word) (s : State) : Result :=
  .next (command s h { code := 0x2010, chan := .either } (fun s => forSlice s h (fun _ sl => ringDefine s sl ring die log2n weight base pi ci)))

/-- The ring is defined, and on a slice channel the channel's slice owns it. -/
def ringNamed (s : State) (h : Hdr) (ring : Nat) : Bool :=
  decide (ring ≤ 4095) && decide ((getRing s ring).st ≠ .undefined) && !notMine s h (getRing s ring).owner

/-- Retire with ABORTED, unread, the posted descriptors that have not started. -/
def retireUnread (r : Nat) : Nat → State → State
  | 0, s => s
  | n + 1, s =>
    let x := getRing s r
    if x.next < x.lastPi then
      let s := retireDesc s r { index := x.next, desc := 0, read := false } stAborted
      retireUnread r n (modRing s r (fun y => { y with next := y.next + 1 }))
    else s

/-- Ring reset: everything from CI to the PI last read retires, and the ring is ACTIVE; CAUSE stays (R194). -/
def resetRing (s : State) (ring : Nat) : State × Reply :=
  let x := getRing s ring
  let n := x.lastPi - x.ci
  let s := retireAborted s ring
  let s := retireUnread ring (x.lastPi - x.next) s
  let s := modRing s ring (fun y => { y with st := .active, ci := y.lastPi, next := y.lastPi, prog := [] })
  (s, .done (if n = 0 then stAlreadyDone else stOk) (leBytes 4 n))

/-- RING_RESET. -/
def execRingReset (h : Hdr) (ring : Nat) (s : State) : Result :=
  .next (command s h { code := 0x2011, chan := .either, reserve := 4 } (fun s => if ringNamed s h ring then resetRing s ring else ends s stBadParam))

/-- RING_DELETE. -/
def execRingDelete (h : Hdr) (ring : Nat) (s : State) : Result :=
  .next (command s h { code := 0x2012, chan := .either } (fun s => if ringNamed s h ring then ends (deleteRing s ring) stOk else ends s stBadParam))

/-! ## Deckles (R174, R175, R178) -/

/-- The whole range lies in one mapped range of R162. -/
def deckleRange (off n : Nat) : Bool :=
  match targetOf off n with
  | .hbm | .window _ => true
  | _ => (decide (0x30000000000 ≤ off) && decide (off + n ≤ 0x30000020000)) || (decide (0x30001000000 ≤ off) && decide (off + n ≤ 0x30001200000))

def deckleParamsOk (endpoint log2size : Nat) (base : Word) : Bool :=
  decide (endpoint ≤ 3) && decide (16 ≤ log2size) && decide (log2size ≤ 40) && decide (base.toNat < 2 ^ 42) && base.toNat % 2 ^ log2size = 0 &&
  deckleRange base.toNat (2 ^ log2size)

def validDeckles (s : State) : Tab Deckle := s.fab.deckles.filter (fun e => e.2.valid)

def defineDeckle (s : State) (sl : Slice) (endpoint log2size : Nat) (perm : BitVec 4) (same : Bool) (base : Word) : State × Reply :=
  if !deckleParamsOk endpoint log2size base then ends s stBadParam
  else if sl.maxDeckles ≤ ((validDeckles s).filter (fun e => e.2.owner = sl.id)).length then ends s stBusy
  else
    let f := takeFree s
    let g := takeFree f.2
    match Tab.pickFree (validDeckles s) 262144 f.1.toNat with
    | none => ends g.2 stBusy
    | some j =>
      let secret : BitVec 46 := g.1.extractLsb' 0 46
      let e : Deckle := { secret := secret, owner := sl.id, log2size := log2size, base := BitVec.ofNat 26 (base.toNat / 65536), endpoint := endpoint, sameSlice := same, perm := perm, valid := true, changed := s.tb.time }
      (modDeckle g.2 j (fun _ => e), .done stOk (leBytes 8 (secret.toNat * 2 ^ 18 + j)))

/-- DECKLE_DEFINE: index and secret are the trust core's own (log entry 3). -/
def execDeckleDefine (h : Hdr) (endpoint log2size : Nat) (perm : BitVec 4) (sameSlice : Bool) (base : Word) (s : State) : Result :=
  .next (command s h { code := 0x2020, chan := .session, reserve := 8 } (fun s => forSlice s h (fun _ sl => defineDeckle s sl endpoint log2size perm sameSlice base)))

/-- A VALID deckle that the command may name. -/
def deckleNamed (s : State) (h : Hdr) (index : Nat) : Bool :=
  decide (index ≤ 262143) && (getDeckle s index).valid && !notMine s h (getDeckle s index).owner

/-- DECKLE_REVOKE. -/
def execDeckleRevoke (h : Hdr) (index : Nat) (s : State) : Result :=
  .next (command s h { code := 0x2021, chan := .either } (fun s => if deckleNamed s h index then ends (dropDeckle s index) stOk else ends s stBadParam))

/-- The 32 bytes of an entry, SECRET zero. -/
def deckleBytes (d : Deckle) : List Byte :=
  leBytes 32 (putN d.changed 0 64 + putN d.vfirst.toNat 72 20 + putN d.vcount 96 28 + putN (bitN d.valid) 140 2 + putN d.flags.toNat 148 4 +
    putN d.perm.toNat 152 4 + putN (bitN d.sameSlice) 156 1 + putN d.endpoint 157 3 + putN d.base.toNat 160 26 + putN d.log2size 186 6 + putN d.owner.toNat 192 16)

/-- DECKLE_READ: on the admin channel every entry, on a slice channel its own VALID ones. -/
def execDeckleRead (h : Hdr) (index : Nat) (s : State) : Result :=
  .next (command s h { code := 0x2022, chan := .either, reserve := 32 } (fun s =>
    if 262143 < index || (!isAdmin h && !deckleNamed s h index) then ends s stBadParam else (s, .done stOk (deckleBytes (getDeckle s index)))))

/-! ## Mould key slots (R432, R433) -/

def loadMouldKey (s : State) (sl : Slice) (mkh : Nat) (keyId : BitVec 32) (unwrapOk : Bool) : State × Reply :=
  match Tab.find s.fab.mouldKeys mkh with
  | some k => if k.slice = sl.id then ends s stBadState else ends s stDenied
  | none =>
    if s.ctl.trust.testUnlocked then ends s stBadState
    else if !unwrapOk then ends s stCheckFailed
    else
      let f := takeBytes s 32
      ends { f.2 with fab := { f.2.fab with mouldKeys := Tab.set f.2.fab.mouldKeys mkh { slice := sl.id, keyId := keyId, key := f.1 } } } stOk

/-- MOULD_KEY_LOAD. -/
def execMouldKeyLoad (h : Hdr) (mkh : Nat) (keyId : BitVec 32) (unwrapOk : Bool) (s : State) : Result :=
  .next (command s h { code := 0x2030, chan := .session } (fun s => forSlice s h (fun _ sl => loadMouldKey s sl (mkh % 256) keyId unwrapOk)))

/-- A copy in progress here decrypts with the slot's key. -/
def mouldInUse (s : State) (mkh : Nat) : Bool := s.fab.copies.any (fun c => c.op = 3 && c.mkh = mkh && c.ended.isNone)

def dropMouldKey (s : State) (sl : Slice) (mkh : Nat) : State × Reply :=
  match Tab.find s.fab.mouldKeys mkh with
  | none => ends s stBadState
  | some k =>
    if k.slice ≠ sl.id then ends s stBadState
    else if mouldInUse s mkh then ends s stBusy
    else ends { s with fab := { s.fab with mouldKeys := Tab.erase s.fab.mouldKeys mkh } } stOk

/-- MOULD_KEY_DROP. -/
def execMouldKeyDrop (h : Hdr) (mkh : Nat) (s : State) : Result :=
  .next (command s h { code := 0x2031, chan := .either } (fun s => forSlice s h (fun _ sl => dropMouldKey s sl (mkh % 256))))

/-! ## Groups (R222, R243, R244) -/

/-- Run on the group a GID names: unknown, BAD_PARAM; another slice's on a slice channel, DENIED. -/
def onGroup (s : State) (h : Hdr) (gid : BitVec 16) (f : Nat → Group → State × Reply) : State × Reply :=
  match findGroup s gid with
  | none => ends s stBadParam
  | some e => if notMine s h (gOwner e.2.desc) then ends s stDenied else f e.1 e.2

/-- The abort is raised and the command waits for its outcome; past the decision point, or for an operation retired, ALREADY_DONE. -/
def abortGroup (s : State) (h : Hdr) (c : Nat) (g : Group) (opseq : BitVec 32) : State × Reply :=
  let late := if opseq.toNat < g.opseq then stAlreadyDone else stBadState
  match g.op with
  | none => ends s late
  | some o =>
    if o.opseq ≠ opseq then ends s late
    else if o.decided || o.t.isSome then ends s stAlreadyDone
    else
      let s := modGroup s c (fun g => { g with aborters := g.aborters ++ [(h.channel.toNat, h.tag)] })
      (raiseAbort s c stAborted false, .pend)

/-- GROUP_ABORT. -/
def execGroupAbort (h : Hdr) (gid : BitVec 16) (opseq : BitVec 32) (s : State) : Result :=
  .next (command s h { code := 0x4002, chan := .either } (fun s => onGroup s h gid (fun c g => abortGroup s h c g opseq)))

/-- GROUP_STATUS: CL_GROUP_STAT, then the OPSEQ of the next entry. -/
def execGroupStatus (h : Hdr) (gid : BitVec 16) (s : State) : Result :=
  .next (command s h { code := 0x4003, chan := .either, reserve := 12 } (fun s =>
    onGroup s h gid (fun c g => (s, .done stOk (leBytes 8 (regGroup s c).toNat ++ leBytes 4 g.opseq)))))

end Sys2Proof.Machine
end

