-- ==== Sys2Proof/Machine/Trust.lean ====
section
/-! DEFINITION. The trust core's commands and batches: evidence, certificates, sessions, usage records and the operator key (R417 to R430, R434, R435). -/

namespace Sys2Proof.Machine

/-! ## Evidence (R428, R429) -/

/-- Digest of a record the module runs with (log entry 6). -/
def recordDigest (kind : Nat) (body : List Byte) (entries : List Word) : List Byte := (List.range 48).map (Config.recordDigest kind body entries)

/-- A measured image's digest; the one the module left Tentikor with has a digest of its own. -/
def measuredOr (kind : Nat) (d : List Byte) : List Byte := if d.isEmpty then recordDigest kind [] [] else d

/-- STATE_FLAGS of the evidence of a slice, or of the module. -/
def evidenceFlags (s : State) (e : Option (Nat × Slice)) : Nat :=
  stateFlags s + (match e with
    | some x => putN (bitN x.2.session.isSome) 18 1 + putN (bitN x.2.debugOk) 17 1 + putN (bitN x.2.exact) 16 1
    | none => 0)

/-- Bytes 304 to 355: the staged image, and the running slot. -/
def stagedEvidence (s : State) : List Byte :=
  (match s.ctl.fw.staged with
    | some x => if x.verified then sha384 x.bytes ++ leBytes 1 x.kind ++ leBytes 1 x.slot else leBytes 50 0
    | none => leBytes 50 0) ++ leBytes 1 s.ctl.fw.active ++ leBytes 1 0

/-- Bytes 416 to 767. -/
def sliceEvidence (e : Option (Nat × Slice)) : List Byte :=
  match e with
  | none => leBytes 352 0
  | some x =>
    padTo 192 x.2.desc ++ leBytes 1 (sliceStCode x.2.st) ++ leBytes 7 0 ++
    (match x.2.session with
      | some ses => padTo 48 ses.th ++ padTo 97 ses.releaseKey
      | none => leBytes 145 0) ++ leBytes 7 0

/-- The 768 bytes of an evidence body. -/
def evidenceBody (s : State) (e : Option (Nat × Slice)) (nonce : List Byte) : List Byte :=
  let r := s.ctl.records
  leBytes 2 1 ++ leBytes 2 0 ++ leBytes 4 (evidenceFlags s e) ++ leBytes 8 s.tb.time ++ padTo 32 nonce ++ leBytes 8 s.ctl.trust.identity.toNat ++
  leBytes 4 (regIdent s).toNat ++ leBytes 4 (fdNode s).toNat ++ recordDigest 0 [] [] ++ measuredOr 2 s.ctl.fw.patchDigest ++
  measuredOr 1 (slotOf s.ctl.fw s.ctl.fw.active).measured ++ recordDigest 3 (Tab.getD r.bodies 3 []) [] ++ recordDigest 4 (Tab.getD r.bodies 4 []) r.repair ++
  stagedEvidence s ++ leBytes 4 0 ++ sha384 s.ctl.trust.opKey ++ leBytes 8 s.ctl.trust.ocount ++ sliceEvidence e

/-- A record joins the open batch, and its command stays pending (R427). -/
def queueRecord (s : State) (h : Hdr) (body : List Byte) : State × Reply :=
  (modTrust s (fun t => { t with batch := t.batch ++ [{ channel := h.channel.toNat, tag := h.tag, body := body }] }), .pend)

def attestCmd (s : State) (h : Hdr) (nonce : List Byte) : State × Reply :=
  if s.ctl.trust.noIdentity then ends s stCheckFailed
  else if isAdmin h && h.slice = 0xFFFF then queueRecord s h (evidenceBody s none nonce)
  else forSlice s h (fun k sl => queueRecord s h (evidenceBody s (some (k, sl)) nonce))

/-- ATTEST. -/
def execAttest (h : Hdr) (nonce : List Byte) (s : State) : Result :=
  .next (command s h { code := 0x5000, chan := .either, reserve := 16384, recovery := true } (fun s => attestCmd s h nonce))

/-! ## Usage records (R434, R435) -/

/-- One 64-byte block. -/
def usageBlock (u : Usage) : List Byte :=
  leBytes 8 u.time ++ leBytes 8 u.clusterUs ++ leBytes 8 u.granuleMs ++ leBytes 8 u.fabricBytes ++ leBytes 8 u.hostBytes ++ leBytes 8 u.collOps ++
  leBytes 8 u.switches ++ leBytes 8 0

/-- The body of a usage record. -/
def usageBody (s : State) (nonce : List Byte) (slot : Nat) (id : BitVec 16) (job : BitVec 32) (desc : List Byte) (u : Usage) (snaps : List Usage) : List Byte :=
  leBytes 2 1 ++ leBytes 2 snaps.length ++ leBytes 4 0 ++ leBytes 8 s.tb.time ++ padTo 32 nonce ++ leBytes 8 s.ctl.trust.identity.toNat ++
  leBytes 2 id.toNat ++ leBytes 1 slot ++ leBytes 1 0 ++ leBytes 4 job.toNat ++ sha384 desc ++ leBytes 16 0 ++
  usageBlock u ++ snaps.flatMap usageBlock

/-- The record kept of a repulped slice. -/
def keptUsage (s : State) (id : BitVec 16) : Option (Nat × OldUsage) := s.ctl.oldUsage.find? (fun e => e.2.id = id)

def usageCmd (s : State) (h : Hdr) (nonce : List Byte) : State × Reply :=
  match (if isAdmin h then keptUsage s h.slice else none) with
  | some e => queueRecord s h (usageBody s nonce e.1 e.2.id e.2.job e.2.desc e.2.usage e.2.snapshots)
  | none => forSlice s h (fun k sl =>
      let u := summed s sl
      queueRecord (modSlice s k (fun x => { x with usage := u })) h (usageBody s nonce k sl.id sl.job sl.desc u sl.snapshots))

/-- USAGE_READ. -/
def execUsageRead (h : Hdr) (nonce : List Byte) (s : State) : Result :=
  .next (command s h { code := 0x5004, chan := .either, reserve := 16384 } (fun s => usageCmd s h nonce))

/-! ## Batches (R417, R427) -/

/-- Hash of a leaf, and of a pair. -/
def leafHash (body : List Byte) : List Byte := sha384 (0 :: body)
def pairHash (a b : List Byte) : List Byte := sha384 (1 :: (a ++ b))

/-- The next level of the tree. -/
def treeUp : List (List Byte) → List (List Byte)
  | a :: b :: t => pairHash a b :: treeUp t
  | l => l

/-- Levels of the tree above its leaves. -/
def treeDepth (n : Nat) : Nat := ((List.range 13).find? (fun k => decide (n ≤ 2 ^ k))).getD 12

/-- Leaves filled up to a power of two with the last one. -/
def fullLeaves (ls : List (List Byte)) : List (List Byte) := ls ++ List.replicate (2 ^ treeDepth ls.length - ls.length) (ls.getLast?.getD [])

/-- Sibling hashes of a leaf, its own level first. -/
def siblings : Nat → List (List Byte) → Nat → List (List Byte)
  | 0, _, _ => []
  | d + 1, ls, i => ls.getD (if i % 2 = 0 then i + 1 else i - 1) [] :: siblings d (treeUp ls) (i / 2)

/-- A signed envelope; the signatures are the trust core's own (log entry 3). -/
def envelope (body : List Byte) (index now : Nat) (path : List (List Byte)) (sig hss : List Byte) : List Byte :=
  leBytes 4 body.length ++ leBytes 1 path.length ++ leBytes 3 0 ++ leBytes 4 index ++ leBytes 4 0 ++ body ++ path.flatten ++ leBytes 8 now ++ sig ++
  leBytes 4 hss.length ++ hss

/-- Each record of a batch reaches its terminal status. -/
def answerBatch (s : State) (recs : List EvidenceReq) (sig hss : List Byte) : State :=
  let leaves := fullLeaves (recs.map (fun r => leafHash r.body))
  let d := treeDepth recs.length
  (recs.zip (List.range recs.length)).foldl (fun s r =>
    finishTag s r.1.channel r.1.tag stOk (envelope r.1.body r.2 s.tb.time (siblings d leaves r.2) sig hss)) s

/-- The key that signs: AK-L, renewed where a new one waits; in recovery IDK-L. -/
def spendKey (t : Trust) : Trust :=
  if t.recovery then { t with idLeft := t.idLeft - 1 }
  else if t.aklReady then { t with attLeft := 0x100000 - 1, aklReady := false, akl := some t.aklNext }
  else { t with attLeft := t.attLeft - 1 }

/-- A batch may be signed: one waits, and 100 ms have gone by since the last. -/
def batchDue (s : State) : Bool :=
  let t := s.ctl.trust
  !t.batch.isEmpty && (match t.lastBatch with
    | some x => decide (x + 100 * msU ≤ s.tb.time)
    | none => true) && !s.rst.busy.any (fun b => b.1 = 6)

/-- EVIDENCE_BATCH. -/
def execEvidenceBatch (s : State) : Result :=
  .next (
    if !batchDue s then s
    else
      let recs := s.ctl.trust.batch.take 4096
      let s := modTrust s (fun t => { spendKey t with batch := t.batch.drop 4096, lastBatch := some s.tb.time })
      let sig := takeBytes s 96
      let hss := takeBytes sig.2 5716
      answerBatch hss.2 recs sig.1 hss.1)

/-- AKL_RENEW (R417): a new AK-L is made and certified, and the next batch takes it. -/
def execAklRenew (s : State) : Result :=
  .next (
    if s.ctl.trust.attLeft < 65536 && !s.ctl.trust.aklReady && !s.ctl.trust.recovery && decide (5 ≤ s.rst.step) then
      let f := takeFree (signIdentity s)
      modTrust f.2 (fun t => { t with aklReady := true, aklNext := f.1.toNat })
    else s)

/-! ## CERT_READ (R418) -/

/-- Which making of a certificate an index names: those of manufacture are made once, AK-E and FC at start-up, AK-L at its renewal (R416). -/
def certMade (t : Trust) (index : Nat) : Nat :=
  if index = 4 then t.ake else if index = 5 then t.akl.getD 0 else if index = 6 then t.fc.made else 0

/-- The bytes of a certificate, at most 16 KiB: the same at every read of one making. -/
def certBytes (index made : Nat) : List Byte := (List.range (1 + Config.certLen index made % 16384)).map (Config.certByte index made)

def certRead (s : State) (index : Nat) : State × Reply :=
  if 6 < index then ends s stBadParam else (s, .done stOk (certBytes index (certMade s.ctl.trust index)))

/-- CERT_READ: the certificates' bytes are not the model's (log entry 5). -/
def execCertRead (h : Hdr) (index : Nat) (s : State) : Result :=
  .next (command s h { code := 0x5001, chan := .either, reserve := 16384, recovery := decide (index ≤ 3) } (fun s => certRead s index))

/-! ## Sessions (R422 to R425) -/

/-- Something another placed on the slice could still run or read. -/
def sliceInUse (s : State) (sl : Slice) : Bool :=
  (strandsOfSlice s sl).any (fun e => e.2.st ≠ .free) || !(ringsOf s sl.id).isEmpty || !(groupsOf s sl.id).isEmpty ||
  s.fab.deckles.any (fun e => e.2.valid && e.2.owner = sl.id) || s.fab.mouldKeys.any (fun e => e.2.slice = sl.id)

/-- SHA-384 of the tenant's key in the payload is the descriptor's TENANT. -/
def tenantOk (sl : Slice) (payload : List Byte) : Bool := sha384 ((payload.drop 136).take 97) = (sl.desc.drop 104).take 48

/-- The first condition of R422 that holds. -/
def sessionRefused (s : State) (sl : Slice) (payload : List Byte) (pointOk sigVerdict : Bool) : Option (BitVec 16) :=
  if payload.length ≠ 336 then some stBadParam
  else if sl.session.isSome || sliceInUse s sl || s.ctl.trust.testUnlocked then some stBadState
  else if !tenantOk sl payload then some stDenied
  else if !pointOk then some stBadParam
  else if !sigVerdict then some stCheckFailed
  else none

/-- The info string of a session's keys (R423). -/
def sessionInfo (s : State) (slice : BitVec 16) (th : List Byte) : List Byte :=
  infoSlice ++ leBytes 2 slice.toNat ++ leBytes 8 s.ctl.trust.identity.toNat ++ th

/-- The reply goes unsealed, and the session is open: its keys and CONFIRM come from the shared secret, which is a free value (R423; log entry 5). -/
def openSession (s : State) (h : Hdr) (slot : Nat) (payload : List Byte) : State :=
  let r := takeBytes s 129
  let secret := takeBytes r.2 48
  let rel := takeBytes secret.2 97
  let head := r.1 ++ leBytes 15 0
  let th := sha384 (payload ++ head)
  let b := hkdf384 secret.1 (payload.take 32 ++ r.1.take 32) (sessionInfo rel.2 h.slice th) 120
  let s := finishTag rel.2 h.channel.toNat h.tag stOk (head ++ hmac384 (b.drop 72) th)
  modSlice s slot (fun x => { x with session := some {
    th := th, releaseKey := rel.1, keyIn := b.take 32, keyOut := (b.drop 32).take 32, saltIn := (b.drop 64).take 4, saltOut := (b.drop 68).take 4 } })

/-- SESSION_OPEN. -/
def execSessionOpen (h : Hdr) (payload : List Byte) (pointOk sigVerdict : Bool) (s : State) : Result :=
  .next (command s h { code := 0x5002, chan := .unsealed, reserve := 4096 } (fun s => forSlice s h (fun slot sl =>
    match sessionRefused s sl payload pointOk sigVerdict with
    | some st => ends s st
    | none => (openSession s h slot payload, .pend))))

/-- Another command of the channel is pending. -/
def otherPending (s : State) (h : Hdr) : Bool := (getChan s h.channel.toNat).tags.any (fun t => t.status.isNone && t.tag ≠ h.tag)

/-- SESSION_CLOSE: the status is the session's last sealed one. -/
def execSessionClose (h : Hdr) (s : State) : Result :=
  .next (command s h { code := 0x5003, chan := .slice } (fun s => forSlice s h (fun slot sl =>
    if sl.session.isNone then ends s stBadState
    else if otherPending s h then ends s stBusy
    else (endSession (finishTag s h.channel.toNat h.tag stOk []) slot, .pend))))

/-! ## OPKEY_ROTATE (R420, R421) -/

def rotateKey (s : State) (newKey : List Byte) (proofOk : Bool) : State × Reply :=
  if newKey.length ≠ 97 then ends s stBadParam
  else if !proofOk then ends s stCheckFailed
  else ends (modTrust s (fun t => { t with opKey := newKey })) stOk

/-- OPKEY_ROTATE. -/
def execOpkeyRotate (h : Hdr) (newKey : List Byte) (proofOk : Bool) (s : State) : Result :=
  .next (command s h { code := 0x5005, chan := .adminSigned } (fun s => rotateKey s newKey proofOk))

end Sys2Proof.Machine
end

