-- ==== Sys2Proof/Machine/Debug.lean ====
section
/-! DEFINITION. Breakpoints, halts and the halt dump, and the freezing of event rings (R426, R509 to R513). -/

namespace Sys2Proof.Machine

/-- Run for the slice concerned; debug commands of the admin channel need DEBUG_OK (R426, R510). -/
def forDebug (s : State) (h : Hdr) (f : Nat → Slice → State × Reply) : State × Reply :=
  forSlice s h (fun slot sl => if debugDenied h sl then ends s stDenied else f slot sl)

/-! ## Comparators (R510) -/

/-- A core of a slice, on the die or in its image. -/
def sliceCore (s : State) (sl : Slice) (ix : Nat) : Core :=
  if holdsClusters sl then Tab.getD s.compute.cores ix {} else Tab.getD sl.savedCores ix {}

def modSliceCore (s : State) (slot : Nat) (sl : Slice) (ix : Nat) (f : Core → Core) : State :=
  if holdsClusters sl then { s with compute := { s.compute with cores := Tab.upd s.compute.cores ix {} f } }
  else modSlice s slot (fun x => { x with savedCores := Tab.upd x.savedCores ix {} f })

/-- Indexes of the slice's cores. -/
def coresOfSlice (sl : Slice) : List Nat := sl.clusters.flatMap (fun c => (List.range 16).map (fun k => 192 * c.1 + 16 * c.2 + k))

/-- Breakpoint numbers in use, on the cores and in the images. -/
def bkptsInUse (s : State) : Tab Unit :=
  let live := s.compute.cores.flatMap (fun c => c.2.bkpts.map (fun b => (b.number, ())))
  let away := s.ctl.slices.flatMap (fun e => e.2.savedCores.flatMap (fun c => c.2.bkpts.map (fun b => (b.number, ()))))
  live ++ away

/-- The cores a set-up names; none is BAD_PARAM. -/
def bkptCores (sl : Slice) (b : BkptCfg) : List Nat :=
  if b.core = 0xFF then coresOfSlice sl
  else if sl.clusters.contains (b.die, b.cluster) && b.core ≤ 15 then [192 * b.die + 16 * b.cluster + b.core] else []

def setBkpt (s : State) (slot : Nat) (sl : Slice) (b : BkptCfg) : State × Reply :=
  let cs := bkptCores sl b
  if cs.isEmpty || (b.kind ≠ 1 && b.kind ≠ 2) || 1 < b.scope then ends s stBadParam
  else if cs.any (fun c => 4 ≤ (sliceCore s sl c).bkpts.length) then ends s stBusy
  else
    let f := takeFree s
    match Tab.pickFree (bkptsInUse f.2) 3072 f.1.toNat with
    | none => ends f.2 stBusy
    | some n =>
      let k : Bkpt := { number := n, slice := sl.id, kind := b.kind, mask32 := b.mask32, access := b.access &&& 0xF, scope := b.scope, value := b.value, mask := b.mask }
      (cs.foldl (fun s c => modSliceCore s slot sl c (fun x => { x with bkpts := x.bkpts ++ [k] })) f.2, .done stOk (leBytes 2 n))

/-- BKPT_SET; which number is free to the module (log entry 3). -/
def execBkptSet (h : Hdr) (b : BkptCfg) (s : State) : Result :=
  .next (command s h { code := 0x7000, chan := .either, reserve := 2 } (fun s => forDebug s h (fun slot sl => setBkpt s slot sl b)))

def clearBkpt (s : State) (slot : Nat) (sl : Slice) (n : Nat) : State × Reply :=
  let cs := (coresOfSlice sl).filter (fun c => (sliceCore s sl c).bkpts.any (fun b => b.number = n))
  if cs.isEmpty then ends s stBadParam
  else ends (cs.foldl (fun s c => modSliceCore s slot sl c (fun x => { x with bkpts := x.bkpts.filter (fun b => b.number ≠ n) })) s) stOk

/-- BKPT_CLEAR. -/
def execBkptClear (h : Hdr) (number : Nat) (s : State) : Result :=
  .next (command s h { code := 0x7001, chan := .either } (fun s => forDebug s h (fun slot sl => clearBkpt s slot sl number)))

/-! ## Halts (R511 to R513) -/

/-- A READY or WAIT strand is HALTED; a timeout that has been running stands still. -/
def haltStrand (now : Nat) (st : Strand) : Strand :=
  { st with
    st := .halted, haltWait := decide (st.st = .wait), haltBk := none, drained := false, haltScope := false
    remain := match st.deadline with
      | some d => some (d - now)
      | none => st.remain
    deadline := none }

def haltCmd (s : State) (slot : Nat) (sl : Slice) (die cluster core strand : Nat) : State × Reply :=
  let i := strandIx die cluster core strand
  let st := (sliceStrand s sl i).st
  if !strandNamed sl die cluster core strand then ends s stBadParam
  else if st ≠ .ready && st ≠ .wait then ends s stBadState
  else
    let s := modSliceCore s slot sl (i / 32) (fun k => { k with
      barriers := (k.barriers.map (fun b => (b.1, { b.2 with arrived := b.2.arrived.filter (fun x => x ≠ strand) }))).filter (fun b => !b.2.arrived.isEmpty) })
    let sl := (getSlice s slot).getD sl
    ends (modSliceStrand s slot sl i (haltStrand s.tb.time)) stOk

/-- STRAND_HALT. -/
def execStrandHalt (h : Hdr) (die cluster core strand : Nat) (s : State) : Result :=
  .next (command s h { code := 0x7002, chan := .either } (fun s => forDebug s h (fun slot sl => haltCmd s slot sl die cluster core strand)))

/-- A HALTED strand goes on: to WAIT with the timeout that remained, or READY, past its own breakpoint. -/
def resumeStrand (now : Nat) (live : Bool) (st : Strand) : Strand :=
  { st with
    st := if st.haltWait then .wait else .ready
    deadline := if st.haltWait && live then st.remain.map (fun r => now + r) else none
    remain := if st.haltWait && !live then st.remain else none
    skipBkpt := st.haltBk.toList ++ st.skipBkpt, haltBk := none, haltWait := false, drained := true }

def resumeCmd (s : State) (slot : Nat) (sl : Slice) (die cluster core strand : Nat) : State × Reply :=
  let i := strandIx die cluster core strand
  if !strandNamed sl die cluster core strand then ends s stBadParam
  else if (sliceStrand s sl i).st ≠ .halted then ends s stBadState
  else ends (modSliceStrand s slot sl i (resumeStrand s.tb.time (sl.st = .resident))) stOk

/-- STRAND_RESUME. -/
def execStrandResume (h : Hdr) (die cluster core strand : Nat) (s : State) : Result :=
  .next (command s h { code := 0x7003, chan := .either } (fun s => forDebug s h (fun slot sl => resumeCmd s slot sl die cluster core strand)))

/-- The 2,048 bytes of a halt dump. -/
def dumpBytes (s : State) (p : Pos) : List Byte :=
  let st := getStrand s p
  (List.range 64).flatMap (fun r => leBytes 8 (rd st (BitVec.ofNat 6 r)).toNat) ++
  (List.range 16).flatMap (fun t => leBytes 32 (rdTd st (BitVec.ofNat 4 t)).toNat) ++
  leBytes 8 st.pc.toNat ++ leBytes 1 st.preds.toNat ++ leBytes 7 0 ++
  ([strandIdWord s p, st.epc, causeWord st, st.tval, outstandingWord st, st.flags.setWidth 64, cycleWord (getCore s (coreOf p)), st.tvec,
    BitVec.ofNat 64 (st.remain.getD 0 / usU)]).flatMap (fun w => leBytes 8 w.toNat) ++ leBytes 936 0

/-- Die offset of a strand's halt dump (R503). -/
def dumpOff (sl : Slice) (p : Pos) : Nat :=
  debugArea sl p.die + 0x10000 + 2048 * (512 * (clustersOn sl p.die).findIdx (fun k => k = p.cluster.val) + 32 * p.core.val + p.strand.val)

/-- What a halted strand had outstanding has completed; under SCOPE 0x01 its core's engines are empty too. -/
def haltEmpty (s : State) (p : Pos) : Bool :=
  let st := getStrand s p
  st.loads = 0 && st.tmmas = 0 && (busyRegs s p).isEmpty &&
  (!st.haltScope || (getCore s (coreOf p)).engines.all (fun g => g.2.queue.isEmpty && g.2.running.isNone))

/-- HALT_DRAINED: the dump is written, where the slice owns the area, and HALT is posted. -/
def execHaltDrained (p : Pos) (s : State) : Result :=
  let st := getStrand s p
  .next (match strandSlice s p with
    | none => s
    | some e =>
      if st.st ≠ .halted || st.drained || !haltEmpty s p then s
      else
        let s := touchCycle s (coreOf p)
        let off := dumpOff e.2 p
        let s := if ownsHbm s p.die off 2048 e.2.id then monitorWake (memStore s (memKey p.die off) (dumpBytes s p)) p.die off 2048 else s
        let s := modStrand s p (fun st => { st with drained := true })
        postEvent s e.1 { kind := 0x06, status := 0, strand := strandIdLow p, location := st.epc, aux := 1, cycle := some (cycleWord (getCore s (coreOf p))) })

/-! ## EVENT_FREEZE (R509) -/

/-- One action on a ring's frozen bit and armed kind. -/
def freezeAct (action kind : Nat) (frozen : Bool) (armed : Option Nat) : Bool × Option Nat :=
  if action = 0 then (false, armed) else if action = 1 then (true, armed) else (frozen, some kind)

def freezeSlice (s : State) (slot action kind : Nat) : State × Reply :=
  if 2 < action || (action = 2 && (kind = 0 || 9 < kind)) then ends s stBadParam
  else ends (modSlice s slot (fun x =>
    let r := freezeAct action kind x.evRing.frozen x.evRing.armed
    { x with evRing := { x.evRing with frozen := r.1, armed := r.2 } })) stOk

def freezeUnit (s : State) (h : Hdr) (source : BitVec 16) (action kind : Nat) : State × Reply :=
  if !isAdmin h then ends s stDenied
  else if !sourceDefined source.toNat || 2 < action || (action = 2 && (kind = 0 || 0x1D < kind)) then ends s stBadParam
  else ends { s with fleet := { s.fleet with rings := Tab.upd s.fleet.rings source.toNat {} (fun x =>
    let r := freezeAct action kind x.frozen x.armed
    { x with frozen := r.1, armed := r.2 }) } } stOk

/-- EVENT_FREEZE. -/
def execEventFreeze (h : Hdr) (source : BitVec 16) (action kind : Nat) (s : State) : Result :=
  .next (command s h { code := 0x7006, chan := .either } (fun s =>
    if source = 0xFFFF then forDebug s h (fun slot _ => freezeSlice s slot action kind) else freezeUnit s h source action kind))

end Sys2Proof.Machine
end

