-- ==== Sys2Proof/Machine/Firmware.lean ====
section
/-! DEFINITION. Firmware images, their staging and activation, and the test-port unlock (R470, R473 to R477). -/

namespace Sys2Proof.Machine

/-! ## Images (R473, R474) -/

/-- Largest BODYLEN of a kind. -/
def maxBody (kind : Nat) : Nat :=
  match kind with
  | 1 => 16 * 2 ^ 20 - 5944
  | 2 => 4 * 2 ^ 20
  | 3 | 4 => 2 ^ 20
  | 5 => 64 * 2 ^ 10
  | _ => 64

/-- Bytes of the HSS signature of an image. -/
def hssBytes (kind : Nat) : Nat := if kind = 5 then 0 else 5716

/-- Largest image of a kind: header, body, both signatures. -/
def maxImage (kind : Nat) : Nat := 128 + maxBody kind + 96 + 4 + hssBytes kind

def imgKind (b : List Byte) : Nat := leAt b 2 1
def imgBodyLen (b : List Byte) : Nat := leAt b 4 4
def imgSvn (b : List Byte) : Nat := leAt b 8 4
def imgLevel (b : List Byte) : Nat := leAt b 12 1
def imgTarget (b : List Byte) : Nat := leAt b 16 8
def imgBody (b : List Byte) : List Byte := (b.drop 128).take (imgBodyLen b)

/-- Bytes [i, i + n) are zero. -/
def zerosAt (b : List Byte) (i n : Nat) : Bool := ((b.drop i).take n).all (fun x => x = 0)

/-- The header's fixed fields, its KIND, and lengths that agree with the image's. -/
def headerOk (kind : Nat) (b : List Byte) : Bool :=
  leAt b 0 2 = 1 && imgKind b = kind && zerosAt b 3 1 && zerosAt b 13 3 && zerosAt b 24 40 && zerosAt b 112 16 &&
  decide (imgBodyLen b ≤ maxBody kind) && leAt b (128 + imgBodyLen b + 96) 4 = hssBytes kind &&
  decide (b.length = 128 + imgBodyLen b + 96 + 4 + hssBytes kind)

/-- The image names this module, or, for a kind that goes to any, no module. -/
def targetOk (kind : Nat) (b : List Byte) (identity : Word) : Bool :=
  imgTarget b = identity.toNat || (imgTarget b = 0 && (kind = 1 || kind = 2 || kind = 5))

/-- The module's feature level. -/
def featureLevel : Nat := 1

def minSvnOf (s : State) (kind : Nat) : Nat := Tab.getD s.ctl.records.minSvn kind 0

/-- The checks of FW_STAGE_END; the signatures' verdict is the environment's. -/
def imageOk (s : State) (kind : Nat) (b : List Byte) (signaturesOk : Bool) : Bool :=
  headerOk kind b && targetOk kind b s.ctl.trust.identity && decide (imgLevel b ≤ featureLevel) && sha384 (imgBody b) = (b.drop 64).take 48 &&
  signaturesOk && decide (minSvnOf s kind ≤ imgSvn b)

/-! ## Staging (R475) -/

def isRecovery (s : State) : Bool := s.ctl.trust.recovery

/-- The steward slot names the one that runs. -/
def runningSlot (s : State) (kind slot : Nat) : Bool := kind = 1 && slot = s.ctl.fw.active && !isRecovery s

/-- FW_STAGE_BEGIN names a reserved kind, a slot its kind has not, or a length above the limit. -/
def beginParam (slot kind length : Nat) : Bool :=
  kind = 0 || decide (6 < kind) || (if kind = 1 then decide (1 < slot) else slot ≠ 0) || decide (maxImage kind < length)

/-- What FW_STATUS shows of where an image is staged. -/
def modStagedSlot (s : State) (kind slot : Nat) (f : FwSlot → FwSlot) : State :=
  modFw s (fun fw => if kind = 1 then setSlot fw slot (f (slotOf fw slot)) else { fw with other := f fw.other })

/-- A place of FW_STATUS becomes EMPTY. -/
def emptySlot (s : State) (kind slot : Nat) : State := modStagedSlot s kind slot (fun _ => { changed := s.tb.time })

/-- An image already staged is discarded. -/
def discardStaged (s : State) : State :=
  match s.ctl.fw.staged with
  | some x => modFw (emptySlot s x.kind x.slot) (fun f => { f with staged := none })
  | none => s

/-- A staging opens; a steward slot holds nothing that could run from here until it is verified. -/
def beginStaging (s : State) (slot kind length : Nat) : State :=
  modFw (emptySlot (discardStaged s) kind slot) (fun f => { f with staged := some { kind := kind, slot := slot, length := length } })

def stageBegin (s : State) (slot kind length : Nat) : State × Reply :=
  if runningSlot s kind slot then ends s stBadState
  else if s.ctl.fw.staged.any (fun x => x.opened) then ends s stBusy
  else if beginParam slot kind length then ends s stBadParam
  else ends (beginStaging s slot kind length) stOk

/-- FW_STAGE_BEGIN. -/
def execFwStageBegin (h : Hdr) (slot kind length : Nat) (s : State) : Result :=
  .next (command s h { code := 0x8000, chan := .admin, recovery := true } (fun s => stageBegin s slot kind length))

/-- Bytes up to n; those nothing has written are free values (log entry 3). -/
def stretch (s : State) (b : List Byte) (n : Nat) : List Byte × State :=
  if n ≤ b.length then (b, s)
  else
    let f := takeBytes s (n - b.length)
    (b ++ f.1, f.2)

/-- Write data into a staged image. -/
def stageWrite (s : State) (x : Staged) (offset : Nat) (data : List Byte) : State :=
  let b := stretch s x.bytes (offset + data.length)
  modFw b.2 (fun f => { f with staged := some { x with bytes := b.1.take offset ++ data ++ b.1.drop (offset + data.length) } })

def stageData (s : State) (offset : Nat) (data : List Byte) : State × Reply :=
  match s.ctl.fw.staged.filter (fun x => x.opened) with
  | none => ends s stBadState
  | some x =>
    if x.length < offset + data.length then ends s stBadParam
    else ends (stageWrite s x offset data) stOk

/-- FW_STAGE_DATA. -/
def execFwStageData (h : Hdr) (offset : Nat) (data : List Byte) (s : State) : Result :=
  .next (command s h { code := 0x8001, chan := .admin, recovery := true } (fun s => stageData s offset data))

/-- The report of FW_STAGE_END. -/
def stageReport (x : Staged) (b : List Byte) (st : BitVec 16) : List Byte :=
  leBytes 1 x.kind ++ leBytes 1 x.slot ++ leBytes 2 st.toNat ++ leBytes 4 (imgSvn b) ++ sha384 (imgBody b)

/-- What FW_STATUS shows of an image whose verification ended: STAGED or FAILED. -/
def shownSlot (s : State) (b : List Byte) (st : Nat) : FwSlot :=
  { st := st, svn := imgSvn b, digest := sha384 (imgBody b), measured := sha384 b, changed := s.tb.time }

/-- The FIRMWARE source of a kind: the trust core, the steward, or MRAM for a record (R486). -/
def firmwareUnit (kind : Nat) : Nat := if kind = 2 then 0 else if kind = 1 then 1 else 2

/-- An image is verified and staged. -/
def stageVerified (s : State) (x : Staged) (b : List Byte) : State :=
  let s := modFw s (fun f => { f with staged := some { x with bytes := b, opened := false, verified := true, svn := imgSvn b } })
  noteFirmware (modStagedSlot s x.kind x.slot (fun _ => shownSlot s b 3)) (firmwareUnit x.kind) 0

/-- An image failed its checks, and its staging is over. -/
def stageFailed (s : State) (x : Staged) (b : List Byte) : State :=
  modFw (modStagedSlot s x.kind x.slot (fun _ => shownSlot s b 4)) (fun f => { f with staged := none })

def stageEnd (s : State) (signaturesOk : Bool) : State × Reply :=
  match s.ctl.fw.staged.filter (fun x => x.opened) with
  | none => ends s stBadState
  | some x =>
    let r := stretch s x.bytes x.length
    if imageOk r.2 x.kind r.1 signaturesOk then (stageVerified r.2 x r.1, .done stOk (stageReport x r.1 stOk))
    else (stageFailed r.2 x r.1, .done stCheckFailed (stageReport x r.1 stCheckFailed))

/-- FW_STAGE_END. -/
def execFwStageEnd (h : Hdr) (signaturesOk : Bool) (s : State) : Result :=
  .next (command s h { code := 0x8002, chan := .admin, reserve := 1024, recovery := true } (fun s => stageEnd s signaturesOk))

/-! ## Activation (R470, R476) -/

def setMinSvn (s : State) (kind svn : Nat) : State :=
  { s with ctl := { s.ctl with records := { s.ctl.records with minSvn := Tab.set s.ctl.records.minSvn kind svn } } }

/-- The slot becomes active; the one that ran is kept to go back to. -/
def switchSlot (s : State) (slot : Nat) : State :=
  let was := s.ctl.fw.active
  let s := slotTo (if was = slot then s else slotTo s was 1) slot 2
  modFw s (fun f => { f with active := slot, previous := was, activatedAt := some s.tb.time })

/-- What activation writes, by kind. -/
def writeImage (s : State) (x : Staged) : State :=
  if x.kind = 1 then switchSlot s x.slot
  else
    let s := modFw s (fun f => { f with other := {} })
    if x.kind = 2 then setMinSvn (modFw s (fun f => { f with patchDigest := sha384 x.bytes })) 2 x.svn
    else { s with ctl := { s.ctl with records := { s.ctl.records with written := Tab.set s.ctl.records.written x.kind (imgBody x.bytes) } } }

/-- The resets activation starts: in recovery the module's; otherwise the steward's or the trust core's. -/
def activationReset (s : State) (kind : Nat) : State :=
  if isRecovery s then restart s 0
  else if kind = 1 then resetSteward s 0
  else if kind = 2 then resetTrust s
  else s

/-- The image takes its place, once the command has ended OK. -/
def activate (s : State) (x : Staged) : State :=
  let s := modFw (writeImage s x) (fun f => { f with staged := none })
  activationReset (noteFirmware s (firmwareUnit x.kind) 0) x.kind

def activateCmd (s : State) (h : Hdr) (slot : Nat) : State × Reply :=
  match s.ctl.fw.staged.filter (fun x => x.verified && x.slot = slot) with
  | none => ends s stBadState
  | some x =>
    if x.kind = 6 then ends s stBadParam
    else (activate (finishTag s h.channel.toNat h.tag stOk []) x, .pend)

/-- FW_ACTIVATE. -/
def execFwActivate (h : Hdr) (slot : Nat) (s : State) : Result :=
  .next (command s h { code := 0x8003, chan := .adminSigned, recovery := true } (fun s => activateCmd s h slot))

/-- One 64-byte block of FW_STATUS. -/
def slotBytes (x : FwSlot) : List Byte :=
  leBytes 1 x.st ++ leBytes 1 (bitN x.confirmed) ++ leBytes 2 0 ++ leBytes 4 x.svn ++ padTo 48 x.digest ++ leBytes 8 x.changed

/-- FW_STATUS. -/
def execFwStatus (h : Hdr) (s : State) : Result :=
  .next (command s h { code := 0x8004, chan := .admin, reserve := 1024, recovery := true } (fun s =>
    (s, .done stOk (slotBytes s.ctl.fw.slotA ++ slotBytes s.ctl.fw.slotB ++ slotBytes s.ctl.fw.other))))

/-! ## TEST_UNLOCK (R477) -/

/-- The staged UNLOCK image that the digest names, for this module, with a new SERIAL. -/
def unlockImage (s : State) (digest : List Byte) : Option Staged :=
  s.ctl.fw.staged.filter (fun x => x.verified && x.kind = 6 && sha384 (imgBody x.bytes) = digest && imgTarget x.bytes = s.ctl.trust.identity.toNat &&
    decide (s.ctl.trust.unlockSerial < leAt (imgBody x.bytes) 8 8))

/-- One CONTINUATION record: 32 further bytes of the record before it. -/
def continuation (s : State) (more : List Byte) : State :=
  let free := takeFree s
  let f := free.2.fleet
  let r := { mkRecord free.2 { source := srcKind 0xC 0, event := evContinuation } f.nextSeq 0 false free.1 with more := more }
  { free.2 with fleet := { f with accepted := f.accepted ++ [r], nextSeq := f.nextSeq + 1 } }

/-- The signed unlock record: one signature of IDK-E and one of IDK-L, whose bytes are the trust core's (log entry 3). -/
def unlockRecord (s : State) : State :=
  let s := modTrust (record s { source := srcKind 0xC 0, event := evTestUnlock }) (fun t => { t with idLeft := t.idLeft - 1 })
  (List.range 182).foldl (fun s _ =>
    let b := takeBytes s 32
    continuation b.2 b.1) s

/-- The unlock, in the order of R477. -/
def unlock (s : State) (x : Staged) : State :=
  let body := imgBody x.bytes
  let s := modTrust (unlockRecord s) (fun t => { t with unlockSerial := leAt body 8 8 })
  let s := { s with fab := { s.fab with mouldKeys := [] } }
  let s := modTrust s (fun t => { t with testUnlocked := true, scopeBits := BitVec.ofNat 16 (leAt body 0 2) })
  modFw s (fun f => { f with staged := none, other := {} })

def unlockCmd (s : State) (digest : List Byte) : State × Reply :=
  if !s.ctl.slices.isEmpty || s.ctl.trust.testUnlocked then ends s stBadState
  else match unlockImage s digest with
    | none => ends s stCheckFailed
    | some x => ends (unlock s x) stOk

/-- TEST_UNLOCK. -/
def execTestUnlock (h : Hdr) (imageDigest : List Byte) (s : State) : Result :=
  .next (command s h { code := 0x7009, chan := .adminSigned } (fun s => unlockCmd s imageDigest))

end Sys2Proof.Machine
end

