-- ==== Sys2Proof/Machine/Observe.lean ====
section
/-! DEFINITION. Samplers and watermark units (R504 to R508, R514 to R520). -/

namespace Sys2Proof.Machine

/-! ## Counter sets (R504) -/

/-- A slice's group contexts in ascending GID. -/
def insertGid (s : State) (c : Nat) : List Nat → List Nat
  | [] => [c]
  | k :: t => if (getGroup s c).gid.toNat ≤ (getGroup s k).gid.toNat then c :: k :: t else k :: insertGid s c t

def groupsByGid (s : State) (id : BitVec 16) : List Nat := (groupsOf s id).foldr (insertGid s) []

/-- Instances of a set; none for a reserved set. -/
def setInstances (s : State) (sl : Slice) (set : Nat) : Option Nat :=
  if set = 0 then some (16 * sl.clusters.length)
  else if set = 1 then some sl.clusters.length
  else if set = 2 then some 4
  else if set = 3 then some (groupsOf s sl.id).length
  else if set = 8 then some 65
  else if set = 9 then some 16
  else if set = 10 then some 90
  else none

/-- Counters of a set that the model counts; the others are cycles, bytes and commands it does not see, and read as free values (log entry 12). -/
def setCounted (set : Nat) : List Nat :=
  if set = 0 then [0, 3, 5, 6]
  else if set = 1 then [3, 4, 5, 6]
  else if set = 2 then List.range 8
  else if set = 3 then List.range 7
  else if set = 8 then List.range 7
  else if set = 9 then [2, 4, 7]
  else List.range 8

/-- A cluster of a slice, on the die or in its image. -/
def sliceCluster (s : State) (sl : Slice) (ix : Nat) : Cluster :=
  if holdsClusters sl then Tab.getD s.compute.clusters ix {} else Tab.getD sl.savedClusters ix {}

/-- One counter of one instance. -/
def setCounter (s : State) (sl : Slice) (set inst k : Nat) : Word :=
  if set = 0 then Tab.getD (sliceCore s sl ((coresOfSlice sl).getD inst 0)).ctrs k 0
  else if set = 1 then
    let c := sl.clusters.getD inst (0, 0)
    Tab.getD (sliceCluster s sl (clIx c.1 c.2)).ctrs k 0
  else if set = 2 then Tab.getD sl.flowCtrs (8 * inst + k) 0
  else if set = 3 then Tab.getD (getGroup s ((groupsByGid s sl.id).getD inst 0)).counters k 0
  else if set = 8 then Tab.getD s.net.portCtrs (8 * inst + k) 0
  else if set = 9 then Tab.getD s.net.stackCtrs (8 * inst + k) 0
  else Tab.getD s.net.switchCtrs (8 * inst + k) 0

/-- The 64-byte line of an instance. -/
def setLine (s : State) (sl : Slice) (set inst : Nat) : List Byte :=
  (List.range 8).flatMap (fun k =>
    leBytes 8 (if (setCounted set).contains k then setCounter s sl set inst k else Config.freeWord (s.freeCtr + 8 * inst + k)).toNat)

/-! ## SAMPLER_CFG (R505, R506) -/

def getSampler (s : State) (k : Nat) : Sampler := Tab.getD s.ctl.samplers k {}

def modSampler (s : State) (k : Nat) (f : Sampler → Sampler) : State :=
  { s with ctl := { s.ctl with samplers := Tab.upd s.ctl.samplers k {} f } }

/-- Bytes of one sample, and samples the buffer holds. -/
def sampleBytes (c : SamplerCfg) : Nat := 64 * (1 + c.count)
def sampleSlots (c : SamplerCfg) : Nat := (2 ^ c.log2size - 64) / sampleBytes c

def isSliceSet (set : Nat) : Bool := decide (set ≤ 3)

/-- Fields in range; the instances of a slice set are those the slice has. -/
def samplerFieldsOk (s : State) (sl : Slice) (c : SamplerCfg) : Bool :=
  decide (1 ≤ c.count) && decide (c.count ≤ 1024) && decide (c.mode ≤ 1) && decide (c.trigger ≤ 3) &&
  (c.trigger < 2 || (1 ≤ c.event && c.event ≤ 9)) && decide (10 ≤ c.period) && decide (c.period ≤ 1000000) && c.buf % 0x10000 = 0 &&
  decide (c.die ≤ 3) && decide (16 ≤ c.log2size) && decide (c.log2size ≤ 30) && decide (1 ≤ sampleSlots c) &&
  (match setInstances s sl c.set with
    | some n => decide (c.first + c.count ≤ n)
    | none => false)

/-- The channel rules, and the buffer in the slice's granules. -/
def samplerAllowed (s : State) (h : Hdr) (sl : Slice) (c : SamplerCfg) : Bool :=
  (if isAdmin h then !isSliceSet c.set || sl.debugOk else isSliceSet c.set) && ownsHbm s c.die c.buf (2 ^ c.log2size) sl.id

/-- Events of a KIND that a slice has had. -/
def kindCount (sl : Slice) (kind : Nat) : Nat := Tab.getD sl.evRing.kinds kind 0

def enableSampler (s : State) (sl : Slice) (c : SamplerCfg) : State :=
  modSampler s c.sampler (fun _ =>
    { owner := sl.id, cfg := some c, st := if c.trigger = 1 || c.trigger = 2 then 1 else 2, lastAt := s.tb.time, base := kindCount sl c.event })

def samplerCfg (s : State) (h : Hdr) (sl : Slice) (c : SamplerCfg) : State × Reply :=
  let x := getSampler s c.sampler
  if 255 < c.sampler || 1 < c.action then ends s stBadParam
  else if x.st ≠ 0 && (x.owner ≠ sl.id || c.action = 1) then ends s stBusy
  else if c.action = 0 then ends (modSampler s c.sampler (fun x => { x with st := 0 })) stOk
  else if (setInstances s sl c.set).isSome && !samplerAllowed s h sl c then ends s stDenied
  else if !samplerFieldsOk s sl c then ends s stBadParam
  else ends (enableSampler s sl c) stOk

/-- SAMPLER_CFG. -/
def execSamplerCfg (h : Hdr) (c : SamplerCfg) (s : State) : Result :=
  .next (command s h { code := 0x7004, chan := .either } (fun s => forSlice s h (fun _ sl => samplerCfg s h sl c)))

/-! ## SAMPLER_TRIGGER (R505) -/

/-- The sampler's event has come since it was enabled. -/
def eventCame (s : State) (x : Sampler) (c : SamplerCfg) : Bool :=
  match findSlice s x.owner with
  | some e => decide (x.base < kindCount e.2 c.event)
  | none => false

/-- SAMPLER_TRIGGER: start at T, start on the event, or go on for POST samples after it. -/
def execSamplerTrigger (unit : Fin 256) (event : Nat) (s : State) : Result :=
  let x := getSampler s unit.val
  .next (match x.cfg with
    | none => s
    | some c =>
      if c.trigger = 1 then
        if x.st = 1 && decide (c.t ≤ s.tb.time) then modSampler s unit.val (fun x => { x with st := 2, trig := true, lastAt := s.tb.time }) else s
      else if event ≠ c.event || !eventCame s x c then s
      else if c.trigger = 2 && x.st = 1 then modSampler s unit.val (fun x => { x with st := 2, trig := true, lastAt := s.tb.time })
      else if c.trigger = 3 && x.st = 2 then
        modSampler s unit.val (fun x => { x with st := if c.post = 0 then 0 else 3, trig := true, postLeft := c.post })
      else s)

/-! ## SAMPLER_SAMPLE (R506) -/

/-- Units of fabric time of a period. -/
def periodU (c : SamplerCfg) : Nat := c.period * usU

/-- A period boundary has just passed that is later than the last sample; one tick adds at most 129 units. -/
def sampleDue (now : Nat) (x : Sampler) (c : SamplerCfg) : Bool := decide (now % periodU c < 129) && decide (x.lastAt / periodU c < now / periodU c)

/-- The sample header line. -/
def sampleHead (s : State) (sl : Slice) (x : Sampler) (c : SamplerCfg) : List Byte :=
  leBytes 8 (s.tb.time / periodU c * periodU c) ++ leBytes 8 x.k ++ leBytes 1 c.set ++ leBytes 1 (bitN (!holdsClusters sl) + 2 * bitN x.trig) ++
  leBytes 2 c.count ++ leBytes 2 c.first ++ leBytes 42 0

/-- The buffer's first line. -/
def bufferHead (s : State) (x : Sampler) (c : SamplerCfg) : List Byte :=
  leBytes 8 x.k ++ leBytes 8 (s.tb.time / periodU c * periodU c) ++ leBytes 4 x.missed ++ leBytes 4 x.dropped ++ leBytes 1 x.st ++ leBytes 39 0

def samplerEvent (s : State) (unit : Nat) (x : Sampler) (status : BitVec 16) : State :=
  postEventId s x.owner { kind := 0x09, status := status, aux := BitVec.ofNat 64 unit }

/-- The sampler after a sample is written: one more, and in STOP mode FULL when the buffer is. -/
def afterSample (now : Nat) (x : Sampler) (c : SamplerCfg) : Sampler :=
  let full := c.mode = 1 && decide (sampleSlots c ≤ x.k + 1)
  { x with
    k := x.k + 1, trig := false, lastAt := now, missed := satUp x.missed (now / periodU c - x.lastAt / periodU c - 1) 0xFFFF
    postLeft := x.postLeft - 1
    st := if full then 4 else if x.st = 3 && x.postLeft ≤ 1 then 0 else x.st }

def writeSample (s : State) (unit : Nat) (sl : Slice) (x : Sampler) (c : SamplerCfg) (writeStatus : BitVec 16) : State :=
  let off := c.buf + 64 + sampleBytes c * (x.k % sampleSlots c)
  let status := if ownsHbm s c.die c.buf (2 ^ c.log2size) sl.id then writeStatus else stViolation
  if status ≠ stOk then samplerEvent (modSampler s unit (fun x => { x with st := 5 })) unit x status
  else
    let lines := (List.range c.count).flatMap (fun i => setLine s sl c.set (c.first + i))
    let s := monitorWake (memStore { s with freeCtr := s.freeCtr + 8 * 1024 } (memKey c.die off) (sampleHead s sl x c ++ lines)) c.die off (sampleBytes c)
    let y := afterSample s.tb.time x c
    let s := monitorWake (memStore (modSampler s unit (fun _ => y)) (memKey c.die c.buf) (bufferHead s y c)) c.die c.buf 64
    if y.st = 4 then samplerEvent s unit y stOk else s

/-- SAMPLER_SAMPLE: a period boundary of a running sampler; a sample that finds the buffer full is dropped. -/
def execSamplerSample (unit : Fin 256) (writeStatus : BitVec 16) (s : State) : Result :=
  let x := getSampler s unit.val
  .next (match x.cfg, findSlice s x.owner with
    | some c, some e =>
      if !sampleDue s.tb.time x c then s
      else if x.st = 4 then modSampler s unit.val (fun x => { x with dropped := satUp x.dropped 1 0xFFFF, lastAt := s.tb.time })
      else if x.st = 2 || x.st = 3 then writeSample s unit.val e.2 x c writeStatus
      else s
    | _, _ => s)

/-! ## WATERMARK_CFG (R514) -/

def getWm (s : State) (k : Nat) : Watermark := Tab.getD s.ctl.watermarks k {}

def modWm (s : State) (k : Nat) (f : Watermark → Watermark) : State :=
  { s with ctl := { s.ctl with watermarks := Tab.upd s.ctl.watermarks k {} f } }

/-- The format is one the statistics read, or none at all. -/
def elemOk (e : Nat) : Bool := e = 8 || e = 9 || e = 10 || e = 12 || e = 15

/-- TAP and its place, ELEM and the sizes are in range. -/
def wmFieldsOk (s : State) (sl : Slice) (c : WatermarkCfg) : Bool :=
  (if c.tap = 1 then sl.clusters.contains (c.unit / 64, c.cluster) && decide (c.core ≤ 15) && inTile c.start c.length
    else c.tap = 2 && (findGroup s (BitVec.ofNat 16 c.gid)).isSome) &&
  elemOk c.elem && decide (c.closeCtr ≤ 16383) && decide (c.doneCtr ≤ 16383) && decide (c.log2slots ≤ 12)

/-- The slice owns what the unit reads and writes. -/
def wmAllowed (s : State) (sl : Slice) (c : WatermarkCfg) : Bool :=
  let d := c.unit / 64
  ownsHbm s d c.result (128 * 2 ^ c.log2slots) sl.id && (c.ref = 0 || ownsHbm s d c.ref (64 * 2 ^ c.log2slots) sl.id) &&
  ownsCounter s d c.closeCtr sl.id && ownsCounter s d c.doneCtr sl.id &&
  (c.tap ≠ 2 || (match findGroup s (BitVec.ofNat 16 c.gid) with
    | some e => gOwner e.2.desc = sl.id
    | none => false))

def watermarkCfg (s : State) (h : Hdr) (sl : Slice) (c : WatermarkCfg) : State × Reply :=
  let w := getWm s c.unit
  if 255 < c.unit || 1 < c.action then ends s stBadParam
  else if w.st ≠ 0 && (w.owner ≠ sl.id || c.action = 1) then ends s stBusy
  else if debugDenied h sl then ends s stDenied
  else if c.action = 0 then ends (modWm s c.unit (fun w => { w with st := 0, closed := [] })) stOk
  else if !wmFieldsOk s sl c then ends s stBadParam
  else if !wmAllowed s sl c then ends s stDenied
  else ends (modWm s c.unit (fun _ => { owner := sl.id, cfg := some c, st := 1 })) stOk

/-- WATERMARK_CFG. -/
def execWatermarkCfg (h : Hdr) (c : WatermarkCfg) (s : State) : Result :=
  .next (command s h { code := 0x7005, chan := .either } (fun s => forSlice s h (fun _ sl => watermarkCfg s h sl c)))

/-! ## WATERMARK_CLOSE (R515 to R518) -/

/-- The 128 bytes of a result; a bound of no element is a free value (log entry 3). -/
def wmResult (s : State) (step at_ : Nat) (a : WmAcc) (mismatch : Bool) : List Byte :=
  leBytes 48 a.dig ++ leBytes 8 step ++ leBytes 8 at_ ++ leBytes 8 a.count ++ leBytes 4 a.nans ++ leBytes 4 a.infs ++ leBytes 4 a.zeros ++
  leBytes 1 a.flags.toNat ++ leBytes 3 0 ++ leBytes 4 (a.mn.getD ((Config.freeWord s.freeCtr).setWidth 32)).toNat ++
  leBytes 4 (a.mx.getD ((Config.freeWord (s.freeCtr + 1)).setWidth 32)).toNat ++ leBytes 16 (a.sum % 2 ^ 128).toNat ++ leBytes 1 (bitN mismatch) ++ leBytes 15 0

/-- The unit fails: it is FAILED and posts the status. -/
def wmFails (s : State) (unit step : Nat) (w : Watermark) (status : BitVec 16) : State :=
  postEventId (modWm s unit (fun w => { w with st := 2, closed := [] })) w.owner
    { kind := 0x08, status := status, location := BitVec.ofNat 64 step, aux := BitVec.ofNat 64 unit }

/-- Where a divergence that a unit reports lies: its group and the operation last started, zero for a tile tap. -/
def wmPlace (s : State) (c : WatermarkCfg) : Word :=
  match (if c.tap = 2 then findGroup s (BitVec.ofNat 16 c.gid) else none) with
  | some e => BitVec.ofNat 64 (c.gid * 2 ^ 32 + (e.2.opseq - 1))
  | none => 0

/-- A mismatch is counted, posted and recorded as a divergence (R494, R518). -/
def wmMismatch (s : State) (unit step : Nat) (w : Watermark) (c : WatermarkCfg) : State :=
  let s := modWm s unit (fun w => { w with mismatches := satUp w.mismatches 1 0xFF })
  let s := postEventId s w.owner { kind := 0x08, status := stCheckFailed, location := BitVec.ofNat 64 step, aux := BitVec.ofNat 64 unit }
  diverge s w.owner (wmPlace s c)

/-- One closed step is compared and written, and DONE counted. -/
def closeStep (s : State) (unit : Nat) (w : Watermark) (c : WatermarkCfg) (x : Nat × Nat × WmAcc) (faultStatus : BitVec 16) : State :=
  let d := unit / 64
  let slot := x.1 % 2 ^ c.log2slots
  let ref := if c.ref = 0 then (stOk, []) else hbmRead s d (c.ref + 64 * slot) 48 w.owner
  let out := c.result + 128 * slot
  if faultStatus ≠ stOk then wmFails s unit x.1 w faultStatus
  else if ref.1 ≠ stOk then wmFails s unit x.1 w ref.1
  else
    let bad := c.ref ≠ 0 && decide (ref.2 ≠ leBytes 48 x.2.2.dig)
    let s := if bad then wmMismatch s unit x.1 w c else s
    let r := hbmWrite { s with freeCtr := s.freeCtr + 2 } d out (wmResult s x.1 x.2.1 x.2.2 bad) w.owner
    if r.1 ≠ stOk then wmFails r.2 unit x.1 w r.1
    else
      let s := modWm r.2 unit (fun w => { w with closed := w.closed.drop 1 })
      if ownsCounter s d c.doneCtr w.owner then counterAddTo s d c.doneCtr 1 else s

/-- WATERMARK_CLOSE: the step that the counter closed first is written. -/
def execWatermarkClose (unit : Fin 256) (faultStatus : BitVec 16) (s : State) : Result :=
  let w := getWm s unit.val
  .next (match w.cfg, w.closed with
    | some c, x :: _ => if w.st = 1 then closeStep s unit.val w c x faultStatus else s
    | _, _ => s)

end Sys2Proof.Machine
end

