-- ==== Sys2Proof/Machine/Fleet.lean ====
section
/-! DEFINITION. Job-stop notices, the black box and its storms, fleet health, and fault drills (R480 to R483, R488 to R493, R497, R500 to R502). -/

namespace Sys2Proof.Machine

/-! ## STOP_NOTICE (R480 to R483) -/

/-- The notice of an origin with a serial has been seen within 1 ms. -/
def seenStop (s : State) (origin : BitVec 20) (serial : BitVec 32) : Bool :=
  s.fleet.stops.any (fun x => x.1 = origin && x.2.1 = serial && decide (s.tb.time < x.2.2 + msU))

def noteStop (s : State) (origin : BitVec 20) (serial : BitVec 32) : State :=
  { s with fleet := { s.fleet with stops := s.fleet.stops.filter (fun x => decide (s.tb.time < x.2.2 + msU)) ++ [(origin, serial, s.tb.time)] } }

/-- STOP_NOTICE: the first copy is forwarded and acted on. -/
def execStopNotice (port : Fin 64) (job : BitVec 32) (origin : BitVec 20) (serial : BitVec 32) (status : BitVec 16) (t : Nat) (s : State) : Result :=
  .next (
    if seenStop s origin serial then s
    else
      let s := flood (noteStop s origin serial) (some (port.val / 4)) 0xE8 (stopBytes job origin serial.toNat status t)
      actOnStop s job status origin serial.toNat t)

/-! ## The recorder (R489 to R491) -/

def getSource (s : State) (src : BitVec 16) : Source := Tab.getD s.fleet.sources src.toNat {}

def modSource (s : State) (src : BitVec 16) (f : Source → Source) : State :=
  { s with fleet := { s.fleet with sources := Tab.upd s.fleet.sources src.toNat {} f } }

/-- Slots of the black-box region. -/
def bbSlots : Nat := 131072

/-- A record the recorder makes of a source in storm; never refused, and counted towards the 100 ms limit. -/
def stormRecord (s : State) (src : BitVec 16) (event : BitVec 8) (aux : Nat) (f : Source → Source) : State :=
  let now := s.tb.time
  let x := getSource s src
  let free := takeFree s
  let r : BbRec := { mkRecord free.2 { source := src, event := event, aux := BitVec.ofNat 64 aux } s.fleet.nextSeq x.count false free.1 with summary := decide (event ≠ evStormEnter) }
  let s := { free.2 with fleet := { free.2.fleet with accepted := free.2.fleet.accepted ++ [r], nextSeq := free.2.fleet.nextSeq + 1, recent := recentNow free.2.fleet now ++ [now] } }
  modSource s src (fun x => f { x with lastRec := some now, stormRec := now, sinceRec := 0 })

/-- The source's 10 ms since its last record are over. -/
def tenMs (s : State) (x : Source) : Bool :=
  match x.lastRec with
  | some t => decide (t + 10 * msU ≤ s.tb.time)
  | none => true

/-- STORM_ENTER: the source's next record after it entered storm. -/
def execStormEnter (source : BitVec 16) (s : State) : Result :=
  let x := getSource s source
  .next (if x.storm && x.enterDue && tenMs s x then stormRecord s source evStormEnter 0 (fun x => { x with enterDue := false }) else s)

/-- STORM_SUMMARY: one a second while the storm lasts. -/
def execStormSummary (source : BitVec 16) (s : State) : Result :=
  let x := getSource s source
  .next (if x.storm && !x.enterDue && decide (x.stormRec + secU ≤ s.tb.time) then stormRecord s source evSummary x.sinceRec id else s)

/-- STORM_EXIT: a second without an error. -/
def execStormExit (source : BitVec 16) (s : State) : Result :=
  let x := getSource s source
  .next (
    if x.storm && !x.enterDue && decide (x.lastErr + secU ≤ s.tb.time) && tenMs s x then
      stormRecord s source evStormExit x.sinceRec (fun x => { x with storm := false, suppressed := 0 })
    else s)

/-! ## BLACKBOX_READ (R489, R492, R493, R497) -/

/-- The 64 bytes of a record. -/
def recBytes (r : BbRec) : List Byte :=
  let head := leBytes 8 r.seq ++ leBytes 8 r.time ++ leBytes 8 r.cycle.toNat ++ leBytes 2 r.source.toNat ++ leBytes 1 r.event.toNat ++
    leBytes 1 (bitN r.drill + 2 * bitN r.summary)
  let tail :=
    if r.event = evContinuation then padTo 32 r.more
    else
      leBytes 2 r.status.toNat ++ leBytes 2 r.boot ++ leBytes 4 r.count ++ leBytes 4 r.job.toNat ++ leBytes 2 r.slice.toNat ++ leBytes 2 0 ++
      leBytes 8 r.location.toNat ++ leBytes 8 r.aux.toNat
  head ++ tail ++ leBytes 4 (crc32c (head ++ tail)).toNat

/-- BLACKBOX_WRITE: the record accepted first is written, over the oldest once the ring is full, and its console line goes out (R490, R539). -/
def execBlackboxWrite (s : State) : Result :=
  .next (match s.fleet.accepted with
    | [] => s
    | r :: rest =>
      let held := s.fleet.records ++ [r]
      let s := emit s (.consoleRecord ((recBytes r).take 32))
      let s := { s with fleet := { s.fleet with accepted := rest, records := held.drop (held.length - bbSlots) } }
      if r.event = evContinuation then s else modSource s r.source (fun x => { x with lastSeq := r.seq }))

/-- A source entry. -/
def sourceBytes (s : State) (src : Nat) : List Byte :=
  let x := Tab.getD s.fleet.sources src {}
  leBytes 2 src ++ leBytes 1 (if x.storm then 2 else bitN x.held) ++
  (if x.held then leBytes 1 x.event.toNat ++ leBytes 2 x.status.toNat else leBytes 3 0) ++ leBytes 2 0 ++ leBytes 4 x.count ++ leBytes 4 x.suppressed ++
  (if x.held then leBytes 8 x.time ++ leBytes 8 x.location.toNat ++ leBytes 8 x.aux.toNat ++ leBytes 8 x.seq else leBytes 32 0) ++ leBytes 8 x.lastSeq ++ leBytes 8 0

/-- The defined instances in ascending source ID. -/
def allSources : List Nat := (List.range 15).flatMap (fun k => (List.range (sourceCount k)).map (fun i => 4096 * k + i))

/-- The current bank lists this module SHADOW. -/
def listedShadow (s : State) : Bool :=
  match s.net.route.cur with
  | some b => entrySt (bankEntry b (hereC s)) = .shadow
  | none => false

/-- The fleet health record. -/
def healthBytes (s : State) : List Byte :=
  let f := s.fleet
  leBytes 8 s.tb.time ++ leBytes 1 (bitN f.suspect + 2 * bitN (f.sources.any (fun x => x.2.storm)) + 4 * bitN (listedShadow s)) ++ leBytes 3 0 ++
  leBytes 4 f.window.length ++ leBytes 4 (suspectL f.window) ++ leBytes 4 (suspectE f.window * 1024).floor.toNat ++ leBytes 8 f.shadow ++ leBytes 8 f.suspectAt ++
  leBytes 4 f.drillLate ++ leBytes 4 f.refusedExp ++ leBytes 16 0

/-- The lowest and the highest SEQ held. -/
def bbPrefix (s : State) : List Byte :=
  leBytes 8 ((s.fleet.records.head?.map (fun r => r.seq)).getD 0) ++ leBytes 8 ((s.fleet.records.getLast?.map (fun r => r.seq)).getD 0)

def clearFirst (x : Source) : Source := { x with held := false, event := 0, status := 0, time := 0, location := 0, aux := 0, seq := 0 }

/-- Sources from a start index, n of them, to the last defined one. -/
def sourceRange (start n : Nat) : List Nat := (allSources.drop start).take n

def readBlackbox (s : State) (start n kind : Nat) : State × Reply :=
  let ans (bs : List Byte) : State × Reply := (s, .done stOk (bbPrefix s ++ bs))
  if kind = 0 then
    if n = 0 || 255 < n then ends s stBadParam
    else ans (((s.fleet.records.filter (fun r => decide (start ≤ r.seq))).take n).flatMap recBytes)
  else if kind = 2 then (if start = 0 && n = 1 then ans (healthBytes s) else ends s stBadParam)
  else if 3 < kind || n = 0 || 255 < n || allSources.length ≤ start then ends s stBadParam
  else if kind = 1 then ans ((sourceRange start n).flatMap (sourceBytes s))
  else
    let ks := sourceRange start n
    let s := { s with fleet := { s.fleet with sources := Tab.mapVals s.fleet.sources (fun k x => if ks.contains k then clearFirst x else x) } }
    (s, .done stOk (bbPrefix s))

/-- BLACKBOX_READ. -/
def execBlackboxRead (h : Hdr) (start : Word) (n : Nat) (kind : Nat) (s : State) : Result :=
  .next (command s h { code := 0x7007, chan := .admin, reserve := 16384, recovery := true } (fun s => readBlackbox s start.toNat n kind))

/-! ## Drills (R500 to R502) -/

def isPortDrill (d : DrillCfg) : Bool := d.kind = 1 || d.kind = 2
def isCollDrill (d : DrillCfg) : Bool := d.kind = 4 || d.kind = 5

/-- The GID names a group without DRILL. -/
def notDrillGroup (s : State) (gid : BitVec 16) : Bool :=
  match findGroup s gid with
  | some e => !gDrill e.2.desc
  | none => false

def drillFieldsOk (s : State) (d : DrillCfg) : Bool :=
  decide (1 ≤ d.kind) && decide (d.kind ≤ 5) && (!isPortDrill d || d.port ≤ 63) && (d.kind ≠ 3 || d.die ≤ 3) &&
  (d.kind ≠ 4 || (1 ≤ d.amount && d.amount ≤ 1000000)) && decide (s.tb.time ≤ d.t) && decide (d.t ≤ s.tb.time + 24 * 3600 * secU) &&
  (!isCollDrill d || !notDrillGroup s d.gid)

/-- DRILL_SCHEDULE. -/
def execDrillSchedule (h : Hdr) (d : DrillCfg) (s : State) : Result :=
  .next (command s h { code := 0x7008, chan := .adminSigned } (fun s =>
    if !drillFieldsOk s d then ends s stBadParam
    else if 16 ≤ s.fleet.drills.length then ends s stBusy
    else ends { s with fleet := { s.fleet with drills := s.fleet.drills ++ [d] } } stOk))

/-- DRILL_NOTE_SEND: 20 µs before a port drill, the peer is told. -/
def execDrillNoteSend (id : Word) (s : State) : Result :=
  .next (match s.fleet.drills.find? (fun d => d.id = id && isPortDrill d) with
    | none => s
    | some d =>
      if s.tb.time + 20 * usU < d.t || s.fleet.noted.contains id then s
      else
        let s := { s with fleet := { s.fleet with noted := s.fleet.noted ++ [id] } }
        if (getLink s d.port).st = .active then emit s (.neighbour d.port 0xF2 []) else s)

/-- DRILL_NOTE: records of the receiving port are a drill's from 20 µs on (R501). -/
def execDrillNote (port : Fin 64) (s : State) : Result := .next (markDrill s (srcPort port.val) (20 * usU))

/-- A READY context of a DRILL group. -/
def drillGroup (s : State) (gid : BitVec 16) : Option Nat :=
  match findGroup s gid with
  | some e => if e.2.st = .ready && gDrill e.2.desc then some e.1 else none
  | none => none

/-- A FREE granule of a die. -/
def freeGranule (s : State) (d : Nat) : Option Nat := (List.range 16).find? (fun g => (getGran s d g).st = .free)

/-- The conditions of R502. -/
def drillHolds (s : State) (d : DrillCfg) : Bool :=
  if isPortDrill d then
    (getLink s d.port).st = .active && (oePortsUp s (d.port / 4)).any (fun p => p ≠ d.port)
  else if d.kind = 3 then (freeGranule s d.die).isSome
  else (drillGroup s d.gid).isSome

/-- A row named by a free value: which row a sector lies in is not told (R140; log entry 3). -/
def freeRow (stack : Nat) (w : Word) : RowId :=
  ⟨stackFin stack, ⟨w.toNat % 32, Nat.mod_lt _ (by decide)⟩, ⟨w.toNat / 32 % 4, Nat.mod_lt _ (by decide)⟩, ⟨w.toNat / 128 % 48, Nat.mod_lt _ (by decide)⟩, BitVec.ofNat 18 (w.toNat / 8192)⟩

/-- ECC_EVENT: a corrected error of a sector of the controller's own choice in a FREE granule. -/
def eccDrill (s : State) (die g : Nat) : State :=
  let f := takeFree s
  let r := takeFree f.2
  let off := g * 2 ^ 34 + f.1.toNat % 2 ^ 29 * 32
  let k := stackOf r.2 die off
  endDrill (sectorCorrected (markDrill r.2 (srcKind 4 k) 0) die off (freeRow k r.1)) (srcKind 4 k)

/-- The injection of R500. -/
def inject (s : State) (d : DrillCfg) : State :=
  if d.kind = 1 then emit (markDrill s (srcPort d.port) 0) (.flitCorrupt d.port)
  else if d.kind = 2 then finishDrop (modLink (markDrill s (srcPort d.port) 0) d.port (fun l => { l with dropping := true })) d.port
  else if d.kind = 3 then
    match freeGranule s d.die with
    | some g => eccDrill s d.die g
    | none => s
  else match drillGroup s d.gid with
    | none => s
    | some c =>
      let s := markDrill s (srcKind 0xA 1) 0
      if d.kind = 4 then modGroup s c (fun g => { g with holdArrive := some (d.amount * nsU) })
      else if (getGroup s c).op.isSome then raiseAbort s c stAborted true
      else modGroup s c (fun g => { g with drillAbort := true })

/-- DRILL_FIRE: at T the drill is injected, or recorded with BAD_STATE. -/
def execDrillFire (id : Word) (s : State) : Result :=
  .next (match s.fleet.drills.find? (fun d => d.id = id) with
    | none => s
    | some d =>
      if s.tb.time < d.t || (isPortDrill d && !s.fleet.noted.contains id) then s
      else
        let ok := drillHolds s d
        let s := { s with fleet := { s.fleet with drills := s.fleet.drills.erase d, noted := s.fleet.noted.erase id } }
        let s := record s { source := srcKind 0xE 0, event := evDrill, status := if ok then stOk else stBadState, aux := id, drill := true }
        if ok then inject s d else s)

end Sys2Proof.Machine
end

