-- ==== Sys2Proof/Machine/Hbm.lean ====
section
/-! DEFINITION. Patrol, refresh, temperature, repair and the granules (R135, R143 to R150, R155 to R158). -/

namespace Sys2Proof.Machine

/-- PATROL_READ (R137, R138, R151, R158): a sector of a granule that is not ABSENT, on a stack that has not failed, is read. -/
def execPatrolRead (die : Fin 4) (sector : Nat) (symbols : Nat) (row : RowId) (s : State) : Result :=
  let d := die.val
  .next (
    if !(getHbm s d).patrolOn || 2 ^ 33 ≤ sector || (getGran s d (granOf (32 * sector))).st = .absent || (getStack s (stackOf s d (32 * sector))).link = 2 then s
    else
      let t := (sectorDecode s d (32 * sector) symbols row).2
      failDue s (bumpStack t (stackOf s d (32 * sector)) 7 1) row)

/-- The count of a stack's error check and scrub is read into its error record (R135): the stack's own count, a free value, adds to CE_COUNT (log entry 90). -/
def readEcs (s : State) (stack : Nat) : State :=
  if (getStack s stack).link = 1 then
    let f := takeFree s
    let e := MemErrSel.hbm (stackFin stack)
    setErr f.2 e { getErr f.2 e with ce := satUp (getErr f.2 e).ce f.1.toNat 0xFFFF }
  else s

/-- PATROL_PASS_COMPLETE (R135, R158): the pass is counted, the stacks' own scrub counts are read, and the next pass takes the period written since. -/
def execPatrolPassComplete (die : Fin 4) (s : State) : Result :=
  .next (if (getHbm s die.val).patrolOn then
      modHbm ((List.range 4).foldl (fun s k => readEcs s (4 * die.val + k)) s) die.val (fun h => { h with passes := satUp h.passes 1 0xFFFF, periodInForce := h.periodH })
    else s)

/-- HBM_REFRESH (R135, R147): a refresh changes no bit of the stack's contents; it is counted. -/
def execHbmRefresh (stack : Fin 16) (s : State) : Result :=
  .next (bumpStack s stack.val 4 1)

/-- Lower bound of a thermal state (R147). -/
def thermBound (n : Nat) : Nat := if n = 1 then 85 else if n = 2 then 95 else 105

/-- The state a reading reaches from below. -/
def thermUp (t : Nat) : Nat := if 105 ≤ t then 3 else if 95 ≤ t then 2 else if 85 ≤ t then 1 else 0

/-- The state falls one step for each bound the reading is 3 degrees under. -/
def thermDown : Nat → Nat → Nat
  | 0, _ => 0
  | n + 1, t => if t + 3 ≤ thermBound (n + 1) then thermDown n t else n + 1

def thermNext (old t : Nat) : Nat := if old ≤ thermUp t then thermUp t else max (thermUp t) (thermDown old t)

/-- HBM_TEMP_SAMPLE (R147, R157): the reading and the state; HOT asserts ALERT_N. What a stack held in HOLD goes on once it leaves. -/
def execHbmTempSample (stack : Fin 16) (temp : BitVec 8) (s : State) : Result :=
  let t := setAlert (modStack s stack.val (fun k => { k with temp := temp, therm := thermNext k.therm temp.toNat }))
  .next (if (getStack s stack.val).therm = 3 && (getStack t stack.val).therm ≠ 3 then resumeColl (pumpCopies (pumpMem t)) else t)

/-- An entry of KIND 0b0001 (R149). -/
def rowEntry (r : RowId) (source : Nat) : Word :=
  BitVec.ofNat 64 (putN 1 60 4 + putN r.stack.val 56 4 + putN r.pch.val 51 5 + putN r.sid.val 48 3 + putN r.bank.val 42 6 + putN r.row.toNat 24 18 + putN source 16 8)

/-- ROW_REPAIR (R148, R149): a row due for repair takes a soft-repair resource of its bank, or is left in service for want of one; either way an entry waits to be appended, naming what decided the repair. -/
def execRowRepair (row : RowId) (s : State) : Result :=
  let x := getRow s row
  let k := getStack s row.stack.val
  .next (
    if !x.repairDue then s
    else
      let s := setRow s { x with repairDue := false, dueUe := false, ceTimes := [] }
      if bankLeft k (bankIx row) = 0 then queueRepair s (rowEntry row 0x04)
      else
        let s := modStack s row.stack.val (fun k => { k with softUsed := Tab.upd k.softUsed (bankIx row) 0 (· + 1), repairs := satUp k.repairs 1 0xFF })
        queueRepair s (rowEntry row (if x.dueUe then 0x03 else 0x02)))

/-- The trust core is in a reset. -/
def trustDown (s : State) : Bool := s.rst.busy.any (fun b => 6 ≤ b.1)

/-- REPAIR_RECORD_APPEND (R148, R472): the oldest waiting entry enters the record; beyond 65,536 it is counted and not stored. -/
def execRepairRecordAppend (s : State) : Result :=
  .next (
    if trustDown s then s
    else match s.mem.repairQueue with
      | [] => s
      | e :: rest =>
        let s := { s with mem := { s.mem with repairQueue := rest } }
        if s.ctl.records.repair.length < 65536 then
          { s with ctl := { s.ctl with records := { s.ctl.records with repair := s.ctl.records.repair ++ [e] } } }
        else
          countError { s with ctl := { s.ctl with records := { s.ctl.records with repairDropped := s.ctl.records.repairDropped + 1 } } }
            { source := srcKind 0xC 2, event := evUncorrectable, status := stOverflow })

/-- GRANULE_SCRUB_START (R146, R158, R392): zeroing of a SCRUBBING granule begins once the die's HBM is trained; the first of a compute-die reset finds the reset's training done. -/
def execGranuleScrubStart (die : Fin 4) (g : Fin 16) (s : State) : Result :=
  let d := die.val
  .next (if (getGran s d g.val).st ≠ .scrubbing then s
    else if (getHbm s d).patrolOn then modGran s d g.val (fun x => { x with zeroing := true })
    else if s.rst.busy.any (fun b => b.1 = d + 1) then
      modGran (retrainDie (modRst s (fun r => { r with dieOut := r.dieOut ||| dieBit d })) d) d g.val (fun x => { x with zeroing := true })
    else s)

/-- GRANULE_ZEROED (R144, R146, R150, R410): the granule is FREE, or RETIRED; a slice with no granule left to zero leaves its slot. -/
def execGranuleZeroed (die : Fin 4) (g : Fin 16) (s : State) : Result :=
  let x := getGran s die.val g.val
  .next (if x.st = .scrubbing && x.zeroing then finishScrub (granuleDone s die.val g.val) else s)

/-- FIRST_VALID_REARM (R10, R155, R156). -/
def execFirstValidRearm (sel : MemErrSel) (value : Word) (s : State) : Result := .next (rearmErr s sel value)

/-- PERIOD_H_WRITE (R157, R158). -/
def execPeriodHWrite (die : Fin 4) (value : Word) (s : State) : Result := .next ((writePeriodH s die.val value).getD s)

end Sys2Proof.Machine
end

