-- ==== Sys2Proof/Machine/Flags.lean ====
section
/-! DEFINITION. Conditions of compares, their combination into a predicate, and the sticky FLAGS register (R53, R70, R82, R96). -/

namespace Sys2Proof.Machine

/-- A compare's outcome (R82); 0b111 is reserved. -/
def condHolds (cond : BitVec 3) (a b : Word) : Bool :=
  if cond = 0 then a == b
  else if cond = 1 then a != b
  else if cond = 2 then a.slt b
  else if cond = 3 then !a.slt b
  else if cond = 4 then a.ult b
  else if cond = 5 then !a.ult b
  else (a &&& b) != 0

/-- FN[1:0] combines the outcome into the predicate: 00 sets, 01 ANDs, 10 ORs (R82). -/
def combinePred (fn : BitVec 4) (old c : Bool) : Bool :=
  if fn = 1 then old && c else if fn = 2 then old || c else c

/-- FN of a CMP: 11 is reserved and FN[3:2] must be zero (R82). -/
def cmpFnLegal (fn : BitVec 4) : Bool := fn = 0 || fn = 1 || fn = 2

/-- OR flags into the sticky FLAGS register (R70, R96). -/
def orFlags (st : Strand) (f : BitVec 4) : Strand := { st with flags := st.flags ||| f }

end Sys2Proof.Machine
end

