-- ==== Sys2Proof/Machine/Integer.lean ====
section
/-! DEFINITION. Scalar integer instructions, compares, predicate logic, immediates and branches (R78 to R84). -/

namespace Sys2Proof.Machine

/-! ## Pure operations -/

/-- The number of zero bits above the highest set bit. -/
def clzN (x : Word) : Word := if x = 0 then 64 else BitVec.ofNat 64 (63 - Nat.log2 x.toNat)

/-- The number of zero bits below the lowest set bit. -/
def ctzN (x : Word) : Word := BitVec.ofNat 64 (((List.range 64).find? (fun i => x.getLsbD i)).getD 64)

/-- The number of set bits. -/
def popcN (x : Word) : Word := BitVec.ofNat 64 ((List.range 64).filter (fun i => x.getLsbD i)).length

/-- Shift amounts take the low six bits. -/
def shAmt (x : Word) : Nat := x.toNat % 64

def sllW (a b : Word) : Word := a <<< shAmt b
def srlW (a b : Word) : Word := a >>> shAmt b
def sraW (a b : Word) : Word := a.sshiftRight (shAmt b)
def minW (a b : Word) : Word := if a.slt b then a else b
def maxW (a b : Word) : Word := if a.slt b then b else a
def minuW (a b : Word) : Word := if a.ult b then a else b
def maxuW (a b : Word) : Word := if a.ult b then b else a
def mulhW (a b : Word) : Word := BitVec.ofInt 64 (a.toInt * b.toInt / 2 ^ 64)
def mulhuW (a b : Word) : Word := BitVec.ofNat 64 (a.toNat * b.toNat / 2 ^ 64)

/-- Signed quotient rounded toward zero; divisor 0 gives -1; the overflow gives -2^63 (R79). -/
def divW (a b : Word) : Word := if b = 0 then -1 else BitVec.ofInt 64 (a.toInt.tdiv b.toInt)

/-- Unsigned quotient; divisor 0 gives 2^64 - 1 (R79). -/
def divuW (a b : Word) : Word := if b = 0 then -1 else BitVec.ofNat 64 (a.toNat / b.toNat)

/-- Signed remainder with the sign of sa; divisor 0 gives sa (R79). -/
def remW (a b : Word) : Word := if b = 0 then a else BitVec.ofInt 64 (a.toInt.tmod b.toInt)

/-- Unsigned remainder; divisor 0 gives sa (R79). -/
def remuW (a b : Word) : Word := if b = 0 then a else BitVec.ofNat 64 (a.toNat % b.toNat)

/-- SHI: IMM10[9:8] selects the shift, IMM10[5:0] the amount (R80). -/
def shiW (imm : BitVec 10) (a : Word) : Word :=
  let k := BitVec.ofNat 64 (imm.toNat % 64)
  if imm.extractLsb' 8 2 = 0 then sllW a k else if imm.extractLsb' 8 2 = 1 then srlW a k else sraW a k

/-- SHI's reserved selections: IMM10[9:8] = 11, or IMM10[7:6] not zero (R80). -/
def shiLegal (imm : BitVec 10) : Bool := imm.extractLsb' 8 2 ≠ 3 && imm.extractLsb' 6 2 = 0

/-- Replace 16 bits of a word from a bit position upward (R81). -/
def insW (lo : Nat) (w : Word) (imm : BitVec 16) : Word :=
  (w &&& ~~~ (0xFFFF#64 <<< lo)) ||| (imm.setWidth 64 <<< lo)

/-! ## INT and MULDIV (R78, R79) -/

def execAdd (p : Pos) (g : Guard) (sd sa sb : BitVec 6) (s : State) : Result := .next (opRR p g true sd sa sb (fun a b => a + b) s)
def execSub (p : Pos) (g : Guard) (sd sa sb : BitVec 6) (s : State) : Result := .next (opRR p g true sd sa sb (fun a b => a - b) s)
def execAnd (p : Pos) (g : Guard) (sd sa sb : BitVec 6) (s : State) : Result := .next (opRR p g true sd sa sb (fun a b => a &&& b) s)
def execOr (p : Pos) (g : Guard) (sd sa sb : BitVec 6) (s : State) : Result := .next (opRR p g true sd sa sb (fun a b => a ||| b) s)
def execXor (p : Pos) (g : Guard) (sd sa sb : BitVec 6) (s : State) : Result := .next (opRR p g true sd sa sb (fun a b => a ^^^ b) s)
def execSll (p : Pos) (g : Guard) (sd sa sb : BitVec 6) (s : State) : Result := .next (opRR p g true sd sa sb sllW s)
def execSrl (p : Pos) (g : Guard) (sd sa sb : BitVec 6) (s : State) : Result := .next (opRR p g true sd sa sb srlW s)
def execSra (p : Pos) (g : Guard) (sd sa sb : BitVec 6) (s : State) : Result := .next (opRR p g true sd sa sb sraW s)
def execMin (p : Pos) (g : Guard) (sd sa sb : BitVec 6) (s : State) : Result := .next (opRR p g true sd sa sb minW s)
def execMax (p : Pos) (g : Guard) (sd sa sb : BitVec 6) (s : State) : Result := .next (opRR p g true sd sa sb maxW s)
def execMinu (p : Pos) (g : Guard) (sd sa sb : BitVec 6) (s : State) : Result := .next (opRR p g true sd sa sb minuW s)
def execMaxu (p : Pos) (g : Guard) (sd sa sb : BitVec 6) (s : State) : Result := .next (opRR p g true sd sa sb maxuW s)

/-- CLZ: SB must be 0. -/
def execClz (p : Pos) (g : Guard) (sd sa sb : BitVec 6) (s : State) : Result := .next (opRR p g (sb == 0) sd sa sb (fun a _ => clzN a) s)
def execPopc (p : Pos) (g : Guard) (sd sa sb : BitVec 6) (s : State) : Result := .next (opRR p g (sb == 0) sd sa sb (fun a _ => popcN a) s)
def execAndn (p : Pos) (g : Guard) (sd sa sb : BitVec 6) (s : State) : Result := .next (opRR p g true sd sa sb (fun a b => a &&& ~~~ b) s)
def execCtz (p : Pos) (g : Guard) (sd sa sb : BitVec 6) (s : State) : Result := .next (opRR p g (sb == 0) sd sa sb (fun a _ => ctzN a) s)
def execMul (p : Pos) (g : Guard) (sd sa sb : BitVec 6) (s : State) : Result := .next (opRR p g true sd sa sb (fun a b => a * b) s)
def execMulh (p : Pos) (g : Guard) (sd sa sb : BitVec 6) (s : State) : Result := .next (opRR p g true sd sa sb mulhW s)
def execMulhu (p : Pos) (g : Guard) (sd sa sb : BitVec 6) (s : State) : Result := .next (opRR p g true sd sa sb mulhuW s)
def execDiv (p : Pos) (g : Guard) (sd sa sb : BitVec 6) (s : State) : Result := .next (opRR p g true sd sa sb divW s)
def execDivu (p : Pos) (g : Guard) (sd sa sb : BitVec 6) (s : State) : Result := .next (opRR p g true sd sa sb divuW s)
def execRem (p : Pos) (g : Guard) (sd sa sb : BitVec 6) (s : State) : Result := .next (opRR p g true sd sa sb remW s)
def execRemu (p : Pos) (g : Guard) (sd sa sb : BitVec 6) (s : State) : Result := .next (opRR p g true sd sa sb remuW s)

/-! ## Compares and predicate logic (R82, R83) -/

def execCmp (p : Pos) (g : Guard) (cond pd : BitVec 3) (sa sb : BitVec 6) (fn : BitVec 4) (s : State) : Result :=
  .next (issue s p g (cond ≠ 7 && cmpFnLegal fn) [sa, sb] (fun s => finish s p (fun st =>
    wrP st pd (combinePred fn (rdP st pd) (condHolds cond (rd st sa) (rd st sb))))))

def execCmpi (p : Pos) (g : Guard) (cond pd : BitVec 3) (sa : BitVec 6) (imm : BitVec 10) (s : State) : Result :=
  .next (issue s p g (cond ≠ 7) [sa] (fun s => finish s p (fun st => wrP st pd (condHolds cond (rd st sa) (sext imm)))))

def execPand (p : Pos) (g : Guard) (pd pa pb : BitVec 3) (s : State) : Result := .next (opPP p g pd pa pb (fun a b => a && b) s)
def execPor (p : Pos) (g : Guard) (pd pa pb : BitVec 3) (s : State) : Result := .next (opPP p g pd pa pb (fun a b => a || b) s)
def execPxor (p : Pos) (g : Guard) (pd pa pb : BitVec 3) (s : State) : Result := .next (opPP p g pd pa pb (fun a b => a != b) s)
def execPandn (p : Pos) (g : Guard) (pd pa pb : BitVec 3) (s : State) : Result := .next (opPP p g pd pa pb (fun a b => a && !b) s)
def execPnot (p : Pos) (g : Guard) (pd pa : BitVec 3) (s : State) : Result := .next (opPP p g pd pa 0 (fun a _ => !a) s)

/-- PGET: p7 to p0 in bits [7:0]; p0 reads 1. -/
def execPget (p : Pos) (g : Guard) (sd : BitVec 6) (s : State) : Result :=
  .next (issue s p g true [sd] (fun s => finish s p (fun st => wr st sd ((st.preds ||| 1).setWidth 64))) [])

/-- PSET: p7 to p1 from sa[7:1]. -/
def execPset (p : Pos) (g : Guard) (sa : BitVec 6) (s : State) : Result :=
  .next (issue s p g true [sa] (fun s => finish s p (fun st => { st with preds := (rd st sa).setWidth 8 ||| 1 })))

/-! ## Immediates (R80, R81) -/

def execAddi (p : Pos) (g : Guard) (sd sa : BitVec 6) (imm : BitVec 10) (s : State) : Result := .next (opRI p g true sd sa imm (fun a b => a + b) s)
def execAndi (p : Pos) (g : Guard) (sd sa : BitVec 6) (imm : BitVec 10) (s : State) : Result := .next (opRI p g true sd sa imm (fun a b => a &&& b) s)
def execOri (p : Pos) (g : Guard) (sd sa : BitVec 6) (imm : BitVec 10) (s : State) : Result := .next (opRI p g true sd sa imm (fun a b => a ||| b) s)
def execXori (p : Pos) (g : Guard) (sd sa : BitVec 6) (imm : BitVec 10) (s : State) : Result := .next (opRI p g true sd sa imm (fun a b => a ^^^ b) s)
def execShi (p : Pos) (g : Guard) (sd sa : BitVec 6) (imm : BitVec 10) (s : State) : Result := .next (opRI p g (shiLegal imm) sd sa imm (fun a _ => shiW imm a) s)
def execLi (p : Pos) (g : Guard) (sd : BitVec 6) (imm : BitVec 16) (s : State) : Result := .next (opRU p g sd imm false (fun _ i => sext i) s)
def execIns16 (p : Pos) (g : Guard) (sd : BitVec 6) (imm : BitVec 16) (s : State) : Result := .next (opRU p g sd imm true (insW 16) s)
def execIns32 (p : Pos) (g : Guard) (sd : BitVec 6) (imm : BitVec 16) (s : State) : Result := .next (opRU p g sd imm true (insW 32) s)
def execIns48 (p : Pos) (g : Guard) (sd : BitVec 6) (imm : BitVec 16) (s : State) : Result := .next (opRU p g sd imm true (insW 48) s)

/-! ## Branches (R84) -/

/-- PC + 4 * sext(DISP22). -/
def branchTarget (pc : Word) (disp : BitVec 22) : Word := pc + sext disp * 4

def execBr (p : Pos) (g : Guard) (disp : BitVec 22) (s : State) : Result :=
  .next (issue s p g true [] (fun s => finishTo s p (branchTarget (getStrand s p).pc disp) id))

/-- CALL writes s63 := PC + 4, then branches. -/
def execCall (p : Pos) (g : Guard) (disp : BitVec 22) (s : State) : Result :=
  .next (issue s p g true [63] (fun s =>
    let pc := (getStrand s p).pc
    finishTo s p (branchTarget pc disp) (fun st => wr st 63 (pc + 4))) [])

/-- JR writes sd := PC + 4, then PC := sa; a target that is not a multiple of 4 traps and leaves sd. -/
def execJr (p : Pos) (g : Guard) (sd sa : BitVec 6) (s : State) : Result :=
  .next (issue s p g true [sd, sa] (fun s =>
    let pc := (getStrand s p).pc
    let t := rd (getStrand s p) sa
    if t.toNat % 4 ≠ 0 then trapAt s p cMisaligned t
    else finishTo s p t (fun st => wr st sd (pc + 4))) [sa])

end Sys2Proof.Machine
end

