-- ==== Sys2Proof/Machine/Scrub.lean ====
section
/-! DEFINITION. The background scrubber of the SRAM arrays (R152 to R156). -/

namespace Sys2Proof.Machine

/-- The memory error record of an array, or none where the array's cluster is not in service: the five arrays of a cluster share its record (R155). -/
def scrubRecord (s : State) (a : SramArray) : Option MemErrSel :=
  let cl := fun (d : Fin 4) (l : Fin 12) => (
    let p := physCluster s d.val l.val
    if h : p < 13 then some (MemErrSel.cd d ⟨p, h⟩) else none)
  match a with
  | .tileStore c => cl c.die c.cluster
  | .felt d l => cl d l
  | .icache c => cl c.die c.cluster
  | .engineQueue c _ => cl c.die c.cluster
  | .regFile p => cl p.die p.cluster
  | .outputBuffer _ _ _ => some (.fd 0)
  | .flowContext _ => some (.fd 1)
  | .collStaging _ => some (.fd 2)
  | .deckleTable _ => some (.fd 3)
  | .replayBuffer _ => some (.fd 4)
  | .trustSram | .stewardSram => some (.fd 5)
  | .routeTable _ => some (.fd 6)

/-- The word lies in its array: tile stores hold 1 MiB and felts 8 MiB; a strand has 64 registers. -/
def scrubWordOk (a : SramArray) (w : Nat) : Bool :=
  match a with
  | .tileStore _ => decide (w < 0x20000)
  | .felt _ _ => decide (w < 0x100000)
  | .regFile _ => decide (w < 64)
  | _ => true

/-- The packet of a stored segment is lost: it is voided in what a resend carries. -/
def voidItem (i : SegItem) : SegItem :=
  match i with
  | .packet vc p => .stomped vc p
  | .host bs _ => .host bs true
  | x => x

/-- A packet of a port's replay buffer is lost; which one a word belongs to is a free value (log entry 3). -/
def replayLost (s : State) (port : Nat) : State :=
  let f := takeFree s
  let g := takeFree f.2
  modLink g.2 port (fun l => { l with
    replay := l.replay.modify (f.1.toNat % l.replay.length) (fun x => { x with items := x.items.modify (g.1.toNat % x.items.length) voidItem }) })

/-- A line of an instruction cache is dropped, to be fetched again; which one a word belongs to is a free value (log entry 3). -/
def dropLine (s : State) (c : CorePos) : State :=
  let f := takeFree s
  modCore f.2 c (fun k => { k with icache := k.icache.eraseIdx (f.1.toNat % k.icache.length) })

/-- The bank of a route table is faulty: 0 is the current one, 1 the retired one. -/
def bankFault (s : State) (bank : Nat) : State :=
  modRoute s (fun r =>
    if bank = 0 then { r with cur := r.cur.map (fun b => { b with faulty := true }) }
    else { r with old := r.old.map (fun b => { b with faulty := true }) })

/-- An entry of KIND 0b0010 (R149). -/
def columnEntry (die pcl array inst sub col source : Nat) : Word :=
  BitVec.ofNat 64 (putN 2 60 4 + putN die 56 4 + putN pcl 51 5 + putN array 48 3 + putN inst 42 6 + putN sub 32 10 + putN col 24 8 + putN source 16 8)

/-- DIE, PCLUSTER, ARRAY and INST of the arrays that have column entries (R149). -/
def columnPlace (s : State) (a : SramArray) : Option (Nat × Nat × Nat × Nat) :=
  match a with
  | .tileStore c => some (c.die.val, physCluster s c.die c.cluster, 1, c.core.val)
  | .felt d l => some (d.val, physCluster s d l, 0, 0)
  | .icache _ | .regFile _ | .engineQueue _ _ => none
  | _ => some (0xF, 0x1F, 2, 0)

/-- The logical cluster an array lies in. -/
def arrayCluster (a : SramArray) : Option (Nat × Nat) :=
  match a with
  | .tileStore c | .icache c | .engineQueue c _ => some (c.die.val, c.cluster.val)
  | .felt d l => some (d.val, l.val)
  | .regFile p => some (p.die.val, p.cluster.val)
  | _ => none

/-- What an uncorrectable error shows of its array, which the spec leaves open (log entry 94): a failing column, whose entry waits for the trust core (R149), and an array failure of the cluster (R133); both are free values. -/
def arrayVerdict (s : State) (a : SramArray) : State :=
  let f := takeFree s
  let x := f.1.toNat
  let s := match columnPlace f.2 a with
    | some (d, p, k, i) => if x % 2 = 1 then queueRepair f.2 (columnEntry d p k i (x / 4 % 1024) (x / 4096 % 256) 0x03) else f.2
    | none => f.2
  match arrayCluster a with
  | some (d, l) => if x / 2 % 2 = 1 then clusterFails s d l 0x06 else s
  | none => s

/-- A queued TMMA of an engine whose word of the queue is lost never runs: the core raises the job stop for the slice, as for an operand (R152, R154; log entry 94). -/
def queueLost (s : State) (c : CorePos) (eng : Nat) : State :=
  let id := match sliceOn s c.die c.cluster with
    | some e => e.2.id
    | none => 0xFFFF
  if (getEngine s c eng).queue.isEmpty then s
  else
    let f := takeFree s
    let s := modEngine f.2 c eng (fun e => { e with queue := e.queue.eraseIdx (f.1.toNat % e.queue.length) })
    raiseStopFor s id stPoisoned

/-- What an uncorrectable word of an array does (R154); a tile store, a felt and a register file keep the mark for their readers. -/
def scrubLost (s : State) (a : SramArray) (w : Nat) : State :=
  match a with
  | .tileStore c => poisonWord s (tileKey c.die c.cluster c.core (8 * w) / 8)
  | .felt d l => poisonWord s (feltKey d l (8 * w) / 8)
  | .icache c => dropLine s c
  | .engineQueue c e => queueLost s c e.val
  | .regFile p => modStrand s p (fun st => { st with badRegs := st.badRegs.filter (fun r => r ≠ w) ++ [w] })
  | .outputBuffer port vc i => cellLost s port.val vc.val i
  | .replayBuffer port => replayLost s port.val
  | .flowContext k => flowLost s k
  | .collStaging c => raiseAbort s c.val stPoisoned false
  | .deckleTable j => modDeckle s j (fun x => { x with spoiled := true })
  | .routeTable b => bankFault s b.val
  | .trustSram => if resetBusy s 6 then s else resetTrust s
  | .stewardSram => if resetBusy s 5 then s else resetSteward s 0

/-- SRAM_SCRUB: a word with one bit wrong is corrected and written back, one with more is poisoned and reported. -/
def execSramScrub (a : SramArray) (word bitsWrong : Nat) (s : State) : Result :=
  .next (match scrubRecord s a with
    | none => s
    | some e =>
      if bitsWrong = 0 || !scrubWordOk a word then s
      else if bitsWrong = 1 then memError s e false word
      else arrayVerdict (scrubLost (memError s e true word) a word) a)

end Sys2Proof.Machine
end

