-- ==== Sys2Proof/Machine/StrandEvents.lean ====
section
/-! DEFINITION. Invalid encodings of the instruction set, the traps of fetch and decode, and the gating of a control core (R66, R68, R70, R74 to R77, R446). -/

namespace Sys2Proof.Machine

/-! ## Encodings (R74 to R102) -/

def wOp (w : BitVec 32) : Nat := (w.extractLsb' 26 6).toNat
def wSd (w : BitVec 32) : BitVec 6 := w.extractLsb' 16 6
def wSa (w : BitVec 32) : BitVec 6 := w.extractLsb' 10 6
def wSb (w : BitVec 32) : BitVec 6 := w.extractLsb' 4 6
def wFn (w : BitVec 32) : BitVec 4 := w.extractLsb' 0 4
def wImm (w : BitVec 32) : BitVec 10 := w.extractLsb' 0 10

def legalInt (w : BitVec 32) : Bool := !(wFn w = 12 || wFn w = 13 || wFn w = 15) || wSb w = 0

def legalCmp (w : BitVec 32) : Bool := (wSd w).extractLsb' 3 3 ≠ 7 && cmpFnLegal (wFn w)

def hi3 (r : BitVec 6) : Bool := r.extractLsb' 3 3 = 0

def legalPlog (w : BitVec 32) : Bool :=
  let f := (wFn w).toNat
  if f ≤ 3 then hi3 (wSd w) && hi3 (wSa w) && hi3 (wSb w)
  else if f = 4 then hi3 (wSd w) && hi3 (wSa w) && wSb w = 0
  else if f = 5 then wSa w = 0 && wSb w = 0
  else if f = 6 then wSd w = 0 && wSb w = 0
  else false

def legalGld (w : BitVec 32) : Bool :=
  let k := (wFn w).extractLsb' 0 2
  if k = 2 then wSd w = 0 else k ≠ 3 && wSb w = 0

def legalTile (w : BitVec 32) : Bool :=
  let opc := (w.extractLsb' 18 2).toNat
  if opc = 0 then true
  else if opc = 3 then false
  else w.extractLsb' 20 2 = 0 && w.extractLsb' 2 6 = 0 && w.extractLsb' 0 2 = 0

def legalSync (w : BitVec 32) : Bool :=
  let f := (wFn w).toNat
  if f ≤ 3 then wSd w = 0 && wSa w = 0 && wSb w = 0
  else if f = 4 then hi3 (wSd w)
  else if f = 5 then wSb w = 0
  else if f = 6 then wSd w = 0
  else false

def legalSys (w : BitVec 32) : Bool :=
  let f := (wFn w).toNat
  if f = 2 then hi3 (wSd w)
  else if f = 3 then wSd w = 0 && wSb w = 0
  else (f ≤ 1 || (4 ≤ f && f ≤ 6)) && wSd w = 0 && wSa w = 0 && wSb w = 0

/-- The word carries no unassigned value and no non-zero reserved field (R76, R77). -/
def legalWord (w : BitVec 32) : Bool :=
  let op := wOp w
  if op = 0x00 then legalInt w
  else if op = 0x01 then decide ((wFn w).toNat ≤ 6)
  else if op = 0x02 then legalCmp w
  else if op = 0x03 then (wSd w).extractLsb' 3 3 ≠ 7
  else if op = 0x04 then legalPlog w
  else if 0x08 ≤ op && op ≤ 0x0B then true
  else if op = 0x0C then shiLegal (wImm w)
  else if 0x0E ≤ op && op ≤ 0x11 then true
  else if op = 0x14 || op = 0x15 then true
  else if op = 0x16 then wSb w = 0 && wFn w = 0
  else if 0x18 ≤ op && op ≤ 0x20 then true
  else if op = 0x24 then legalGld w
  else if op = 0x25 then wSd w = 0 && (wFn w).extractLsb' 0 2 ≠ 3
  else if op = 0x26 then wSd w = 0 && wFn w = 0
  else if 0x28 ≤ op && op ≤ 0x30 then (wFn w).extractLsb' 1 1 = 0
  else if op = 0x31 then (wFn w).extractLsb' 1 1 = 0 && (wSb w).getLsbD 0 = false
  else if op = 0x32 then (wSd w).extractLsb' 4 2 = 0 && redsLegal ((wSd w).extractLsb' 0 4) (wSb w) ((wFn w).extractLsb' 0 2)
  else if op = 0x34 then legalTile w
  else if op = 0x38 then decide ((wFn w).toNat ≤ 7) || ((wFn w).toNat ≤ 9 && wSb w = 0)
  else if op = 0x39 then (wFn w).toNat ≤ 7 && wSb w = 0
  else if op = 0x3A then wFn w = 0
  else if op = 0x3C then legalSync w
  else if op = 0x3D then wSa w = 0 && srReadable (wImm w).toNat
  else if op = 0x3E then wSd w = 0 && srWritable (wImm w).toNat
  else if op = 0x3F then legalSys w
  else false

/-! ## Words to instructions (R74, R77) -/

/-- PG and PN (R74, R75): the guard, in the same bits of every format. -/
def wGuard (w : BitVec 32) : Guard := ⟨w.extractLsb' 23 3, w.getLsbD 22⟩

def low3 (r : BitVec 6) : BitVec 3 := r.extractLsb' 0 3

/-- IMM16 of the U format (R74). -/
def wImm16 (w : BitVec 32) : BitVec 16 := w.extractLsb' 0 16

/-- DISP22 of the B format (R74). -/
def wDisp (w : BitVec 32) : BitVec 22 := w.extractLsb' 0 22

/-- KS and W of a global access (R86 to R89): FN[3:2] and FN[1:0]. -/
def wKs (w : BitVec 32) : BitVec 2 := (wFn w).extractLsb' 2 2

def wWidth (w : BitVec 32) : BitVec 2 := (wFn w).extractLsb' 0 2

/-- INT, by FN (R78). -/
def decodeInt (p : Pos) (w : BitVec 32) : Option Instr :=
  let g := wGuard w
  let d := wSd w
  let a := wSa w
  let b := wSb w
  [Instr.add p g d a b, .sub p g d a b, .and p g d a b, .or p g d a b, .xor p g d a b,
    .sll p g d a b, .srl p g d a b, .sra p g d a b, .min p g d a b, .max p g d a b,
    .minu p g d a b, .maxu p g d a b, .clz p g d a b, .popc p g d a b, .andn p g d a b,
    .ctz p g d a b][(wFn w).toNat]?

/-- MULDIV, by FN (R79). -/
def decodeMulDiv (p : Pos) (w : BitVec 32) : Option Instr :=
  let g := wGuard w
  let d := wSd w
  let a := wSa w
  let b := wSb w
  [Instr.mul p g d a b, .mulh p g d a b, .mulhu p g d a b, .div p g d a b, .divu p g d a b,
    .rem p g d a b, .remu p g d a b][(wFn w).toNat]?

/-- PLOG, by FN (R83). -/
def decodePlog (p : Pos) (w : BitVec 32) : Option Instr :=
  let g := wGuard w
  let d := low3 (wSd w)
  let a := low3 (wSa w)
  let b := low3 (wSb w)
  [Instr.pand p g d a b, .por p g d a b, .pxor p g d a b, .pandn p g d a b, .pnot p g d a,
    .pget p g (wSd w), .pset p g (wSa w)][(wFn w).toNat]?

/-- The operations of the I format, by OP (R77, R80, R85, R102). -/
def decodeImm (p : Pos) (w : BitVec 32) : Option Instr :=
  let g := wGuard w
  let d := wSd w
  let a := wSa w
  let i := wImm w
  match wOp w with
  | 0x08 => some (.addi p g d a i)
  | 0x09 => some (.andi p g d a i)
  | 0x0A => some (.ori p g d a i)
  | 0x0B => some (.xori p g d a i)
  | 0x0C => some (.shi p g d a i)
  | 0x18 => some (.ldlB p g d a i)
  | 0x19 => some (.ldlH p g d a i)
  | 0x1A => some (.ldlW p g d a i)
  | 0x1B => some (.ldlWs p g d a i)
  | 0x1C => some (.ldlD p g d a i)
  | 0x1D => some (.stlB p g d a i)
  | 0x1E => some (.stlH p g d a i)
  | 0x1F => some (.stlW p g d a i)
  | 0x20 => some (.stlD p g d a i)
  | 0x3D => some (.rsr p g d i)
  | 0x3E => some (.wsr p g a i)
  | _ => none

/-- The operations of the U and B formats and JR (R81, R84). -/
def decodeWide (p : Pos) (w : BitVec 32) : Option Instr :=
  let g := wGuard w
  match wOp w with
  | 0x0E => some (.li p g (wSd w) (wImm16 w))
  | 0x0F => some (.ins16 p g (wSd w) (wImm16 w))
  | 0x10 => some (.ins32 p g (wSd w) (wImm16 w))
  | 0x11 => some (.ins48 p g (wSd w) (wImm16 w))
  | 0x14 => some (.br p g (wDisp w))
  | 0x15 => some (.call p g (wDisp w))
  | 0x16 => some (.jr p g (wSd w) (wSa w))
  | _ => none

/-- The global operations (R86 to R90). -/
def decodeGlobal (p : Pos) (w : BitVec 32) : Option Instr :=
  let g := wGuard w
  let d := wSd w
  let a := wSa w
  let b := wSb w
  let k := wKs w
  let x := wWidth w
  match wOp w with
  | 0x24 => some (.gld p g d a b k x)
  | 0x25 => some (.gst p g d a b k x)
  | 0x26 => some (.gather p g a b)
  | 0x28 => some (.aadd p g d a b k x)
  | 0x29 => some (.aand p g d a b k x)
  | 0x2A => some (.aor p g d a b k x)
  | 0x2B => some (.axor p g d a b k x)
  | 0x2C => some (.amin p g d a b k x)
  | 0x2D => some (.amax p g d a b k x)
  | 0x2E => some (.aminu p g d a b k x)
  | 0x2F => some (.amaxu p g d a b k x)
  | 0x30 => some (.aswap p g d a b k x)
  | 0x31 => some (.acas p g d a b k x)
  | 0x32 => some (.reds p g (d.extractLsb' 0 4) a b k x)
  | _ => none

/-- TILE, by OPC = SUB[1:0] (R91, R92): ENG is SUB[3:2], INIT CTL[0] and FINAL CTL[1]. -/
def decodeTile (p : Pos) (w : BitVec 32) : Option Instr :=
  let g := wGuard w
  let td := w.extractLsb' 14 4
  let a := w.extractLsb' 8 6
  let b := w.extractLsb' 2 6
  [Instr.tmma p g (w.extractLsb' 20 2) td a b (w.getLsbD 0) (w.getLsbD 1), .tld p g td a,
    .tst p g td a][(w.extractLsb' 18 2).toNat]?

/-- VOP, by FN (R94). -/
def decodeVop (p : Pos) (w : BitVec 32) : Option Instr :=
  let g := wGuard w
  let d := wSd w
  let a := wSa w
  let b := wSb w
  [Instr.vadd p g d a b, .vsub p g d a b, .vmul p g d a b, .vfma p g d a b, .vmax p g d a b,
    .vmin p g d a b, .vadds p g d a b, .vmuls p g d a b, .vrsum p g d a,
    .vrmax p g d a][(wFn w).toNat]?

/-- VSF, by FN (R95). -/
def decodeVsf (p : Pos) (w : BitVec 32) : Option Instr :=
  let g := wGuard w
  let d := wSd w
  let a := wSa w
  [Instr.exp2 p g d a, .log2 p g d a, .rcp p g d a, .rsqrt p g d a, .sqrt p g d a,
    .tanh p g d a, .logistic p g d a, .erf p g d a][(wFn w).toNat]?

/-- SYNC, by FN (R97). -/
def decodeSync (p : Pos) (w : BitVec 32) : Option Instr :=
  let g := wGuard w
  let d := wSd w
  let a := wSa w
  let b := wSb w
  [Instr.fenceAcq p g, .fenceRel p g, .fenceFull p g, .twait p g, .waitc p g (low3 d) a b,
    .rdc p g d a, .bar p g a b][(wFn w).toNat]?

/-- SYS, by FN (R102). -/
def decodeSys (p : Pos) (w : BitVec 32) : Option Instr :=
  let g := wGuard w
  let a := wSa w
  [Instr.stopI p g, .yieldI p g, .spawn p g (low3 (wSd w)) a (wSb w), .trap p g a, .rett p g,
    .icinv p g, .bkpt p g][(wFn w).toNat]?

/-- The instruction an FCI word stands for, by OP (R77) in the format of R74; none for a word with
an invalid encoding (R76). The two compares take their condition and predicate from SD (R82). -/
def decodeWord (p : Pos) (w : BitVec 32) : Option Instr :=
  let g := wGuard w
  let d := wSd w
  if !legalWord w then none
  else match wOp w with
    | 0x00 => decodeInt p w
    | 0x01 => decodeMulDiv p w
    | 0x02 => some (.cmp p g (d.extractLsb' 3 3) (low3 d) (wSa w) (wSb w) (wFn w))
    | 0x03 => some (.cmpi p g (d.extractLsb' 3 3) (low3 d) (wSa w) (wImm w))
    | 0x04 => decodePlog p w
    | 0x34 => decodeTile p w
    | 0x38 => decodeVop p w
    | 0x39 => decodeVsf p w
    | 0x3A => some (.vcvt p g d (wSa w) (wSb w))
    | 0x3C => decodeSync p w
    | 0x3F => decodeSys p w
    | _ => (decodeImm p w <|> decodeWide p w) <|> decodeGlobal p w

/-- ILLEGAL_OP (R76): a word with an invalid encoding reaches issue; it traps whatever its guard. -/
def execIllegalOp (p : Pos) (word : BitVec 32) (s : State) : Result :=
  .next (if (decodeWord p word).isSome then s else issue s p ⟨0, false⟩ false [] (fun s => s))

/-- FETCH_FAULT (R68): the fetch falls outside the granules the slice owns on the die. -/
def execFetchFault (p : Pos) (s : State) : Result :=
  .next (if fetchOk s p then s else issue s p ⟨0, false⟩ true [] (fun s => s))

/-- POISONED_FETCH (R68, R138): the fetch reads a poisoned sector. -/
def execPoisonedFetch (p : Pos) (s : State) : Result :=
  .next (if fetchOk s p && fetchPoisoned s p then issue s p ⟨0, false⟩ true [] (fun s => s) else s)

end Sys2Proof.Machine
end

