-- ==== Sys2Proof/Machine/Sync.lean ====
section
/-! DEFINITION. Fences, waits, counters and barriers, and the events that end a wait (R64, R93, R97 to R101). -/

namespace Sys2Proof.Machine

/-! ## Conditions -/

/-- Atomics of the strand that their homes have not acknowledged (R101). -/
def atomicsOut (s : State) (p : Pos) : Nat :=
  let gen := (getStrand s p).gen
  ((getEp s p.die).outst.filter (fun o =>
    (match o.master with
      | .strand q g _ => decide (q = p) && decide (g = gen)
      | .gather _ _ _ _ => false) && o.req.opcode.extractLsb' 4 4 = 1)).length

/-- Every earlier global load and atomic has returned. -/
def acqOk (s : State) (p : Pos) : Bool := (getStrand s p).loads = 0

/-- Every earlier posted store, reduction-store and atomic is acknowledged. -/
def relOk (s : State) (p : Pos) : Bool := (getStrand s p).posted = 0 && atomicsOut s p = 0

/-- Every TMMA the strand has issued is complete. -/
def twaitOk (s : State) (p : Pos) : Bool := (getStrand s p).tmmas = 0

def fullOk (s : State) (p : Pos) : Bool := acqOk s p && relOk s p && twaitOk s p

/-- A completed TWAIT separates what the strand's TMMAs wrote from what follows (R93). -/
def twaitDone (s : State) (p : Pos) : State :=
  modCore s (coreOf p) (fun k => { k with doneC := k.doneC.filter (fun x => x.2.p ≠ p) })

/-- A fence or TWAIT: it completes now, with what else its completion does, or the strand waits. -/
def fenceOp (p : Pos) (g : Guard) (ok : State → Pos → Bool) (w : WaitFor) (done : State → Pos → State) (s : State) : State :=
  issue s p g true [] (fun s => if ok s p then done (finish s p id) p else waitOn s p w)

def execFenceAcq (p : Pos) (g : Guard) (s : State) : Result := .next (fenceOp p g acqOk .fenceAcq (fun s _ => s) s)
def execFenceRel (p : Pos) (g : Guard) (s : State) : Result := .next (fenceOp p g relOk .fenceRel (fun s _ => s) s)
def execFenceFull (p : Pos) (g : Guard) (s : State) : Result := .next (fenceOp p g fullOk .fenceFull twaitDone s)
def execTwait (p : Pos) (g : Guard) (s : State) : Result := .next (fenceOp p g twaitOk .twait twaitDone s)

/-! ## Counters (R98) -/

/-- WAITC: it writes 1 at once where the counter is at the threshold, else it waits under WTO. -/
def execWaitc (p : Pos) (g : Guard) (pd : BitVec 3) (sa sb : BitVec 6) (s : State) : Result :=
  .next (issue s p g true [sa, sb] (fun s =>
    let st := getStrand s p
    let x := rd st sa
    let k := x.toNat
    if 16384 ≤ k then trapFree s p cIllegal
    else if !ownsCounter s p.die k (strandSliceId s p) then trapFree s p cCounter
    else if (rd st sb).ule (counterVal s p.die k) then finish s p (fun st => wrP st pd true)
    else
      let now := s.tb.time
      let dl := if st.wto = 0 then none else some (now + st.wto.toNat * usU)
      modStrand (waitOn s p (.waitc k (rd st sb) pd)) p (fun st => { st with deadline := dl })))

/-- RDC: sd := the counter. -/
def execRdc (p : Pos) (g : Guard) (sd sa : BitVec 6) (s : State) : Result :=
  .next (issue s p g true [sd, sa] (fun s =>
    let k := (rd (getStrand s p) sa).toNat
    if 16384 ≤ k then trapFree s p cIllegal
    else if !ownsCounter s p.die k (strandSliceId s p) then trapFree s p cCounter
    else
      let v := counterVal s p.die k
      finish s p (fun st => wr st sd v)) [sa])

/-! ## Barriers (R99) -/

def getBar (s : State) (c : CorePos) (b : Nat) : Barrier := Tab.getD (getCore s c).barriers b {}

/-- The strand of a core with a number. -/
def strandAt (c : CorePos) (k : Nat) : Pos := ⟨c.die, c.cluster, c.core, ⟨k % 32, Nat.mod_lt _ (by decide)⟩⟩

/-- The n-th strand arrives: every strand that waited is READY past its BAR, the arriving one too, and the barrier resets. -/
def barRelease (s : State) (p : Pos) (b : Nat) : State :=
  let c := coreOf p
  let s := (getBar s c b).arrived.foldl (fun s k => wakeDone s (strandAt c k) id) s
  let s := modCore s c (fun k => { k with barriers := Tab.erase k.barriers b })
  finish s p id

/-- BAR: the first arrival fixes n; a different n traps. -/
def execBar (p : Pos) (g : Guard) (sa sb : BitVec 6) (s : State) : Result :=
  .next (issue s p g true [sa, sb] (fun s =>
    let st := getStrand s p
    let c := coreOf p
    let b := (rd st sa).toNat
    let n := (rd st sb).toNat
    if 8 ≤ b || n = 0 || 32 < n then trapFree s p cIllegal
    else
      let x := getBar s c b
      if !x.arrived.isEmpty && x.n ≠ n then trapFree s p cBarrier
      else if n ≤ x.arrived.length + 1 then barRelease s p b
      else
        let s := modCore s c (fun k => { k with barriers := Tab.set k.barriers b { n := n, arrived := x.arrived ++ [p.strand.val] } })
        waitOn s p (.barrier b n)))

/-! ## Wakes (R62, R64, R98) -/

/-- A strand of a slice that is RESIDENT waits. -/
def isWaiting (s : State) (p : Pos) : Bool := (getStrand s p).st = .wait && (residentOn s p.die p.cluster).isSome

/-- The condition of a wait whose instruction issues again has cleared. -/
def retryReady (s : State) (p : Pos) (w : WaitFor) : Bool :=
  let c := coreOf p
  match w with
  | .nothing => true
  | .register rs => !rs.any (fun r => (busyRegs s p).contains r)
  | .loadLimit => decide ((getStrand s p).loads < 16) && decide (coreLoads s c < 512)
  | .engineQueue e => decide ((getEngine s c (substituteOf (getCore s c).fenced e)).queue.length < 8)
  | .credit (some k) _ => (getFlow s k).isNone || creditFor s p.die k
  | .credit none a => (openFlow s false (strandSliceId s p) (nodeOf s p.die) (addrNode a)).isSome
  | .gatherSlot => (Tab.freeIndex (getCluster s p.die p.cluster).slots 32).isSome
  | .failedCore => !(getCore s c).failed
  | .floor => !atFloor s
  | .barrier b _ => !(getBar s c b).arrived.contains p.strand.val
  | .waitc _ _ _ | .twait | .fenceAcq | .fenceRel | .fenceFull => false

/-- STRAND_WAKE (R64, R98, R101): the condition a strand waits on has cleared. A fence, TWAIT or WAITC completes; another instruction issues again. -/
def execStrandWake (p : Pos) (s : State) : Result :=
  .next (
    if !isWaiting s p then s
    else match (getStrand s p).wait with
      | .waitc k t pd => if t.ule (counterVal s p.die k) then wakeDone s p (fun st => wrP st pd true) else s
      | .twait => if twaitOk s p then twaitDone (wakeDone s p id) p else s
      | .fenceAcq => if acqOk s p then wakeDone s p id else s
      | .fenceRel => if relOk s p then wakeDone s p id else s
      | .fenceFull => if fullOk s p then twaitDone (wakeDone s p id) p else s
      | w => if retryReady s p w then wakeRetry s p else s)

/-- WAITC_TIMEOUT (R98): the timeout has expired and the counter is below the threshold; WAITC writes 0. -/
def execWaitcTimeout (p : Pos) (s : State) : Result :=
  .next (
    if !isWaiting s p then s
    else match (getStrand s p).wait, (getStrand s p).deadline with
      | .waitc k t pd, some d => if d ≤ s.tb.time && !t.ule (counterVal s p.die k) then wakeDone s p (fun st => wrP st pd false) else s
      | _, _ => s)

end Sys2Proof.Machine
end

