-- ==== Sys2Proof/Machine/TestPort.lean ====
section
/-! DEFINITION. The test port: one TCK cycle of the TAP (R477, R538). -/

namespace Sys2Proof.Machine

/-- The next controller state of IEEE 1149.1, by TMS. -/
def tapNext (st : TapSt) (tms : Bool) : TapSt :=
  match st with
  | .testLogicReset => if tms then .testLogicReset else .runTestIdle
  | .runTestIdle => if tms then .selectDr else .runTestIdle
  | .selectDr => if tms then .selectIr else .captureDr
  | .captureDr => if tms then .exit1Dr else .shiftDr
  | .shiftDr => if tms then .exit1Dr else .shiftDr
  | .exit1Dr => if tms then .updateDr else .pauseDr
  | .pauseDr => if tms then .exit2Dr else .pauseDr
  | .exit2Dr => if tms then .updateDr else .shiftDr
  | .updateDr => if tms then .selectDr else .runTestIdle
  | .selectIr => if tms then .testLogicReset else .captureIr
  | .captureIr => if tms then .exit1Ir else .shiftIr
  | .shiftIr => if tms then .exit1Ir else .shiftIr
  | .exit1Ir => if tms then .updateIr else .pauseIr
  | .pauseIr => if tms then .exit2Ir else .pauseIr
  | .exit2Ir => if tms then .updateIr else .shiftIr
  | .updateIr => if tms then .selectDr else .runTestIdle

/-- What an instruction code selects under the granted SCOPE: 0 BYPASS, 1 SAMPLE and PRELOAD, 2 EXTEST, 3 a factory instruction; one not granted is BYPASS, as all ones is (log entry 8). -/
def tapSelects (scope : BitVec 16) (ir : List Bool) : Nat :=
  let code := if ir.all id then 0 else Config.tapCode ir
  if code = 0 then 0
  else if code ≤ 2 then (if scope.getLsbD 0 then code else 0)
  else if scope.getLsbD 1 then 3 else 0

/-- What Capture-IR loads: 01 in the two lowest bits, the rest the design's own (log entry 3). -/
def irCapture (s : State) : List Bool :=
  [true, false] ++ (List.range (Config.tapIrBits - 2)).map (fun i => (Config.freeByte s.freeCtr i).getLsbD 0)

/-- The levels of the boundary-scan lands, land i in bit i (R526, R538). -/
def landLevels (pins : Nat) : List Bool := (List.range Config.tapCells).map (fun i => pins.testBit i)

/-- Shift one bit towards TDO. -/
def shiftIn (r : List Bool) (tdi : Bool) : List Bool := r.drop 1 ++ [tdi]

def modTap (s : State) (f : Tap → Tap) : State := { s with ctl := { s.ctl with tap := f s.ctl.tap } }

/-- Test-Logic-Reset: BYPASS in force, TDO at high-Z. -/
def tapReset (t : Tap) : Tap := { t with st := .testLogicReset, ir := List.replicate Config.tapIrBits true, tdo := none }

/-- What the rising edge does in the present state. -/
def tapRise (s : State) (tdi : Bool) (pins : Nat) : State :=
  let sel := tapSelects s.ctl.trust.scopeBits s.ctl.tap.ir
  match s.ctl.tap.st with
  | .captureIr => modTap { s with freeCtr := s.freeCtr + 1 } (fun t => { t with shift := irCapture s })
  | .captureDr => modTap s (fun t => { t with shift := if sel = 0 then [false] else landLevels pins })
  | .shiftIr | .shiftDr => modTap s (fun t => { t with shift := shiftIn t.shift tdi })
  | _ => s

/-- What the falling edge does in the state then entered: TDO, and the updates. -/
def tapFall (scope : BitVec 16) (t : Tap) : Tap :=
  match t.st with
  | .shiftIr | .shiftDr => { t with tdo := t.shift.head? }
  | .updateIr => { t with ir := t.shift, tdo := none }
  | .updateDr => { t with boundary := if tapSelects scope t.ir = 0 then t.boundary else t.shift, tdo := none }
  | .testLogicReset => tapReset t
  | _ => { t with tdo := none }

/-- TCK: one cycle, rising edge then falling edge. Until an unlock the controller is held in Test-Logic-Reset; TRST_N low puts it there at once. A factory instruction that takes effect stops the run. -/
def execTck (tms tdi trstN : Bool) (pins : Nat) (s : State) : Result :=
  if !s.ctl.trust.testUnlocked || !trstN then .next (modTap s tapReset)
  else
    let scope := s.ctl.trust.scopeBits
    let s := modTap (tapRise s tdi pins) (fun t => tapFall scope { t with st := tapNext t.st tms })
    if s.ctl.tap.st = .updateIr && tapSelects scope s.ctl.tap.ir = 3 then .refused .factoryInstruction else .next s

end Sys2Proof.Machine
end

