-- ==== Sys2Proof/Machine/Special.lean ====
section
/-! DEFINITION. The special functions of R95: their special values, and elsewhere an open function held to the accuracy the spec gives. The exact value is reckoned as a rational number, far more closely than the accuracy asks (log entry 4). -/

namespace Sys2Proof.Machine

/-! ## Rational references -/

/-- ln 2 and the square root of pi, to 50 decimal places. -/
def ratLn2 : Rat := mkRat 69314718055994530941723212145817656807550013436025 (10 ^ 50)
def ratSqrtPi : Rat := mkRat 177245385090551602729816748334114518279754945612239 (10 ^ 50)

/-- 2 to an integer power. -/
def ratPow2 (n : Int) : Rat := if 0 ≤ n then ((2 ^ n.toNat : Nat) : Rat) else mkRat 1 (2 ^ (-n).toNat)

/-- A finite value. -/
def ratFin (neg : Bool) (m : Nat) (e : Int) : Rat := (if neg then -(m : Rat) else (m : Rat)) * ratPow2 e

/-- The sum of x^k / k! for k from `k` on, `n` terms, where `term` is the term at k. -/
def expTail (x : Rat) : Nat → Nat → Rat → Rat
  | 0, _, _ => 0
  | n + 1, k, term => term + expTail x n (k + 1) (term * x / ((k + 1 : Nat) : Rat))

/-- e^x - 1 for an x of at most 1. -/
def ratExpm1 (x : Rat) : Rat := expTail x 24 1 x

/-- 2^x. -/
def ratExp2 (x : Rat) : Rat := (1 + ratExpm1 ((x - (x.floor : Rat)) * ratLn2)) * ratPow2 x.floor

/-- e^x. -/
def ratExp (x : Rat) : Rat := ratExp2 (x / ratLn2)

/-- The sum of z^(2j+1) / (2j+1), `n` terms, where `p` is z^(2k+1). -/
def atanhTail (z2 : Rat) : Nat → Nat → Rat → Rat
  | 0, _, _ => 0
  | n + 1, k, p => p / ((2 * k + 1 : Nat) : Rat) + atanhTail z2 n (k + 1) (p * z2)

/-- The base-2 logarithm of m * 2^e, from the nearest power of two. -/
def ratLog2 (m : Nat) (e : Int) : Rat :=
  let k := Nat.log2 m
  let k := if 3 * 2 ^ k < 2 * m then k + 1 else k
  let t := mkRat m (2 ^ k)
  let z := (t - 1) / (t + 1)
  ((k : Int) + e : Int) + 2 * atanhTail (z * z) 20 0 z / ratLn2

/-- 1 / sqrt(m * 2^e). -/
def ratRsqrt (m : Nat) (e : Int) : Rat :=
  let r := e % 2
  mkRat (isqrt (2 ^ 126 / (m * 2 ^ r.toNat))) (2 ^ 63) * ratPow2 (-((e - r) / 2))

/-- The hyperbolic tangent of a positive x. -/
def ratTanh (x : Rat) : Rat :=
  if 20 ≤ x then 1
  else
    let q := if 2 * x ≤ 1 then ratExpm1 (2 * x) else ratExp (2 * x) - 1
    q / (q + 2)

/-- 1 / (1 + e^-x). -/
def ratLogistic (x : Rat) : Rat :=
  if 40 ≤ x then 1
  else if x ≤ -200 then ratPow2 (-250)
  else 1 / (1 + ratExp (-x))

/-- The sum of (-x2)^j * x / (j! (2j+1)), `n` terms, where `p` is that of j = k without the last factor. -/
def erfTail (x2 : Rat) : Nat → Nat → Rat → Rat
  | 0, _, _ => 0
  | n + 1, k, p => p / ((2 * k + 1 : Nat) : Rat) + erfTail x2 n (k + 1) (-(p * x2) / ((k + 1 : Nat) : Rat))

/-- The error function of a positive x. -/
def ratErf (x : Rat) : Rat :=
  if 6 ≤ x then 1 else 2 * erfTail (x * x) (if x ≤ 1 then 24 else 160) 0 x / ratSqrtPi

/-! ## Accuracy -/

/-- The floor of the base-2 logarithm of a positive rational. -/
def ratLogFloor (q : Rat) : Int :=
  let g : Int := (Nat.log2 q.num.natAbs : Int) - (Nat.log2 q.den : Int)
  if ratPow2 g ≤ q then g else g - 1

/-- One unit in the last place of binary32 at an exact value. -/
def ulpAt (q : Rat) : Rat := if q = 0 then ratPow2 (-149) else ratPow2 (max (ratLogFloor (if q < 0 then -q else q)) (-126) - 23)

/-- A rational, correctly rounded. -/
def roundRat (q : Rat) : F32 :=
  let n := q.num.natAbs
  let k := 64 + Nat.log2 q.den
  let r := n * 2 ^ k / q.den
  f32Round (.fin (decide (q < 0)) (2 * r + (if n * 2 ^ k % q.den = 0 then 0 else 1)) (-(k : Int) - 1))

/-- The result lies within `n` ulp of the exact value; an infinity stands for 2^128. -/
def within (n : Nat) (y : F32) (q : Rat) : Bool :=
  let d : Option Rat := match f32Val y with
    | .nan => none
    | .inf s => if s = decide (q < 0) then some (if (if q < 0 then -q else q) ≥ ratPow2 128 then 0 else ratPow2 128 - (if q < 0 then -q else q)) else none
    | .fin s m e => some (if ratFin s m e < q then q - ratFin s m e else ratFin s m e - q)
  match d with
  | some d => decide (d ≤ (n : Rat) * ulpAt q)
  | none => false

/-- The open function's result where it keeps the accuracy, else the correctly rounded one, which always does. -/
def held (n : Nat) (y : F32) (q : Rat) : F32 := if within n y q then y else roundRat q

/-! ## The functions (R95) -/

/-- EXP2, to 1 ulp. A NaN gives the canonical NaN (R36). -/
def f32Exp2 (a : F32) : F32 :=
  match f32Val a with
  | .nan => f32Nan
  | .inf s => if s then 0 else f32Round (.inf false)
  | .fin s m e =>
    let x := ratFin s m e
    held 1 (Config.exp2 a) (ratExp2 (if 200 ≤ x then 200 else if x ≤ -250 then -250 else x))

/-- LOG2, to 1 ulp. -/
def f32Log2 (a : F32) : F32 :=
  match f32Val a with
  | .nan => f32Nan
  | .inf s => if s then f32Nan else Config.log2 a
  | .fin s m e => if m = 0 then f32Round (.inf true) else if s then f32Nan else held 1 (Config.log2 a) (ratLog2 m e)

/-- RSQRT, to 1 ulp. -/
def f32Rsqrt (a : F32) : F32 :=
  match f32Val a with
  | .nan => f32Nan
  | .inf s => if s then f32Nan else Config.rsqrt a
  | .fin s m e => if m = 0 then f32Round (.inf s) else if s then f32Nan else held 1 (Config.rsqrt a) (ratRsqrt m e)

/-- TANH, to 2 ulp. -/
def f32Tanh (a : F32) : F32 :=
  match f32Val a with
  | .nan => f32Nan
  | .inf s => if s then 0xBF800000#32 else 0x3F800000#32
  | .fin s m e => held 2 (Config.tanh a) (if s then -ratTanh (ratFin false m e) else ratTanh (ratFin false m e))

/-- LOGISTIC, to 2 ulp. -/
def f32Logistic (a : F32) : F32 :=
  match f32Val a with
  | .nan => f32Nan
  | .inf s => if s then 0 else 0x3F800000#32
  | .fin s m e => held 2 (Config.logistic a) (ratLogistic (ratFin s m e))

/-- ERF, to 2 ulp. -/
def f32Erf (a : F32) : F32 :=
  match f32Val a with
  | .nan => f32Nan
  | .inf s => if s then 0xBF800000#32 else 0x3F800000#32
  | .fin s m e => held 2 (Config.erf a) (if s then -ratErf (ratFin false m e) else ratErf (ratFin false m e))

end Sys2Proof.Machine
end

