-- ==== Sys2Proof/Machine/Vector.lean ====
section
/-! DEFINITION. Vector instructions: lane arithmetic, reductions, special functions and conversions (R33 to R36, R94 to R96, R118 to R120, R122). -/

namespace Sys2Proof.Machine

/-! ## Operands (R94) -/

/-- The cause of a 256-byte vector operand, or one of another length, that must lie in the tile store: range before alignment (R94, R106). TVAL holds the address of the first operand that meets the cause, sources before destination, which the spec does not order (log entry 87). -/
def vecCause (xs : List (Word × Nat)) : Option (Nat × Word) :=
  match xs.find? (fun x => !inTile x.1.toNat x.2) with
  | some x => some (cLocalRange, x.1)
  | none =>
    match xs.find? (fun x => x.1.toNat % 64 ≠ 0) with
    | some x => some (cMisaligned, x.1)
    | none => none

/-- 64 lanes of a vector. -/
def lanes (s : State) (c : CorePos) (a : Nat) : List F32 :=
  (List.range 64).map (fun i => BitVec.ofNat 32 (leNat (localRead s c (a + 4 * i) 4)))

def laneBytes (xs : List F32) : List Byte := (xs.map (fun x => leBytes 4 x.toNat)).flatten

/-- A 256-byte operand and one of n bytes overlap, other than from one address. The 4 bytes of a VRSUM or VRMAX at its source's own address do not count as a part overlap, which the spec does not say (log entry 16). -/
def partOverlap (a b n : Nat) : Bool := a ≠ b && decide (a < b + n) && decide (b < a + 256)

/-- A poisoned operand of the vector unit: the core raises the job stop and the instruction writes no output (R154). -/
def vecPoison (s : State) (p : Pos) : State :=
  let sl := strandSliceId s p
  let s := finish s p id
  let s := recordSlice s { source := srcCore (coreOf p), event := evUncorrectable, status := stPoisoned, location := BitVec.ofNat 64 (coreIx (coreOf p)) } sl
  raiseStopFor s sl stPoisoned

/-- The instruction's output is written and it completes; a success ends a run of failed executions (R120, R504). -/
def vecFinish (s : State) (p : Pos) (a : Nat) (bs : List Byte) (f : Strand → Strand) : State :=
  let c := coreOf p
  let s := spoilOver (localWrite s c a bs) c a bs.length
  let s := finish (bumpCore s c 5 1) p f
  modCore s c (fun k => { k with vecPin := none })

/-- The unit executes a vector instruction of another strand again, and this one's waits behind it (R119). -/
def behindPin (s : State) (p : Pos) : Bool :=
  (strandsOf (coreOf p)).any (fun q => q ≠ p && pinned s q)

/-- What holds a vector instruction back: a failed core and the floor put its strand in WAIT (R120, R453); behind one that the unit executes again it has not executed yet. -/
def vecIssue (s : State) (p : Pos) (body : State → State) : State :=
  if (getCore s (coreOf p)).failed then waitOn s p .failedCore
  else if atFloor s then waitOn s p .floor
  else if behindPin s p then s
  else body s

/-- Free lanes, where operands overlap in part: R94 gives no result (log entry 16). -/
def freeLanes (s : State) (n : Nat) : List Byte := freeBytes s.freeCtr n

/-- A vector instruction over operand addresses: traps, poison, and the result at d. `srcs` are the operands it reads. -/
def vecOp (s : State) (p : Pos) (d : Word) (dlen : Nat) (srcs : List Word) (f : State → List Byte) : State :=
  vecIssue s p (fun s =>
    match vecCause (srcs.map (fun a => (a, 256)) ++ [(d, dlen)]) with
    | some x => trapAt s p x.1 x.2
    | none =>
      let c := coreOf p
      if srcs.any (fun a => sramBad s (localKey c a.toNat) 256) then vecPoison s p
      else if srcs.any (fun a => partOverlap a.toNat d.toNat dlen || srcs.any (fun b => partOverlap a.toNat b.toNat 256)) then
        vecFinish { s with freeCtr := s.freeCtr + 1 } p d.toNat (freeLanes s dlen) id
      else vecFinish s p d.toNat (f s) id)

/-- A VOP over two vectors. -/
def vop2 (p : Pos) (g : Guard) (sd sa sb : BitVec 6) (f : F32 → F32 → F32) (s : State) : State :=
  issue s p g true [sd, sa, sb] (fun s =>
    let st := getStrand s p
    vecOp s p (rd st sd) 256 [rd st sa, rd st sb] (fun s =>
      laneBytes (List.zipWith f (lanes s (coreOf p) (rd st sa).toNat) (lanes s (coreOf p) (rd st sb).toNat))))

/-- A VOP over a vector and the FP32 value in a register. -/
def vopS (p : Pos) (g : Guard) (sd sa sb : BitVec 6) (f : F32 → F32 → F32) (s : State) : State :=
  issue s p g true [sd, sa, sb] (fun s =>
    let st := getStrand s p
    vecOp s p (rd st sd) 256 [rd st sa] (fun s =>
      laneBytes ((lanes s (coreOf p) (rd st sa).toNat).map (fun x => f x ((rd st sb).setWidth 32)))))

/-- A special function of every lane. -/
def vsf (p : Pos) (g : Guard) (sd sa : BitVec 6) (f : F32 → F32) (s : State) : State :=
  issue s p g true [sd, sa] (fun s =>
    let st := getStrand s p
    vecOp s p (rd st sd) 256 [rd st sa] (fun s => laneBytes ((lanes s (coreOf p) (rd st sa).toNat).map f)))

/-- One stage of a reduction: values 2j and 2j + 1. -/
def pairUp (f : F32 → F32 → F32) : List F32 → List F32
  | a :: b :: t => f a b :: pairUp f t
  | t => t

/-- The six stages of VRSUM and VRMAX. -/
def tree64 (f : F32 → F32 → F32) (xs : List F32) : F32 :=
  (pairUp f (pairUp f (pairUp f (pairUp f (pairUp f (pairUp f xs)))))).headD 0

/-- A reduction of 64 lanes into 4 bytes at d. -/
def vred (p : Pos) (g : Guard) (sd sa : BitVec 6) (f : F32 → F32 → F32) (s : State) : State :=
  issue s p g true [sd, sa] (fun s =>
    let st := getStrand s p
    vecOp s p (rd st sd) 4 [rd st sa] (fun s => leBytes 4 (tree64 f (lanes s (coreOf p) (rd st sa).toNat)).toNat))

def execVadd (p : Pos) (g : Guard) (sd sa sb : BitVec 6) (s : State) : Result := .next (vop2 p g sd sa sb f32Add s)
def execVsub (p : Pos) (g : Guard) (sd sa sb : BitVec 6) (s : State) : Result := .next (vop2 p g sd sa sb f32Sub s)
def execVmul (p : Pos) (g : Guard) (sd sa sb : BitVec 6) (s : State) : Result := .next (vop2 p g sd sa sb f32Mul s)

/-- VFMA: d := fma(a, b, d), one rounding; d is an operand it reads. -/
def execVfma (p : Pos) (g : Guard) (sd sa sb : BitVec 6) (s : State) : Result :=
  .next (issue s p g true [sd, sa, sb] (fun s =>
    let st := getStrand s p
    vecOp s p (rd st sd) 256 [rd st sa, rd st sb, rd st sd] (fun s =>
      let l (r : BitVec 6) : List F32 := lanes s (coreOf p) (rd st r).toNat
      laneBytes (List.zipWith (fun ab d => f32Fma ab.1 ab.2 d) ((l sa).zip (l sb)) (l sd)))))

def execVmax (p : Pos) (g : Guard) (sd sa sb : BitVec 6) (s : State) : Result := .next (vop2 p g sd sa sb f32Max s)
def execVmin (p : Pos) (g : Guard) (sd sa sb : BitVec 6) (s : State) : Result := .next (vop2 p g sd sa sb f32Min s)
def execVadds (p : Pos) (g : Guard) (sd sa sb : BitVec 6) (s : State) : Result := .next (vopS p g sd sa sb f32Add s)
def execVmuls (p : Pos) (g : Guard) (sd sa sb : BitVec 6) (s : State) : Result := .next (vopS p g sd sa sb f32Mul s)
def execVrsum (p : Pos) (g : Guard) (sd sa : BitVec 6) (s : State) : Result := .next (vred p g sd sa f32Add s)
def execVrmax (p : Pos) (g : Guard) (sd sa : BitVec 6) (s : State) : Result := .next (vred p g sd sa f32Max s)
def execExp2 (p : Pos) (g : Guard) (sd sa : BitVec 6) (s : State) : Result := .next (vsf p g sd sa f32Exp2 s)
def execLog2 (p : Pos) (g : Guard) (sd sa : BitVec 6) (s : State) : Result := .next (vsf p g sd sa f32Log2 s)
def execRcp (p : Pos) (g : Guard) (sd sa : BitVec 6) (s : State) : Result := .next (vsf p g sd sa f32Rcp s)
def execRsqrt (p : Pos) (g : Guard) (sd sa : BitVec 6) (s : State) : Result := .next (vsf p g sd sa f32Rsqrt s)
def execSqrt (p : Pos) (g : Guard) (sd sa : BitVec 6) (s : State) : Result := .next (vsf p g sd sa f32Sqrt s)
def execTanh (p : Pos) (g : Guard) (sd sa : BitVec 6) (s : State) : Result := .next (vsf p g sd sa f32Tanh s)
def execLogistic (p : Pos) (g : Guard) (sd sa : BitVec 6) (s : State) : Result := .next (vsf p g sd sa f32Logistic s)
def execErf (p : Pos) (g : Guard) (sd sa : BitVec 6) (s : State) : Result := .next (vsf p g sd sa f32Erf s)

/-! ## VCVT (R96) -/

/-- Bytes of 64 elements of a format, scales included. -/
def vcvtBytes (c : Code) : Nat := 8 * c.width + (if c.isMx then 2 else 0)

/-- The 64 values a source holds. -/
def vcvtRead (c : Code) (bs : List Byte) : List FVal :=
  let row := leNat (bs.take (8 * c.width))
  (List.range 64).map (fun i =>
    let v := packedElem c row i
    if c.isMx then scaled (leNat ((bs.drop (8 * c.width + i / 32)).take 1)) v else v)

/-- Values read that are NaN: each sets NAN (R39). -/
def nanFlags (vs : List FVal) : Flags4 := flagIf (vs.any isNanV) flNAN

/-- The bytes and flags of 64 values written in a format. -/
def vcvtWrite (c : Code) (sat : Bool) (vs : List FVal) : List Byte × Flags4 :=
  if c.isMx then
    let r := mxRow c 2 vs
    (leBytes (8 * c.width) (packBits c.width r.1) ++ r.2.1.map (fun x => BitVec.ofNat 8 x), r.2.2)
  else
    let es := vs.map (convElem c sat)
    (leBytes (8 * c.width) (packBits c.width (es.map (·.1))), orFl (es.map (·.2)))

/-- The control value names formats, exactly one of them FP32, and sets no reserved bit. -/
def vcvtCtl (x : Word) : Option (Code × Code × Bool) :=
  if x.toNat ≥ 512 then none
  else match codeOf (fieldN x.toNat 0 4), codeOf (fieldN x.toNat 4 4) with
    | some a, some b => if (a = .fp32) != (b = .fp32) then some (a, b, x.getLsbD 8) else none
    | _, _ => none

/-- Source and destination ranges overlap other than exactly. -/
def vcvtClash (a n b m : Nat) : Bool := decide (a < b + m) && decide (b < a + n) && !(a = b && n = m)

/-- VCVT (R96): a control value that breaks its rules traps with ILLEGAL_OP; flags are ORed into FLAGS. -/
def execVcvt (p : Pos) (g : Guard) (sd sa sb : BitVec 6) (s : State) : Result :=
  .next (issue s p g true [sd, sa, sb] (fun s =>
    let st := getStrand s p
    let a := rd st sa
    let d := rd st sd
    vecIssue s p (fun s =>
      match vcvtCtl (rd st sb) with
      | none => trapFree s p cIllegal
      | some (x, y, sat) =>
        match vecCause [(a, vcvtBytes x), (d, vcvtBytes y)] with
        | some t => trapAt s p t.1 t.2
        | none =>
          let c := coreOf p
          if sramBad s (localKey c a.toNat) (vcvtBytes x) then vecPoison s p
          else
            let vs := vcvtRead x (localRead s c a.toNat (vcvtBytes x))
            let r := vcvtWrite y sat vs
            let fl := nanFlags vs ||| r.2
            if vcvtClash a.toNat (vcvtBytes x) d.toNat (vcvtBytes y) then
              vecFinish { s with freeCtr := s.freeCtr + 1 } p d.toNat (freeLanes s (vcvtBytes y)) (fun st => orFlags st fl)
            else vecFinish s p d.toNat r.1 (fun st => orFlags st fl))))

/-- Executions of the strand's present instruction that have failed (R120). -/
def failsOf (s : State) (p : Pos) : Nat :=
  if pinned s p then (match (getCore s (coreOf p)).vecPin with
    | some v => v.fails
    | none => 0)
  else 0

/-- The pin of the strand's present instruction after one more failure. -/
def pinOf (s : State) (p : Pos) : VecPin := { strand := p.strand, gen := (getStrand s p).gen, pc := (getStrand s p).pc, fails := failsOf s p + 1 }

/-- VECTOR_RESIDUE_FAIL (R119, R120): a check of a vector instruction of the strand fails before its output is written. The unit executes it again, and later vector instructions of the core wait behind it; the third failure of one instruction marks the core failed. -/
def execVectorResidueFail (p : Pos) (s : State) : Result :=
  let c := coreOf p
  .next (
    if !canIssue s p || (getCore s c).failed || atFloor s || behindPin s p then s
    else if failsOf s p < 2 then modCore s c (fun k => { k with vecPin := some (pinOf s p), vecRecomp := satUp k.vecRecomp 1 0xFFFF })
    else failCore (modCore s c (fun k => { k with vecPin := none })) c)

end Sys2Proof.Machine
end

