-- ==== Sys2Proof/Machine/Dispatch.lean ====
section
/-! DEFINITION. One arm for each command: its meaning, or its rejection by name. -/

namespace Sys2Proof.Machine

def exec (i : Instr) (s : State) : Host.Outcome State Fault Refusal :=
  match i with
  | .add p g sd sa sb => Sys2Proof.Machine.execAdd p g sd sa sb s
  | .sub p g sd sa sb => Sys2Proof.Machine.execSub p g sd sa sb s
  | .and p g sd sa sb => Sys2Proof.Machine.execAnd p g sd sa sb s
  | .or p g sd sa sb => Sys2Proof.Machine.execOr p g sd sa sb s
  | .xor p g sd sa sb => Sys2Proof.Machine.execXor p g sd sa sb s
  | .sll p g sd sa sb => Sys2Proof.Machine.execSll p g sd sa sb s
  | .srl p g sd sa sb => Sys2Proof.Machine.execSrl p g sd sa sb s
  | .sra p g sd sa sb => Sys2Proof.Machine.execSra p g sd sa sb s
  | .min p g sd sa sb => Sys2Proof.Machine.execMin p g sd sa sb s
  | .max p g sd sa sb => Sys2Proof.Machine.execMax p g sd sa sb s
  | .minu p g sd sa sb => Sys2Proof.Machine.execMinu p g sd sa sb s
  | .maxu p g sd sa sb => Sys2Proof.Machine.execMaxu p g sd sa sb s
  | .clz p g sd sa sb => Sys2Proof.Machine.execClz p g sd sa sb s
  | .popc p g sd sa sb => Sys2Proof.Machine.execPopc p g sd sa sb s
  | .andn p g sd sa sb => Sys2Proof.Machine.execAndn p g sd sa sb s
  | .ctz p g sd sa sb => Sys2Proof.Machine.execCtz p g sd sa sb s
  | .mul p g sd sa sb => Sys2Proof.Machine.execMul p g sd sa sb s
  | .mulh p g sd sa sb => Sys2Proof.Machine.execMulh p g sd sa sb s
  | .mulhu p g sd sa sb => Sys2Proof.Machine.execMulhu p g sd sa sb s
  | .div p g sd sa sb => Sys2Proof.Machine.execDiv p g sd sa sb s
  | .divu p g sd sa sb => Sys2Proof.Machine.execDivu p g sd sa sb s
  | .rem p g sd sa sb => Sys2Proof.Machine.execRem p g sd sa sb s
  | .remu p g sd sa sb => Sys2Proof.Machine.execRemu p g sd sa sb s
  | .cmp p g cond pd sa sb fn => Sys2Proof.Machine.execCmp p g cond pd sa sb fn s
  | .cmpi p g cond pd sa imm => Sys2Proof.Machine.execCmpi p g cond pd sa imm s
  | .pand p g pd pa pb => Sys2Proof.Machine.execPand p g pd pa pb s
  | .por p g pd pa pb => Sys2Proof.Machine.execPor p g pd pa pb s
  | .pxor p g pd pa pb => Sys2Proof.Machine.execPxor p g pd pa pb s
  | .pandn p g pd pa pb => Sys2Proof.Machine.execPandn p g pd pa pb s
  | .pnot p g pd pa => Sys2Proof.Machine.execPnot p g pd pa s
  | .pget p g sd => Sys2Proof.Machine.execPget p g sd s
  | .pset p g sa => Sys2Proof.Machine.execPset p g sa s
  | .addi p g sd sa imm => Sys2Proof.Machine.execAddi p g sd sa imm s
  | .andi p g sd sa imm => Sys2Proof.Machine.execAndi p g sd sa imm s
  | .ori p g sd sa imm => Sys2Proof.Machine.execOri p g sd sa imm s
  | .xori p g sd sa imm => Sys2Proof.Machine.execXori p g sd sa imm s
  | .shi p g sd sa imm => Sys2Proof.Machine.execShi p g sd sa imm s
  | .li p g sd imm => Sys2Proof.Machine.execLi p g sd imm s
  | .ins16 p g sd imm => Sys2Proof.Machine.execIns16 p g sd imm s
  | .ins32 p g sd imm => Sys2Proof.Machine.execIns32 p g sd imm s
  | .ins48 p g sd imm => Sys2Proof.Machine.execIns48 p g sd imm s
  | .br p g disp => Sys2Proof.Machine.execBr p g disp s
  | .call p g disp => Sys2Proof.Machine.execCall p g disp s
  | .jr p g sd sa => Sys2Proof.Machine.execJr p g sd sa s
  | .ldlB p g sd sa imm => Sys2Proof.Machine.execLdlB p g sd sa imm s
  | .ldlH p g sd sa imm => Sys2Proof.Machine.execLdlH p g sd sa imm s
  | .ldlW p g sd sa imm => Sys2Proof.Machine.execLdlW p g sd sa imm s
  | .ldlWs p g sd sa imm => Sys2Proof.Machine.execLdlWs p g sd sa imm s
  | .ldlD p g sd sa imm => Sys2Proof.Machine.execLdlD p g sd sa imm s
  | .stlB p g sd sa imm => Sys2Proof.Machine.execStlB p g sd sa imm s
  | .stlH p g sd sa imm => Sys2Proof.Machine.execStlH p g sd sa imm s
  | .stlW p g sd sa imm => Sys2Proof.Machine.execStlW p g sd sa imm s
  | .stlD p g sd sa imm => Sys2Proof.Machine.execStlD p g sd sa imm s
  | .gld p g sd sa sb ks w => Sys2Proof.Machine.execGld p g sd sa sb ks w s
  | .gst p g sd sa sb ks w => Sys2Proof.Machine.execGst p g sd sa sb ks w s
  | .gather p g sa sb => Sys2Proof.Machine.execGather p g sa sb s
  | .aadd p g sd sa sb ks w => Sys2Proof.Machine.execAadd p g sd sa sb ks w s
  | .aand p g sd sa sb ks w => Sys2Proof.Machine.execAand p g sd sa sb ks w s
  | .aor p g sd sa sb ks w => Sys2Proof.Machine.execAor p g sd sa sb ks w s
  | .axor p g sd sa sb ks w => Sys2Proof.Machine.execAxor p g sd sa sb ks w s
  | .amin p g sd sa sb ks w => Sys2Proof.Machine.execAmin p g sd sa sb ks w s
  | .amax p g sd sa sb ks w => Sys2Proof.Machine.execAmax p g sd sa sb ks w s
  | .aminu p g sd sa sb ks w => Sys2Proof.Machine.execAminu p g sd sa sb ks w s
  | .amaxu p g sd sa sb ks w => Sys2Proof.Machine.execAmaxu p g sd sa sb ks w s
  | .aswap p g sd sa sb ks w => Sys2Proof.Machine.execAswap p g sd sa sb ks w s
  | .acas p g sd sa sb ks w => Sys2Proof.Machine.execAcas p g sd sa sb ks w s
  | .reds p g fmt sa sb ks form => Sys2Proof.Machine.execReds p g fmt sa sb ks form s
  | .tmma p g eng td sa sb init final => Sys2Proof.Machine.execTmma p g eng td sa sb init final s
  | .tld p g td sa => Sys2Proof.Machine.execTld p g td sa s
  | .tst p g td sa => Sys2Proof.Machine.execTst p g td sa s
  | .vadd p g sd sa sb => Sys2Proof.Machine.execVadd p g sd sa sb s
  | .vsub p g sd sa sb => Sys2Proof.Machine.execVsub p g sd sa sb s
  | .vmul p g sd sa sb => Sys2Proof.Machine.execVmul p g sd sa sb s
  | .vfma p g sd sa sb => Sys2Proof.Machine.execVfma p g sd sa sb s
  | .vmax p g sd sa sb => Sys2Proof.Machine.execVmax p g sd sa sb s
  | .vmin p g sd sa sb => Sys2Proof.Machine.execVmin p g sd sa sb s
  | .vadds p g sd sa sb => Sys2Proof.Machine.execVadds p g sd sa sb s
  | .vmuls p g sd sa sb => Sys2Proof.Machine.execVmuls p g sd sa sb s
  | .vrsum p g sd sa => Sys2Proof.Machine.execVrsum p g sd sa s
  | .vrmax p g sd sa => Sys2Proof.Machine.execVrmax p g sd sa s
  | .exp2 p g sd sa => Sys2Proof.Machine.execExp2 p g sd sa s
  | .log2 p g sd sa => Sys2Proof.Machine.execLog2 p g sd sa s
  | .rcp p g sd sa => Sys2Proof.Machine.execRcp p g sd sa s
  | .rsqrt p g sd sa => Sys2Proof.Machine.execRsqrt p g sd sa s
  | .sqrt p g sd sa => Sys2Proof.Machine.execSqrt p g sd sa s
  | .tanh p g sd sa => Sys2Proof.Machine.execTanh p g sd sa s
  | .logistic p g sd sa => Sys2Proof.Machine.execLogistic p g sd sa s
  | .erf p g sd sa => Sys2Proof.Machine.execErf p g sd sa s
  | .vcvt p g sd sa sb => Sys2Proof.Machine.execVcvt p g sd sa sb s
  | .fenceAcq p g => Sys2Proof.Machine.execFenceAcq p g s
  | .fenceRel p g => Sys2Proof.Machine.execFenceRel p g s
  | .fenceFull p g => Sys2Proof.Machine.execFenceFull p g s
  | .twait p g => Sys2Proof.Machine.execTwait p g s
  | .waitc p g pd sa sb => Sys2Proof.Machine.execWaitc p g pd sa sb s
  | .rdc p g sd sa => Sys2Proof.Machine.execRdc p g sd sa s
  | .bar p g sa sb => Sys2Proof.Machine.execBar p g sa sb s
  | .rsr p g sd imm => Sys2Proof.Machine.execRsr p g sd imm s
  | .wsr p g sa imm => Sys2Proof.Machine.execWsr p g sa imm s
  | .stopI p g => Sys2Proof.Machine.execStopI p g s
  | .yieldI p g => Sys2Proof.Machine.execYieldI p g s
  | .spawn p g pd sa sb => Sys2Proof.Machine.execSpawn p g pd sa sb s
  | .trap p g sa => Sys2Proof.Machine.execTrap p g sa s
  | .rett p g => Sys2Proof.Machine.execRett p g s
  | .icinv p g => Sys2Proof.Machine.execIcinv p g s
  | .bkpt p g => Sys2Proof.Machine.execBkpt p g s
  | .strandWake p => Sys2Proof.Machine.execStrandWake p s
  | .waitcTimeout p => Sys2Proof.Machine.execWaitcTimeout p s
  | .coreGate c => Sys2Proof.Machine.execCoreGate c s
  | .coreWake c => Sys2Proof.Machine.execCoreWake c s
  | .globalResponse die id => Sys2Proof.Machine.execGlobalResponse die id s
  | .poisonedFetch p => Sys2Proof.Machine.execPoisonedFetch p s
  | .tmmaStart c eng => Sys2Proof.Machine.execTmmaStart c eng s
  | .tmmaComplete c eng => Sys2Proof.Machine.execTmmaComplete c eng s
  | .engineGate c eng => Sys2Proof.Machine.execEngineGate c eng s
  | .engineWake c eng => Sys2Proof.Machine.execEngineWake c eng s
  | .engineResidueFail c eng => Sys2Proof.Machine.execEngineResidueFail c eng s
  | .vectorResidueFail p => Sys2Proof.Machine.execVectorResidueFail p s
  | .gatherLineResponse die cluster slot rd => Sys2Proof.Machine.execGatherLineResponse die cluster slot rd s
  | .spareSubstitute die cluster => Sys2Proof.Machine.execSpareSubstitute die cluster s
  | .clusterRenumber die => Sys2Proof.Machine.execClusterRenumber die s
  | .d2dFailover link => Sys2Proof.Machine.execD2dFailover link s
  | .d2dReturn link => Sys2Proof.Machine.execD2dReturn link s
  | .patrolRead die sector symbols row => Sys2Proof.Machine.execPatrolRead die sector symbols row s
  | .patrolPassComplete die => Sys2Proof.Machine.execPatrolPassComplete die s
  | .hbmRefresh stack => Sys2Proof.Machine.execHbmRefresh stack s
  | .hbmTempSample stack temp => Sys2Proof.Machine.execHbmTempSample stack temp s
  | .rowRepair row => Sys2Proof.Machine.execRowRepair row s
  | .repairRecordAppend => Sys2Proof.Machine.execRepairRecordAppend s
  | .granuleScrubStart die g => Sys2Proof.Machine.execGranuleScrubStart die g s
  | .granuleZeroed die g => Sys2Proof.Machine.execGranuleZeroed die g s
  | .stackFail stack => Sys2Proof.Machine.execStackFail stack s
  | .sramScrub a word bitsWrong => Sys2Proof.Machine.execSramScrub a word bitsWrong s
  | .firstValidRearm sel value => Sys2Proof.Machine.execFirstValidRearm sel value s
  | .periodHWrite die value => Sys2Proof.Machine.execPeriodHWrite die value s
  | .homeRequest die r => Sys2Proof.Machine.execHomeRequest die r s
  | .homeUpdate die src flow seq symbols row => Sys2Proof.Machine.execHomeUpdate die src flow seq symbols row s
  | .responseArrive die r => Sys2Proof.Machine.execResponseArrive die r s
  | .responseTimeout die flow seq => Sys2Proof.Machine.execResponseTimeout die flow seq s
  | .replayEntryExpire die src flow seq => Sys2Proof.Machine.execReplayEntryExpire die src flow seq s
  | .ringWake ring => Sys2Proof.Machine.execRingWake ring s
  | .descriptorStart ring => Sys2Proof.Machine.execDescriptorStart ring s
  | .descriptorRetire ring => Sys2Proof.Machine.execDescriptorRetire ring s
  | .copyDelegate issuer ring slot slice desc => Sys2Proof.Machine.execCopyDelegate issuer ring slot slice desc s
  | .copyStart src slice tag op dst dkey dctr dcen cunit length mkh => Sys2Proof.Machine.execCopyStart src slice tag op dst dkey dctr dcen cunit length mkh s
  | .bulkData src flow seq tag offset data crc bad => Sys2Proof.Machine.execBulkData src flow seq tag offset data crc bad s
  | .bulkAck flow cum map => Sys2Proof.Machine.execBulkAck flow cum map s
  | .bulkAckTimer src flow => Sys2Proof.Machine.execBulkAckTimer src flow s
  | .retransmissionTimer flow => Sys2Proof.Machine.execRetransmissionTimer flow s
  | .bulkFlowFail flow => Sys2Proof.Machine.execBulkFlowFail flow s
  | .copyEnd toIssuer tag status counted => Sys2Proof.Machine.execCopyEnd toIssuer tag status counted s
  | .flowOpen src dst flow bulk slice seq0 => Sys2Proof.Machine.execFlowOpen src dst flow bulk slice seq0 s
  | .flowOpenAck flow recv => Sys2Proof.Machine.execFlowOpenAck flow recv s
  | .flowOpenNak flow status => Sys2Proof.Machine.execFlowOpenNak flow status s
  | .flowOpenRetry flow => Sys2Proof.Machine.execFlowOpenRetry flow s
  | .flowClose src flow => Sys2Proof.Machine.execFlowClose src flow s
  | .flowIdleClose flow => Sys2Proof.Machine.execFlowIdleClose flow s
  | .couchC4Resend id => Sys2Proof.Machine.execCouchC4Resend id s
  | .flowContextError flow => Sys2Proof.Machine.execFlowContextError flow s
  | .quireWake ctx => Sys2Proof.Machine.execQuireWake ctx s
  | .entryStart ctx => Sys2Proof.Machine.execEntryStart ctx s
  | .groupJoin src gid gepoch mapcrc => Sys2Proof.Machine.execGroupJoin src gid gepoch mapcrc s
  | .groupReady gid gepoch => Sys2Proof.Machine.execGroupReady gid gepoch s
  | .joinTimeout ctx => Sys2Proof.Machine.execJoinTimeout ctx s
  | .chunkUp src h data flags last crcOk crowd => Sys2Proof.Machine.execChunkUp src h data flags last crcOk crowd s
  | .chunkDown src h data flags last crcOk crowd => Sys2Proof.Machine.execChunkDown src h data flags last crcOk crowd s
  | .chunkAck src h cum crowd => Sys2Proof.Machine.execChunkAck src h cum crowd s
  | .chunkRereq src h => Sys2Proof.Machine.execChunkRereq src h s
  | .chunkMissingTimer ctx peer chunk => Sys2Proof.Machine.execChunkMissingTimer ctx peer chunk s
  | .arrive src h node verdict => Sys2Proof.Machine.execArrive src h node verdict s
  | .release h t node => Sys2Proof.Machine.execRelease h t node s
  | .barrierPrewake ctx => Sys2Proof.Machine.execBarrierPrewake ctx s
  | .barrierRelease ctx => Sys2Proof.Machine.execBarrierRelease ctx s
  | .digest src h rank bytes => Sys2Proof.Machine.execDigest src h rank bytes s
  | .abortReq src h cause drill => Sys2Proof.Machine.execAbortReq src h cause drill s
  | .abortI h code cause drill => Sys2Proof.Machine.execAbortI h code cause drill s
  | .doneI h code flags t => Sys2Proof.Machine.execDoneI h code flags t s
  | .refuse src h status => Sys2Proof.Machine.execRefuse src h status s
  | .outcomeQuery src h => Sys2Proof.Machine.execOutcomeQuery src h s
  | .outcomeReply src h seen code flags t => Sys2Proof.Machine.execOutcomeReply src h seen code flags t s
  | .operationTimeout ctx => Sys2Proof.Machine.execOperationTimeout ctx s
  | .collC4Resend id => Sys2Proof.Machine.execCollC4Resend id s
  | .laneResidueFail lane => Sys2Proof.Machine.execLaneResidueFail lane s
  | .lendRequest => Sys2Proof.Machine.execLendRequest s
  | .lendWithdraw => Sys2Proof.Machine.execLendWithdraw s
  | .fabricTimeTick => Sys2Proof.Machine.execFabricTimeTick s
  | .announceSend => Sys2Proof.Machine.execAnnounceSend s
  | .announce port gm prio hops state => Sys2Proof.Machine.execAnnounce port gm prio hops state s
  | .syncReqSend => Sys2Proof.Machine.execSyncReqSend s
  | .syncReq port t1 => Sys2Proof.Machine.execSyncReq port t1 s
  | .syncResp port t1 t2 t3 afterResume => Sys2Proof.Machine.execSyncResp port t1 t2 t3 afterResume s
  | .parentLost => Sys2Proof.Machine.execParentLost s
  | .parentSelect => Sys2Proof.Machine.execParentSelect s
  | .ppsInEdge => Sys2Proof.Machine.execPpsInEdge s
  | .ppsLoss => Sys2Proof.Machine.execPpsLoss s
  | .secondBoundary => Sys2Proof.Machine.execSecondBoundary s
  | .ppsOutFall => Sys2Proof.Machine.execPpsOutFall s
  | .tbCtrlWrite value => Sys2Proof.Machine.execTbCtrlWrite value s
  | .packetArrive port vc p => Sys2Proof.Machine.execPacketArrive port vc p s
  | .packetLink port vc => Sys2Proof.Machine.execPacketLink port vc s
  | .residueWrite port slot out => Sys2Proof.Machine.execResidueWrite port slot out s
  | .waleEscape port cls cycles => Sys2Proof.Machine.execWaleEscape port cls cycles s
  | .unroutableDiscard port vc => Sys2Proof.Machine.execUnroutableDiscard port vc s
  | .outputSend port => Sys2Proof.Machine.execOutputSend port s
  | .credit port vc count => Sys2Proof.Machine.execCredit port vc count s
  | .cellError port vc index => Sys2Proof.Machine.execCellError port vc index s
  | .waleWaitWrite value => Sys2Proof.Machine.execWaleWaitWrite value s
  | .swMeterWrite slot value => Sys2Proof.Machine.execSwMeterWrite slot value s
  | .swDropProfileWrite index value => Sys2Proof.Machine.execSwDropProfileWrite index value s
  | .swPortCtrlWrite port value => Sys2Proof.Machine.execSwPortCtrlWrite port value s
  | .groupDown oe => Sys2Proof.Machine.execGroupDown oe s
  | .probe port detector target relays => Sys2Proof.Machine.execProbe port detector target relays s
  | .probeReply port target detector => Sys2Proof.Machine.execProbeReply port target detector s
  | .probeTimeout oe => Sys2Proof.Machine.execProbeTimeout oe s
  | .nodeLost port lost t => Sys2Proof.Machine.execNodeLost port lost t s
  | .linkLost port a b t => Sys2Proof.Machine.execLinkLost port a b t s
  | .nodeBack port back epoch => Sys2Proof.Machine.execNodeBack port back epoch s
  | .oldBankRetire => Sys2Proof.Machine.execOldBankRetire s
  | .segmentReceive port sseq kph v items => Sys2Proof.Machine.execSegmentReceive port sseq kph v items s
  | .ack port sseq => Sys2Proof.Machine.execAck port sseq s
  | .ackTimer port => Sys2Proof.Machine.execAckTimer port s
  | .nak port sseq => Sys2Proof.Machine.execNak port sseq s
  | .nakResendTimer port => Sys2Proof.Machine.execNakResendTimer port s
  | .resume port sseq => Sys2Proof.Machine.execResume port sseq s
  | .portDown port cause => Sys2Proof.Machine.execPortDown port cause s
  | .portLight port => Sys2Proof.Machine.execPortLight port s
  | .lockAcquired port => Sys2Proof.Machine.execLockAcquired port s
  | .lockTimeout port => Sys2Proof.Machine.execLockTimeout port s
  | .eqComplete port clean => Sys2Proof.Machine.execEqComplete port clean s
  | .deskewComplete port peerLevel lanesInOrder => Sys2Proof.Machine.execDeskewComplete port peerLevel lanesInOrder s
  | .lkKeyx port chainOk sigOk opDigest notBefore => Sys2Proof.Machine.execLkKeyx port chainOk sigOk opDigest notBefore s
  | .identCheck port peer oe index => Sys2Proof.Machine.execIdentCheck port peer oe index s
  | .trainingRetry port => Sys2Proof.Machine.execTrainingRetry port s
  | .rekeyStart port => Sys2Proof.Machine.execRekeyStart port s
  | .lkRekey port chainOk sigOk opDigest notBefore => Sys2Proof.Machine.execLkRekey port chainOk sigOk opDigest notBefore s
  | .feedMeasure oe powerA powerB => Sys2Proof.Machine.execFeedMeasure oe powerA powerB s
  | .lkLaneWrite index value => Sys2Proof.Machine.execLkLaneWrite index value s
  | .nop h => Sys2Proof.Machine.execNop h s
  | .identify h => Sys2Proof.Machine.execIdentify h s
  | .regRead h sel n => Sys2Proof.Machine.execRegRead h sel n s
  | .regWrite h sel value => Sys2Proof.Machine.execRegWrite h sel value s
  | .resultRead h tag part => Sys2Proof.Machine.execResultRead h tag part s
  | .resultRelease h tag => Sys2Proof.Machine.execResultRelease h tag s
  | .abortCommand h tag => Sys2Proof.Machine.execAbortCommand h tag s
  | .timeSet h seconds => Sys2Proof.Machine.execTimeSet h seconds s
  | .domainReset h domain => Sys2Proof.Machine.execDomainReset h domain s
  | .txnOpen h => Sys2Proof.Machine.execTxnOpen h s
  | .txnCheck h handle => Sys2Proof.Machine.execTxnCheck h handle s
  | .txnCommitAt h handle t => Sys2Proof.Machine.execTxnCommitAt h handle t s
  | .txnCommitFire handle => Sys2Proof.Machine.execTxnCommitFire handle s
  | .txnDiscard h handle => Sys2Proof.Machine.execTxnDiscard h handle s
  | .txnExpire handle => Sys2Proof.Machine.execTxnExpire handle s
  | .sliceStage h handle desc => Sys2Proof.Machine.execSliceStage h handle desc s
  | .sliceRepulp h slice => Sys2Proof.Machine.execSliceRepulp h slice s
  | .sliceStatus h => Sys2Proof.Machine.execSliceStatus h s
  | .sliceLaunch h offset arg => Sys2Proof.Machine.execSliceLaunch h offset arg s
  | .strandCtrl h die cluster core strand action offset => Sys2Proof.Machine.execStrandCtrl h die cluster core strand action offset s
  | .jobStop h => Sys2Proof.Machine.execJobStop h s
  | .jobRestart h => Sys2Proof.Machine.execJobRestart h s
  | .memWrite h addr data => Sys2Proof.Machine.execMemWrite h addr data s
  | .memRead h addr len => Sys2Proof.Machine.execMemRead h addr len s
  | .counterAdd h die counter value => Sys2Proof.Machine.execCounterAdd h die counter value s
  | .ringDefine h ring die log2n weight base pi ci => Sys2Proof.Machine.execRingDefine h ring die log2n weight base pi ci s
  | .ringReset h ring => Sys2Proof.Machine.execRingReset h ring s
  | .ringDelete h ring => Sys2Proof.Machine.execRingDelete h ring s
  | .deckleDefine h endpoint log2size perm sameSlice base => Sys2Proof.Machine.execDeckleDefine h endpoint log2size perm sameSlice base s
  | .deckleRevoke h index => Sys2Proof.Machine.execDeckleRevoke h index s
  | .deckleRead h index => Sys2Proof.Machine.execDeckleRead h index s
  | .mouldKeyLoad h mkh keyId unwrapOk => Sys2Proof.Machine.execMouldKeyLoad h mkh keyId unwrapOk s
  | .mouldKeyDrop h mkh => Sys2Proof.Machine.execMouldKeyDrop h mkh s
  | .coordSet h w x y z => Sys2Proof.Machine.execCoordSet h w x y z s
  | .routeStage h handle bank => Sys2Proof.Machine.execRouteStage h handle bank s
  | .linkRetrain h port => Sys2Proof.Machine.execLinkRetrain h port s
  | .groupStage h handle desc => Sys2Proof.Machine.execGroupStage h handle desc s
  | .groupDeleteStage h handle gid => Sys2Proof.Machine.execGroupDeleteStage h handle gid s
  | .groupAbort h gid opseq => Sys2Proof.Machine.execGroupAbort h gid opseq s
  | .groupStatus h gid => Sys2Proof.Machine.execGroupStatus h gid s
  | .attest h nonce => Sys2Proof.Machine.execAttest h nonce s
  | .certRead h index => Sys2Proof.Machine.execCertRead h index s
  | .sessionOpen h payload pointOk sigVerdict => Sys2Proof.Machine.execSessionOpen h payload pointOk sigVerdict s
  | .sessionClose h => Sys2Proof.Machine.execSessionClose h s
  | .usageRead h nonce => Sys2Proof.Machine.execUsageRead h nonce s
  | .opkeyRotate h newKey proofOk => Sys2Proof.Machine.execOpkeyRotate h newKey proofOk s
  | .pwrCapSet h cap => Sys2Proof.Machine.execPwrCapSet h cap s
  | .pwrStatus h => Sys2Proof.Machine.execPwrStatus h s
  | .bkptSet h b => Sys2Proof.Machine.execBkptSet h b s
  | .bkptClear h number => Sys2Proof.Machine.execBkptClear h number s
  | .strandHalt h die cluster core strand => Sys2Proof.Machine.execStrandHalt h die cluster core strand s
  | .strandResume h die cluster core strand => Sys2Proof.Machine.execStrandResume h die cluster core strand s
  | .samplerCfg h c => Sys2Proof.Machine.execSamplerCfg h c s
  | .watermarkCfg h c => Sys2Proof.Machine.execWatermarkCfg h c s
  | .eventFreeze h source action kind => Sys2Proof.Machine.execEventFreeze h source action kind s
  | .blackboxRead h start n kind => Sys2Proof.Machine.execBlackboxRead h start n kind s
  | .drillSchedule h d => Sys2Proof.Machine.execDrillSchedule h d s
  | .testUnlock h imageDigest => Sys2Proof.Machine.execTestUnlock h imageDigest s
  | .fwStageBegin h slot kind length => Sys2Proof.Machine.execFwStageBegin h slot kind length s
  | .fwStageData h offset data => Sys2Proof.Machine.execFwStageData h offset data s
  | .fwStageEnd h signaturesOk => Sys2Proof.Machine.execFwStageEnd h signaturesOk s
  | .fwActivate h slot => Sys2Proof.Machine.execFwActivate h slot s
  | .fwStatus h => Sys2Proof.Machine.execFwStatus h s
  | .sliceSwitchOut slot => Sys2Proof.Machine.execSliceSwitchOut slot s
  | .switchOutDrained slot => Sys2Proof.Machine.execSwitchOutDrained slot s
  | .sliceSwitchIn slot => Sys2Proof.Machine.execSliceSwitchIn slot s
  | .evidenceBatch => Sys2Proof.Machine.execEvidenceBatch s
  | .aklRenew => Sys2Proof.Machine.execAklRenew s
  | .usageSnapshot => Sys2Proof.Machine.execUsageSnapshot s
  | .powerSample rails dieTemps stackTemps oeTemps fdTemp => Sys2Proof.Machine.execPowerSample rails dieTemps stackTemps oeTemps fdTemp s
  | .dvfsStep die dir => Sys2Proof.Machine.execDvfsStep die dir s
  | .throttleNAssert => Sys2Proof.Machine.execThrottleNAssert s
  | .throttleNRelease => Sys2Proof.Machine.execThrottleNRelease s
  | .rackCapWrite lo hi => Sys2Proof.Machine.execRackCapWrite lo hi s
  | .entdaa addr => Sys2Proof.Machine.execEntdaa addr s
  | .thermalSample dieTemps oeTemps fdTemp => Sys2Proof.Machine.execThermalSample dieTemps oeTemps fdTemp s
  | .clusterPllGate die cluster => Sys2Proof.Machine.execClusterPllGate die cluster s
  | .diePowerGate die => Sys2Proof.Machine.execDiePowerGate die s
  | .resetNAssert pwrOk => Sys2Proof.Machine.execResetNAssert pwrOk s
  | .resetNRelease straps => Sys2Proof.Machine.execResetNRelease straps s
  | .startUpStep ok unitsOk diesOk deviceIdOk => Sys2Proof.Machine.execStartUpStep ok unitsOk diesOk deviceIdOk s
  | .railUp rail inRegulation => Sys2Proof.Machine.execRailUp rail inRegulation s
  | .refclkLoss => Sys2Proof.Machine.execRefclkLoss s
  | .autonomousCdReset die cause => Sys2Proof.Machine.execAutonomousCdReset die cause s
  | .stewardHeartbeatTimeout => Sys2Proof.Machine.execStewardHeartbeatTimeout s
  | .fwConfirm => Sys2Proof.Machine.execFwConfirm s
  | .resetComplete domain => Sys2Proof.Machine.execResetComplete domain s
  | .stopNotice port job origin serial status t => Sys2Proof.Machine.execStopNotice port job origin serial status t s
  | .blackboxWrite => Sys2Proof.Machine.execBlackboxWrite s
  | .stormSummary source => Sys2Proof.Machine.execStormSummary source s
  | .stormExit source => Sys2Proof.Machine.execStormExit source s
  | .drillNote port => Sys2Proof.Machine.execDrillNote port s
  | .drillFire id => Sys2Proof.Machine.execDrillFire id s
  | .samplerSample unit writeStatus => Sys2Proof.Machine.execSamplerSample unit writeStatus s
  | .samplerTrigger unit event => Sys2Proof.Machine.execSamplerTrigger unit event s
  | .haltDrained p => Sys2Proof.Machine.execHaltDrained p s
  | .watermarkClose unit faultStatus => Sys2Proof.Machine.execWatermarkClose unit faultStatus s
  | .refclkValid => Sys2Proof.Machine.execRefclkValid s
  | .illegalOp p word => Sys2Proof.Machine.execIllegalOp p word s
  | .fetchFault p => Sys2Proof.Machine.execFetchFault p s
  | .commandRejected r => Sys2Proof.Machine.execCommandRejected r s
  | .stormEnter source => Sys2Proof.Machine.execStormEnter source s
  | .drillNoteSend id => Sys2Proof.Machine.execDrillNoteSend id s
  | .tck tms tdi trstN pins => Sys2Proof.Machine.execTck tms tdi trstN pins s

end Sys2Proof.Machine
end

