-- ==== Sys2Proof/WellFormed.lean ====
section
/-! DEFINITION. Which commands are well formed: a list operand has the length its row's structure has, a payload fits a packet of its kind, and a coordinate fits its four bits. A value that the spec answers with a status, a discard or a trap is well formed. -/

namespace Sys2Proof

/-- Coordinates as a node number carries them (R160). -/
def coordOk (c : Coord) : Bool := decide (c.w < 16) && decide (c.x < 16) && decide (c.y < 16) && decide (c.z < 16)

/-- A request's payload is at most a line (R166); a combined one names fewer than 16 constituents (R323). -/
def reqOk (r : Req) : Bool := decide (r.data.length ≤ 64) && decide (r.parts.length < 16)

/-- After its header and box mask a packet carries at most 4,116 bytes (R332). -/
def packetOk (p : Packet) : Bool := decide (p.data.length ≤ 4116) && decide (p.parts.length < 16)

/-- The packets of a segment are well formed. -/
def itemWf (i : SegItem) : Bool :=
  match i with
  | .packet _ p => packetOk p
  | .stomped _ p => packetOk p
  | .credit _ _ => true
  | .host bs _ => decide (32 ≤ bs.length) && decide (bs.length ≤ 4128)

/-- A command's payload, with a structure from a byte offset on, is at most 4,096 bytes (R377). -/
def paramsFit (off : Nat) (bs : List Byte) : Bool := decide (off + bs.length ≤ 4096)

/-- The commands that can be written down on the hardware. -/
def Instr.wf : Instr → Bool
  | .add .. | .sub .. | .and .. | .or .. | .xor .. | .sll .. | .srl .. | .sra .. | .min .. | .max .. | .minu .. | .maxu .. | .clz .. | .popc ..
  | .andn .. | .ctz .. | .mul .. | .mulh .. | .mulhu .. | .div .. | .divu .. | .rem .. | .remu .. | .cmp .. | .cmpi .. | .pand .. | .por ..
  | .pxor .. | .pandn .. | .pnot .. | .pget .. | .pset .. | .addi .. | .andi .. | .ori .. | .xori .. | .shi .. | .li .. | .ins16 .. | .ins32 ..
  | .ins48 .. | .br .. | .call .. | .jr .. | .ldlB .. | .ldlH .. | .ldlW .. | .ldlWs .. | .ldlD .. | .stlB .. | .stlH .. | .stlW .. | .stlD ..
  | .gld .. | .gst .. | .gather .. | .aadd .. | .aand .. | .aor .. | .axor .. | .amin .. | .amax .. | .aminu .. | .amaxu .. | .aswap .. | .acas ..
  | .reds .. | .tmma .. | .tld .. | .tst .. | .vadd .. | .vsub .. | .vmul .. | .vfma .. | .vmax .. | .vmin .. | .vadds .. | .vmuls .. | .vrsum ..
  | .vrmax .. | .exp2 .. | .log2 .. | .rcp .. | .rsqrt .. | .sqrt .. | .tanh .. | .logistic .. | .erf .. | .vcvt .. | .fenceAcq .. | .fenceRel ..
  | .fenceFull .. | .twait .. | .waitc .. | .rdc .. | .bar .. | .rsr .. | .wsr .. | .stopI .. | .yieldI .. | .spawn .. | .trap .. | .rett ..
  | .icinv .. | .bkpt .. | .strandWake .. | .waitcTimeout .. | .coreGate .. | .coreWake .. | .globalResponse .. | .poisonedFetch .. | .tmmaStart ..
  | .tmmaComplete .. | .engineGate .. | .engineWake .. | .engineResidueFail .. | .vectorResidueFail .. | .gatherLineResponse .. | .spareSubstitute ..
  | .clusterRenumber .. | .d2dFailover .. | .d2dReturn .. | .patrolRead .. | .patrolPassComplete .. | .hbmRefresh .. | .hbmTempSample ..
  | .rowRepair .. | .repairRecordAppend .. | .granuleScrubStart .. | .granuleZeroed .. | .stackFail .. | .sramScrub .. | .firstValidRearm ..
  | .periodHWrite .. | .homeUpdate .. | .responseTimeout .. | .replayEntryExpire .. | .ringWake .. | .descriptorStart .. | .descriptorRetire ..
  | .copyStart .. | .bulkAck .. | .bulkAckTimer .. | .retransmissionTimer .. | .bulkFlowFail .. | .copyEnd .. | .flowOpen .. | .flowOpenAck ..
  | .flowOpenNak .. | .flowOpenRetry .. | .flowClose .. | .flowIdleClose .. | .couchC4Resend .. | .flowContextError .. | .quireWake ..
  | .entryStart .. | .groupJoin .. | .groupReady .. | .joinTimeout .. | .chunkAck .. | .chunkRereq .. | .chunkMissingTimer .. | .arrive ..
  | .release .. | .barrierPrewake .. | .barrierRelease .. | .abortReq .. | .abortI .. | .doneI .. | .refuse .. | .outcomeQuery .. | .outcomeReply ..
  | .operationTimeout .. | .collC4Resend .. | .laneResidueFail .. | .lendRequest .. | .lendWithdraw .. | .fabricTimeTick .. | .announceSend ..
  | .announce .. | .syncReqSend .. | .syncReq .. | .syncResp .. | .parentLost .. | .parentSelect .. | .ppsInEdge .. | .ppsLoss ..
  | .secondBoundary .. | .ppsOutFall .. | .tbCtrlWrite .. | .packetLink .. | .residueWrite .. | .waleEscape .. | .unroutableDiscard ..
  | .outputSend .. | .credit .. | .cellError .. | .waleWaitWrite .. | .swMeterWrite .. | .swDropProfileWrite .. | .swPortCtrlWrite .. | .groupDown ..
  | .probe .. | .probeReply .. | .probeTimeout .. | .oldBankRetire .. | .ack .. | .ackTimer .. | .nak .. | .nakResendTimer .. | .resume ..
  | .portDown .. | .portLight .. | .lockAcquired .. | .lockTimeout .. | .deskewComplete .. | .lkKeyx .. | .trainingRetry .. | .rekeyStart ..
  | .lkRekey .. | .feedMeasure .. | .lkLaneWrite .. | .nop .. | .identify .. | .regRead .. | .regWrite .. | .resultRead .. | .resultRelease ..
  | .abortCommand .. | .timeSet .. | .domainReset .. | .txnOpen .. | .txnCheck .. | .txnCommitAt .. | .txnCommitFire .. | .txnDiscard ..
  | .txnExpire .. | .sliceRepulp .. | .sliceStatus .. | .sliceLaunch .. | .strandCtrl .. | .jobStop .. | .jobRestart .. | .memRead ..
  | .counterAdd .. | .ringDefine .. | .ringReset .. | .ringDelete .. | .deckleDefine .. | .deckleRevoke .. | .deckleRead .. | .mouldKeyLoad ..
  | .mouldKeyDrop .. | .coordSet .. | .linkRetrain .. | .groupDeleteStage .. | .groupAbort .. | .groupStatus .. | .certRead .. | .sessionClose ..
  | .pwrCapSet .. | .pwrStatus .. | .bkptSet .. | .bkptClear .. | .strandHalt .. | .strandResume .. | .samplerCfg .. | .watermarkCfg ..
  | .eventFreeze .. | .blackboxRead .. | .drillSchedule .. | .fwStageBegin .. | .fwStageEnd .. | .fwActivate .. | .fwStatus .. | .sliceSwitchOut ..
  | .switchOutDrained .. | .sliceSwitchIn .. | .evidenceBatch .. | .aklRenew .. | .usageSnapshot .. | .dvfsStep .. | .throttleNAssert ..
  | .throttleNRelease .. | .rackCapWrite .. | .entdaa .. | .clusterPllGate .. | .diePowerGate .. | .resetNAssert .. | .startUpStep .. | .railUp ..
  | .refclkLoss .. | .autonomousCdReset .. | .stewardHeartbeatTimeout .. | .fwConfirm .. | .resetComplete .. | .stopNotice .. | .blackboxWrite ..
  | .stormSummary .. | .stormExit .. | .drillNote .. | .drillFire .. | .samplerSample .. | .samplerTrigger .. | .haltDrained .. | .watermarkClose ..
  | .refclkValid .. | .illegalOp .. | .fetchFault .. | .commandRejected .. | .stormEnter .. | .drillNoteSend .. | .tck .. => true
  | .homeRequest _ r => reqOk r
  | .responseArrive _ r => decide (r.data.length ≤ 64)
  | .copyDelegate _ _ _ _ desc => desc.length = 64
  | .bulkData _ _ _ _ _ data _ _ => decide (data.length ≤ 4096)
  | .chunkUp _ _ data _ _ _ _ => decide (data.length ≤ 4096)
  | .chunkDown _ _ data _ _ _ _ => decide (data.length ≤ 4096)
  | .digest _ _ _ bytes => bytes.length = 48
  | .packetArrive _ _ p => packetOk p
  | .nodeLost _ lost _ => coordOk lost
  | .linkLost _ a b _ => coordOk a && coordOk b
  | .nodeBack _ back _ => coordOk back
  | .segmentReceive _ _ _ _ items => items.all itemWf
  | .eqComplete _ clean => clean.length = 8
  | .identCheck _ peer _ _ => coordOk peer
  | .sliceStage _ _ desc => paramsFit 64 desc
  | .memWrite _ _ data => paramsFit 16 data
  | .routeStage _ _ bank => paramsFit 64 bank
  | .groupStage _ _ desc => paramsFit 64 desc
  | .attest _ nonce => nonce.length = 32
  | .sessionOpen _ payload _ _ => paramsFit 0 payload
  | .usageRead _ nonce => nonce.length = 32
  | .opkeyRotate _ newKey _ => paramsFit 0 newKey
  | .testUnlock _ imageDigest => imageDigest.length = 48
  | .fwStageData _ _ data => decide (data.length ≤ 4032)
  | .powerSample rails dieTemps stackTemps oeTemps _ => rails.length = 6 && dieTemps.length = 4 && stackTemps.length = 16 && oeTemps.length = 16
  | .thermalSample dieTemps oeTemps _ => dieTemps.length = 4 && oeTemps.length = 16
  | .resetNRelease straps => straps.length = 5

end Sys2Proof
end

