-- ==== Sys2Proof/Safety.lean ====
section
/-! DEFINITION. The words of the statements: when an instruction of a strand reaches its own effect, what its completion leaves unchanged, when a host command is accepted and how it is answered, and the invariants that every step keeps. -/

namespace Sys2Proof.Machine

/-! ## Whose instruction (R62, R77) -/

/-- The strand that issues, for a row that is an instruction of a strand. -/
def strandOf : Instr → Option Pos
  | .add p .. | .sub p .. | .and p .. | .or p .. | .xor p .. | .sll p .. | .srl p .. | .sra p .. | .min p .. | .max p .. | .minu p .. | .maxu p .. | .clz p ..
  | .popc p .. | .andn p .. | .ctz p .. | .mul p .. | .mulh p .. | .mulhu p .. | .div p .. | .divu p .. | .rem p .. | .remu p .. | .cmp p .. | .cmpi p .. | .pand p ..
  | .por p .. | .pxor p .. | .pandn p .. | .pnot p .. | .pget p .. | .pset p .. | .addi p .. | .andi p .. | .ori p .. | .xori p .. | .shi p .. | .li p .. | .ins16 p ..
  | .ins32 p .. | .ins48 p .. | .br p .. | .call p .. | .jr p .. | .ldlB p .. | .ldlH p .. | .ldlW p .. | .ldlWs p .. | .ldlD p .. | .stlB p .. | .stlH p .. | .stlW p ..
  | .stlD p .. | .gld p .. | .gst p .. | .gather p .. | .aadd p .. | .aand p .. | .aor p .. | .axor p .. | .amin p .. | .amax p .. | .aminu p .. | .amaxu p ..
  | .aswap p .. | .acas p .. | .reds p .. | .tmma p .. | .tld p .. | .tst p .. | .vadd p .. | .vsub p .. | .vmul p .. | .vfma p .. | .vmax p .. | .vmin p ..
  | .vadds p .. | .vmuls p .. | .vrsum p .. | .vrmax p .. | .exp2 p .. | .log2 p .. | .rcp p .. | .rsqrt p .. | .sqrt p .. | .tanh p .. | .logistic p .. | .erf p ..
  | .vcvt p .. | .fenceAcq p .. | .fenceRel p .. | .fenceFull p .. | .twait p .. | .waitc p .. | .rdc p .. | .bar p .. | .rsr p .. | .wsr p .. | .stopI p ..
  | .yieldI p .. | .spawn p .. | .trap p .. | .rett p .. | .icinv p .. | .bkpt p .. => some p
  | _ => none

/-! ## Instructions of a strand -/

/-- The strand's next instruction reaches its own effect: it may issue (R62, R66) and is not passed over (R63), the issue slot is its own in the round-robin of its core (R63), no stack in HOLD keeps its fetch (R147), its fetch is good (R68), no breakpoint stops it (R510), its guard holds (R75), no register it names awaits a global result (R64), and none it reads is spoiled (R154). -/
structure Reaches (s : State) (p : Pos) (g : Guard) (regs reads : List (BitVec 6)) : Prop where
  ready : (getStrand s p).st = .ready
  resident : (residentOn s p.die p.cluster).isSome = true
  running : (getCore s (coreOf p)).gated = false
  unyielded : yields s p = false
  turn : itsTurn s p = true
  supplied : fetchHeld s p = false
  fetched : fetchOk s p = true
  clean : fetchPoisoned s p = false
  unbroken : pcBkpt s p = none
  guard : guardOk (getStrand s p) g = true
  free : regs.any (fun r => (busyRegs s p).contains r) = false
  sound : reads.any (fun r => r ≠ 0 && (getStrand s p).badRegs.contains r.toNat) = false

/-- As `Reaches`, up to the point where the encoding is looked at: whatever the guard and the registers. -/
structure Fetches (s : State) (p : Pos) : Prop where
  ready : (getStrand s p).st = .ready
  resident : (residentOn s p.die p.cluster).isSome = true
  running : (getCore s (coreOf p)).gated = false
  unyielded : yields s p = false
  turn : itsTurn s p = true
  supplied : fetchHeld s p = false
  fetched : fetchOk s p = true
  clean : fetchPoisoned s p = false
  unbroken : pcBkpt s p = none

/-- A strand past its instruction. -/
def advance (st : Strand) : Strand := { st with pc := st.pc + 4, skipBkpt := [], yielded := false }

/-- A strand that goes on at a target. -/
def jump (target : Word) (st : Strand) : Strand := { st with pc := target, skipBkpt := [], yielded := false }

/-- Of a core, an instruction changes the round-robin place with the strands it has passed over, the instruction cache and the count of instructions issued, and no more. -/
def CoreTouched (a b : Core) : Prop := ∃ rr ps ic cs, b = { a with rr := rr, passed := ps, icache := ic, ctrs := cs }

/-- The instruction of strand p takes s to t and leaves the strand as `st`. Nothing else changes but its core's bookkeeping: no other strand, no other core, no cluster, no memory, no endpoint, nothing sent. -/
structure Completed (s t : State) (p : Pos) (st : Strand) : Prop where
  strand : getStrand t p = st
  others : ∀ q, q ≠ p → getStrand t q = getStrand s q
  core : CoreTouched (getCore s (coreOf p)) (getCore t (coreOf p))
  cores : ∀ c, c ≠ coreOf p → getCore t c = getCore s c
  rest : t = { s with compute := { s.compute with strands := t.compute.strands, cores := t.compute.cores } }

/-- As `Completed`, of an instruction after which the strand's TMMAs no longer stand between their outputs and what follows (R93). -/
structure CompletedTwait (s t : State) (p : Pos) (st : Strand) : Prop where
  strand : getStrand t p = st
  others : ∀ q, q ≠ p → getStrand t q = getStrand s q
  core : CoreTouched { getCore s (coreOf p) with doneC := (getCore s (coreOf p)).doneC.filter (fun x => x.2.p ≠ p) } (getCore t (coreOf p))
  cores : ∀ c, c ≠ coreOf p → getCore t c = getCore s c
  rest : t = { s with compute := { s.compute with strands := t.compute.strands, cores := t.compute.cores } }

/-- The instruction answers a next state in which the strand is `st` and all else stands (see `Completed`). -/
def Leaves (s : State) (p : Pos) (i : Instr) (st : Strand) : Prop := ∃ t, exec i s = .next t ∧ Completed s t p st

/-- The instruction completes as a TWAIT does. -/
def LeavesTwait (s : State) (p : Pos) (i : Instr) (st : Strand) : Prop := ∃ t, exec i s = .next t ∧ CompletedTwait s t p st

/-- The instruction completes and writes one scalar register; a write to s0 is discarded (R69). -/
def Writes (s : State) (p : Pos) (i : Instr) (sd : BitVec 6) (v : Word) : Prop := Leaves s p i (wr (advance (getStrand s p)) sd v)

/-- The instruction completes and writes one predicate; a write to p0 is discarded (R69). -/
def Decides (s : State) (p : Pos) (i : Instr) (pd : BitVec 3) (v : Bool) : Prop := Leaves s p i (wrP (advance (getStrand s p)) pd v)

/-- The outcome of a compare by its COND (R82). -/
def Compares (cond : BitVec 3) (a b : Word) (c : Bool) : Prop :=
  (cond = 0 → (c = true ↔ a = b)) ∧ (cond = 1 → (c = true ↔ a ≠ b)) ∧ (cond = 2 → (c = true ↔ a.toInt < b.toInt)) ∧ (cond = 3 → (c = true ↔ b.toInt ≤ a.toInt)) ∧
  (cond = 4 → (c = true ↔ a.toNat < b.toNat)) ∧ (cond = 5 → (c = true ↔ b.toNat ≤ a.toNat)) ∧ (cond = 6 → (c = true ↔ a &&& b ≠ 0))

/-! ## Traps (R103) -/

/-- What a strand records of a cause taken at issue. -/
def recorded (st : Strand) (code : Nat) (tval : Word) : Strand :=
  { st with skipBkpt := [], wait := .nothing, deadline := none, epc := st.pc &&& ~~~ 3#64, code := BitVec.ofNat 8 code, async := false, tval := tval }

/-- The entry of a cause at issue (R103): into the handler, TRAPPED where TVEC.EN is 0, TRAPPED with DOUBLE_TRAP inside a handler. `tval` is what TVAL takes, where the spec says what. No other strand changes; a trap that a handler takes touches nothing outside the core, another is posted to the slice's ring, where a ring or a quire that monitors the line written sees it (R190), and to the core's source. -/
structure Trapped (s t : State) (p : Pos) (cause : Nat) (tval : Option Word) : Prop where
  handled : (getStrand s p).tvec.getLsbD 0 = true → (getStrand s p).inHandler = false →
    (∃ v, (∀ w, tval = some w → v = w) ∧
      getStrand t p = { recorded (getStrand s p) cause v with inHandler := true, pc := (getStrand s p).tvec &&& ~~~ 3#64, st := .ready }) ∧
    t = { s with compute := t.compute, freeCtr := t.freeCtr }
  unhandled : (getStrand s p).tvec.getLsbD 0 = false → (getStrand s p).inHandler = false →
    ∃ v, (∀ w, tval = some w → v = w) ∧ getStrand t p = { recorded (getStrand s p) cause v with st := .trapped }
  double : (getStrand s p).inHandler = true → ∃ v, getStrand t p = { recorded (getStrand s p) 0x0C v with st := .trapped }
  others : ∀ q, q ≠ p → getStrand t q = getStrand s q
  rest : t = { s with compute := t.compute, mem := t.mem, fab := { s.fab with rings := t.fab.rings, groups := t.fab.groups }, ctl := t.ctl, fleet := t.fleet, freeCtr := t.freeCtr }

/-- The instruction answers a next state in which the strand has taken a cause. -/
def Traps (s : State) (p : Pos) (i : Instr) (cause : Nat) (tval : Option Word) : Prop := ∃ t, exec i s = .next t ∧ Trapped s t p cause tval

/-! ## Local memory (R85) -/

/-- The whole of a local access lies in the tile store or in the felt. -/
def LocalIn (a : Word) (size : Nat) : Prop := a.toNat + size ≤ 0x100000 ∨ 0x1000000 ≤ a.toNat ∧ a.toNat + size ≤ 0x1800000

/-- A local access whose address is also a multiple of its size. -/
def LocalAt (a : Word) (size : Nat) : Prop := LocalIn a size ∧ a.toNat % size = 0

/-- `bs` is stored at memory address `k` and the strand is left as `st`. No other byte of memory changes, no other strand, and nothing outside strands, cores and memory. -/
structure Stored (s t : State) (p : Pos) (k : Nat) (bs : List Byte) (st : Strand) : Prop where
  strand : getStrand t p = st
  others : ∀ q, q ≠ p → getStrand t q = getStrand s q
  bytes : memRead t.mem.bytes k bs.length = bs
  elsewhere : ∀ x, x < k ∨ k + bs.length ≤ x → memByte t.mem.bytes x = memByte s.mem.bytes x
  rest : t = { s with compute := { s.compute with strands := t.compute.strands, cores := t.compute.cores }, mem := { s.mem with bytes := t.mem.bytes, poison := t.mem.poison, sramPoison := t.mem.sramPoison }, freeCtr := t.freeCtr }

/-- The instruction stores `bs` at local address `a` of its core and goes on. -/
def Stores (s : State) (p : Pos) (i : Instr) (a : Word) (bs : List Byte) : Prop :=
  ∃ t, exec i s = .next t ∧ Stored s t p (localKey (coreOf p) a.toNat) bs (advance (getStrand s p))

/-! ## Global requests (R87 to R89, R161, R171) -/

/-- A request of a strand may be sent: the address is aligned, no DATA breakpoint matches, the limits of R64 leave room, R161 lets it go, and flow k joins the endpoints and has credit. -/
structure MaySend (s : State) (p : Pos) (align access : Nat) (load : Bool) (addr : Word) (k : Nat) (f : Flow) : Prop where
  aligned : addr.toNat % align = 0
  unbroken : dataBkpt s p access addr = none
  room : load = true → (getStrand s p).loads < 16 ∧ coreLoads s (coreOf p) < 512
  passes : decodeReq s addr = .send
  joined : findFlow s false (strandSliceId s p) (nodeOf s p.die.val) (addrNode addr) = some (k, f)
  held : getFlow s k = some f
  credit : creditFor s p.die.val k = true

/-- The instruction sends one request on flow k, with the flow's next sequence number, and the strand goes on, counting it. -/
def Requests (s : State) (p : Pos) (i : Instr) (opcode : BitVec 8) (addr key : Word) (data : List Byte) (dest : RespDest) (load : Bool) (k : Nat) (f : Flow) : Prop :=
  ∃ t r o, exec i s = .next t ∧
    r.src = f.src ∧ r.flow = BitVec.ofNat 20 k ∧ r.seq = f.seqNext ∧ r.slice = f.slice ∧ r.opcode = opcode ∧ r.addr = addr ∧ r.key = key ∧ r.data = data ∧
    t.out = s.out ++ sends s [requestOut t f.dst r] ∧
    o.req = r ∧ o.dst = f.dst ∧ o.dest = dest ∧ o.isLoad = load ∧ o.master = .strand p (getStrand s p).gen (getStrand s p).pc ∧
    (getEp t p.die.val).outst = (getEp s p.die.val).outst ++ [o] ∧
    (∃ g, getFlow t k = some g ∧ g.seqNext = f.seqNext + 1) ∧
    getStrand t p = countIssued load (advance (getStrand s p)) ∧
    (∀ q, q ≠ p → getStrand t q = getStrand s q) ∧
    t = { s with compute := { s.compute with strands := t.compute.strands, cores := t.compute.cores, viaSwitch := t.compute.viaSwitch }, fab := { s.fab with eps := t.fab.eps, nextId := t.fab.nextId, flows := t.fab.flows }, ctl := t.ctl, out := t.out }

/-- The instruction waits (R64): the strand is in WAIT at it, and nothing else changes. -/
def Waits (s : State) (p : Pos) (i : Instr) (w : WaitFor) : Prop := exec i s = .next (waitOn s p w)

/-! ## Vector operands (R94) -/

/-- A vector operand: `n` bytes in the tile store from a multiple of 64. -/
def VecAt (a : Word) (n : Nat) : Prop := a.toNat + n ≤ 0x100000 ∧ a.toNat % 64 = 0

/-- A 256-byte operand and one of `n` bytes overlap exactly or not at all. -/
def Apart (a b : Word) (n : Nat) : Prop := a = b ∨ a.toNat + 256 ≤ b.toNat ∨ b.toNat + n ≤ a.toNat

/-- The units of the core execute: it has not failed, and the module is not held at the floor (R120, R453). -/
def UnitRuns (s : State) (p : Pos) : Prop := (getCore s (coreOf p)).failed = false ∧ atFloor s = false

/-- The vector unit takes an instruction of the strand: it runs, and executes none of another strand again (R119). -/
def VectorRuns (s : State) (p : Pos) : Prop := UnitRuns s p ∧ behindPin s p = false

/-- A 256-byte operand that is sound in SRAM. -/
def Sound (s : State) (p : Pos) (a : Word) (n : Nat) : Prop := sramBad s (localKey (coreOf p) a.toNat) n = false

/-- Lane i of a vector at a local address. -/
def lane (s : State) (p : Pos) (a : Word) (i : Nat) : F32 := BitVec.ofNat 32 (leNat (localRead s (coreOf p) (a.toNat + 4 * i) 4))

/-- The bytes of 64 lanes. -/
def vecBytes (f : Nat → F32) : List Byte := ((List.range 64).map (fun i => leBytes 4 (f i).toNat)).flatten

/-! ## Engines (R117 to R120) -/

/-- An engine may work: its core has not failed, it is neither fenced nor gated, the module is not held at the floor, and a slice holds the cluster (R62, R117, R120, R453). -/
structure EngineLive (s : State) (c : CorePos) (eng : Fin 4) : Prop where
  whole : (getCore s c).failed = false
  unfenced : (getCore s c).fenced.getLsbD eng.val = false
  running : (getCore s c).engGated.getLsbD eng.val = false
  powered : atFloor s = false
  held : (sliceOn s c.die c.cluster).isSome = true

/-- Only one engine of one core differs, and it is as given. -/
structure EngineOnly (s t : State) (c : CorePos) (e : Nat) (x : Engine) : Prop where
  engine : getEngine t c e = x
  others : ∀ e', e' ≠ e → getEngine t c e' = getEngine s c e'
  cores : ∀ d, d ≠ c → getCore t d = getCore s d
  rest : t = { s with compute := { s.compute with cores := t.compute.cores } }

/-! ## Error sources (R488, R491) -/

/-- The error source with an ID. -/
def sourceOf (s : State) (id : BitVec 16) : Source := Tab.getD s.fleet.sources id.toNat {}

/-- One event of a source: it is counted there, and either accepted as a record or, within a limit of R491, not. No other source changes. -/
structure Reported (s t : State) (id : BitVec 16) (event : BitVec 8) : Prop where
  counted : (sourceOf t id).count = min ((sourceOf s id).count + 1) (2 ^ 32 - 1)
  timed : (sourceOf t id).lastErr = s.tb.time
  others : ∀ k, k ≠ id → sourceOf t k = sourceOf s k
  kept : t.fleet.accepted = s.fleet.accepted ∨
    ∃ r : BbRec, t.fleet.accepted = s.fleet.accepted ++ [r] ∧ r.source = id ∧ r.event = event ∧ r.time = s.tb.time ∧ r.seq = s.fleet.nextSeq

/-! ## Wakes (R190) -/

/-- An update of [off, off + n) of a die touches a line that an entry monitors for a ring or a quire. -/
def wokenBy (s : State) (d off n : Nat) (m : MonTarget) : Bool :=
  (getEp s d).monitors.any (fun e => e.2 = m && decide (off / 64 ≤ e.1) && decide (e.1 ≤ (off + n - 1) / 64))

/-! ## A cluster's memory (R81, R162) -/

/-- An address of the felt or of a tile store of a logical cluster. -/
def InCluster (d l k : Nat) : Prop :=
  (feltKey d l 0 ≤ k ∧ k < feltKey d l 0 + 0x800000) ∨ (tileKey d l 0 0 ≤ k ∧ k < tileKey d l 0 0 + 0x1000000)

/-- A counter of the STACK set (R504). -/
def stackCtr (s : State) (stack k : Nat) : Word := Tab.getD s.net.stackCtrs (8 * stack + k) 0

/-! ## A request at its home (R170 to R172, R181) -/

/-- A request that its home may perform now: admitted in an open flow, the oldest of its line in its flow and at the endpoint, combined with none, with room for its entry in the replay table, and not held back by its stack or its window's slice. -/
structure AtHome (s : State) (die : Fin 4) (src flow : BitVec 20) (seq : BitVec 24) (h : HomeFlow) (r : Req) : Prop where
  home : findHome s die.val src flow = some h
  opened : h.closed = false
  alone : ∀ q ∈ (getEp s die.val).combined, (constituents q).contains (src, flow, seq) = false
  turn : mayPerform h seq = some r
  first : firstOnLine s die.val r = true
  room : replayFull s die.val = false
  free : heldBack s die.val r = false

/-- The response the home makes to a request (R166, R167). -/
def answer (r : Req) (status flags : BitVec 4) (replayed : Bool) (data : List Byte) (crowd : Bool) : Resp :=
  { flow := r.flow, seq := r.seq, opcode := respOpcode r, word := respWord status flags replayed, data := padTo (respBytes r) data, crowd := crowd }

/-- What the home sends with it (R17). -/
def answerOut (s : State) (r : Req) (status flags : BitVec 4) (replayed : Bool) (data : List Byte) (crowd : Bool) : List Emit :=
  sends s [responseOut s (addrNode r.addr) r.src (answer r status flags replayed data crowd)]

/-! ## Collective operations (R225, R231, R233) -/

/-- A packet is for the operation in progress of context c: its GID, current epoch, OPSEQ and PARAMCRC are the operation's. -/
structure InOp (s : State) (h : CollHdr) (c : Nat) (g : Group) (o : CollOp) : Prop where
  group : groupFor s h = some (c, g)
  context : getGroup s c = g
  operation : g.op = some o
  same : o.opseq = h.opseq
  crc : h.paramcrc = o.paramcrc

/-- The operation of a context has retired with an outcome: CI has advanced, and the outcome is kept for those who ask (R231, R232). -/
structure Retires (t : State) (c : Nat) (g : Group) (o : CollOp) (code cause : BitVec 16) (flags : BitVec 4) (drill : Bool) : Prop where
  ended : (getGroup t c).op = none
  ci : (getGroup t c).ci = (g.ci + 1) % 2 ^ 64
  last : (getGroup t c).outcomes.head? = some { opseq := o.opseq, paramcrc := o.paramcrc, code := code, cause := cause, flags := flags, drill := drill, t := o.t.getD 0, unreleased := o.t.isSome && !o.released }

/-! ## Commands of the host link (R377 to R381) -/

/-- A command is accepted and interpreted: the host link is in service, no check of R377 fails, recovery allows the opcode, and the core that executes it is not in its own reset. -/
structure Granted (s : State) (h : Hdr) (o : OpInfo) : Prop where
  link : (getLink s 64).st = .active
  checks : rejects s h o = none
  allowed : s.ctl.trust.recovery = true → o.recovery = true
  ready : unitBusy s o.code = false

/-- A status packet is issued, and what follows it on the host link are segments (R362, R370). -/
def StatusSent (s t : State) (e : Emit) : Prop := ∃ l, t.out = s.out ++ e :: l ∧ ∀ x ∈ l, ∃ g, x = .segment 64 g

/-- The command's row runs, and from the state after its effect its tag reaches a terminal status with its reply bytes. -/
def Ends (s : State) (i : Instr) (after : State) (h : Hdr) (st : BitVec 16) (bytes : List Byte) : Prop :=
  exec i s = .next (finishTag after h.channel.toNat h.tag st bytes)

end Sys2Proof.Machine
end

