-- ==== Sys2Proof/Certificates/Slice0/Obligations.lean ====
section
/-! DEFINITION. The statements for the provers. The words they are written in stand in Sys2Proof/Safety.lean. -/

open Sys2Proof Sys2Proof.Machine

/-- R78: what each INT instruction writes to sd, and that nothing else changes but the program counter. CLZ and CTZ are the counts of zeros above the highest and below the lowest set bit. Their SB must be 0. A write to s0 is discarded (`wr`). -/
def Obligations.IntegerResults : Prop :=
  ∀ (s : State) (p : Pos) (g : Guard) (sd sa sb : BitVec 6), Reaches s p g [sd, sa, sb] [sa, sb] →
    let a := rd (getStrand s p) sa
    let b := rd (getStrand s p) sb
    Writes s p (.add p g sd sa sb) sd (a + b) ∧
    Writes s p (.sub p g sd sa sb) sd (a - b) ∧
    Writes s p (.and p g sd sa sb) sd (a &&& b) ∧
    Writes s p (.or p g sd sa sb) sd (a ||| b) ∧
    Writes s p (.xor p g sd sa sb) sd (a ^^^ b) ∧
    Writes s p (.andn p g sd sa sb) sd (a &&& ~~~b) ∧
    Writes s p (.sll p g sd sa sb) sd (BitVec.ofNat 64 (a.toNat * 2 ^ (b.toNat % 64))) ∧
    Writes s p (.srl p g sd sa sb) sd (BitVec.ofNat 64 (a.toNat / 2 ^ (b.toNat % 64))) ∧
    Writes s p (.sra p g sd sa sb) sd (BitVec.ofInt 64 (a.toInt / 2 ^ (b.toNat % 64))) ∧
    Writes s p (.min p g sd sa sb) sd (BitVec.ofInt 64 (Min.min a.toInt b.toInt)) ∧
    Writes s p (.max p g sd sa sb) sd (BitVec.ofInt 64 (Max.max a.toInt b.toInt)) ∧
    Writes s p (.minu p g sd sa sb) sd (BitVec.ofNat 64 (Min.min a.toNat b.toNat)) ∧
    Writes s p (.maxu p g sd sa sb) sd (BitVec.ofNat 64 (Max.max a.toNat b.toNat)) ∧
    (sb = 0 → ∃ n : Nat, n ≤ 64 ∧ a.toNat < 2 ^ (64 - n) ∧ (n < 64 → 2 ^ (63 - n) ≤ a.toNat) ∧ Writes s p (.clz p g sd sa sb) sd (BitVec.ofNat 64 n)) ∧
    (sb = 0 → ∃ n : Nat, n ≤ 64 ∧ (∀ i < n, a.getLsbD i = false) ∧ (n < 64 → a.getLsbD n = true) ∧ Writes s p (.ctz p g sd sa sb) sd (BitVec.ofNat 64 n)) ∧
    (sb = 0 → Writes s p (.popc p g sd sa sb) sd (BitVec.ofNat 64 (∑ i ∈ Finset.range 64, if a.getLsbD i then 1 else 0))) ∧
    (sb ≠ 0 → Traps s p (.clz p g sd sa sb) 0x01 none ∧ Traps s p (.popc p g sd sa sb) 0x01 none ∧ Traps s p (.ctz p g sd sa sb) 0x01 none)

/-- R79: what each MULDIV instruction writes to sd. No divide instruction traps: every divisor has its result. -/
def Obligations.MulDivResults : Prop :=
  ∀ (s : State) (p : Pos) (g : Guard) (sd sa sb : BitVec 6), Reaches s p g [sd, sa, sb] [sa, sb] →
    let a := rd (getStrand s p) sa
    let b := rd (getStrand s p) sb
    Writes s p (.mul p g sd sa sb) sd (BitVec.ofNat 64 (a.toNat * b.toNat)) ∧
    Writes s p (.mulh p g sd sa sb) sd (BitVec.ofInt 64 (a.toInt * b.toInt / 2 ^ 64)) ∧
    Writes s p (.mulhu p g sd sa sb) sd (BitVec.ofNat 64 (a.toNat * b.toNat / 2 ^ 64)) ∧
    (b = 0 → Writes s p (.div p g sd sa sb) sd (BitVec.ofInt 64 (-1))) ∧
    (a.toInt = -2 ^ 63 → b.toInt = -1 → Writes s p (.div p g sd sa sb) sd (BitVec.ofInt 64 (-2 ^ 63))) ∧
    (b ≠ 0 → ∃ q : Word, Writes s p (.div p g sd sa sb) sd q ∧ (¬(a.toInt = -2 ^ 63 ∧ b.toInt = -1) → q.toInt = a.toInt.tdiv b.toInt)) ∧
    (b = 0 → Writes s p (.divu p g sd sa sb) sd (BitVec.ofNat 64 (2 ^ 64 - 1))) ∧
    (b ≠ 0 → Writes s p (.divu p g sd sa sb) sd (BitVec.ofNat 64 (a.toNat / b.toNat))) ∧
    (b = 0 → Writes s p (.rem p g sd sa sb) sd a) ∧
    (b ≠ 0 → ∃ r : Word, Writes s p (.rem p g sd sa sb) sd r ∧ r.toInt = a.toInt.tmod b.toInt) ∧
    (b = 0 → Writes s p (.remu p g sd sa sb) sd a) ∧
    (b ≠ 0 → Writes s p (.remu p g sd sa sb) sd (BitVec.ofNat 64 (a.toNat % b.toNat)))

/-- R82, R83: CMP and CMPI put the outcome c of COND into p[PD], and CMP combines it with the old value by FN; the predicate logic. p0 reads 1, and a write to it is discarded. -/
def Obligations.PredicateResults : Prop :=
  (∀ (s : State) (p : Pos) (g : Guard) (cond pd : BitVec 3) (sa sb : BitVec 6) (imm : BitVec 10), cond ≠ 7 →
      let old := rdP (getStrand s p) pd
      let a := rd (getStrand s p) sa
      (Reaches s p g [sa, sb] [sa, sb] → ∃ c, Compares cond a (rd (getStrand s p) sb) c ∧
        Decides s p (.cmp p g cond pd sa sb 0) pd c ∧ Decides s p (.cmp p g cond pd sa sb 1) pd (old && c) ∧ Decides s p (.cmp p g cond pd sa sb 2) pd (old || c)) ∧
      (Reaches s p g [sa] [sa] → ∃ c, Compares cond a (sext imm) c ∧ Decides s p (.cmpi p g cond pd sa imm) pd c)) ∧
  (∀ (s : State) (p : Pos) (g : Guard) (pd pa pb : BitVec 3) (sd sa : BitVec 6),
      let st := getStrand s p
      (Reaches s p g [] [] →
        Decides s p (.pand p g pd pa pb) pd (rdP st pa && rdP st pb) ∧ Decides s p (.por p g pd pa pb) pd (rdP st pa || rdP st pb) ∧
        Decides s p (.pxor p g pd pa pb) pd (rdP st pa ^^ rdP st pb) ∧ Decides s p (.pandn p g pd pa pb) pd (rdP st pa && !rdP st pb) ∧
        Decides s p (.pnot p g pd pa) pd (!rdP st pa)) ∧
      (Reaches s p g [sd] [] → ∃ v : Word, Writes s p (.pget p g sd) sd v ∧ (∀ k : BitVec 3, v.getLsbD k.toNat = rdP st k) ∧ v.toNat < 256) ∧
      (Reaches s p g [sa] [sa] → ∃ st', Leaves s p (.pset p g sa) st' ∧ (∀ k : BitVec 3, k ≠ 0 → rdP st' k = (rd st sa).getLsbD k.toNat) ∧
        st' = { advance st with preds := st'.preds }))

/-- R80, R81: the immediates, with SHI's reserved values. INS16, INS32 and INS48 replace 16 bits of sd and leave its other bits unchanged. -/
def Obligations.ImmediateResults : Prop :=
  ∀ (s : State) (p : Pos) (g : Guard) (sd sa : BitVec 6) (imm : BitVec 10) (i16 : BitVec 16),
    let a := rd (getStrand s p) sa
    let old := rd (getStrand s p) sd
    let k := imm.toNat % 64
    let replaced := fun (lo : Nat) (v : Word) => ∀ i < 64, v.getLsbD i = if lo ≤ i ∧ i < lo + 16 then i16.getLsbD (i - lo) else old.getLsbD i
    (Reaches s p g [sd, sa] [sa] →
      Writes s p (.addi p g sd sa imm) sd (a + sext imm) ∧ Writes s p (.andi p g sd sa imm) sd (a &&& sext imm) ∧
      Writes s p (.ori p g sd sa imm) sd (a ||| sext imm) ∧ Writes s p (.xori p g sd sa imm) sd (a ^^^ sext imm) ∧
      (imm.toNat / 64 = 0 → Writes s p (.shi p g sd sa imm) sd (BitVec.ofNat 64 (a.toNat * 2 ^ k))) ∧
      (imm.toNat / 64 = 4 → Writes s p (.shi p g sd sa imm) sd (BitVec.ofNat 64 (a.toNat / 2 ^ k))) ∧
      (imm.toNat / 64 = 8 → Writes s p (.shi p g sd sa imm) sd (BitVec.ofInt 64 (a.toInt / 2 ^ k))) ∧
      (imm.toNat / 64 % 4 ≠ 0 ∨ imm.toNat / 256 = 3 → Traps s p (.shi p g sd sa imm) 0x01 none)) ∧
    (Reaches s p g [sd] [] → Writes s p (.li p g sd i16) sd (BitVec.ofInt 64 i16.toInt)) ∧
    (Reaches s p g [sd] [sd] →
      (∃ v, replaced 16 v ∧ Writes s p (.ins16 p g sd i16) sd v) ∧ (∃ v, replaced 32 v ∧ Writes s p (.ins32 p g sd i16) sd v) ∧
      (∃ v, replaced 48 v ∧ Writes s p (.ins48 p g sd i16) sd v))

/-- R84: BR, CALL and JR. The displacement counts words of four bytes from the branch itself; CALL links in s63, JR in sd, and a JR to an address that is no multiple of 4 traps with MISALIGNED. A guard that does not hold passes the branch by. -/
def Obligations.BranchResults : Prop :=
  ∀ (s : State) (p : Pos) (g : Guard) (disp : BitVec 22) (sd sa : BitVec 6),
    let st := getStrand s p
    let target := BitVec.ofInt 64 ((st.pc.toNat : Int) + 4 * disp.toInt)
    (Reaches s p g [] [] → Leaves s p (.br p g disp) (jump target st)) ∧
    (Reaches s p g [63] [] → Leaves s p (.call p g disp) (wr (jump target st) 63 (st.pc + 4))) ∧
    (Reaches s p g [sd, sa] [sa] → (rd st sa).toNat % 4 = 0 → Leaves s p (.jr p g sd sa) (wr (jump (rd st sa) st) sd (st.pc + 4))) ∧
    (Reaches s p g [sd, sa] [sa] → (rd st sa).toNat % 4 ≠ 0 → Traps s p (.jr p g sd sa) 0x03 (some (rd st sa))) ∧
    (Fetches s p → guardOk st g = false → Leaves s p (.br p g disp) (advance st) ∧ Leaves s p (.call p g disp) (advance st) ∧ Leaves s p (.jr p g sd sa) (advance st))

/-- R85: the local loads. -/
def Obligations.LocalLoads : Prop :=
  ∀ (s : State) (p : Pos) (g : Guard) (sd sa : BitVec 6) (imm : BitVec 10) (size : Nat),
    let a := rd (getStrand s p) sa + BitVec.ofInt 64 (imm.toInt * size)
    let v := leNat (localRead s (coreOf p) a.toNat size)
    Reaches s p g [sd, sa] [sa] → LocalAt a size → sramBad s (localKey (coreOf p) a.toNat) size = false →
    (size = 1 → Writes s p (.ldlB p g sd sa imm) sd (BitVec.ofNat 64 v)) ∧
    (size = 2 → Writes s p (.ldlH p g sd sa imm) sd (BitVec.ofNat 64 v)) ∧
    (size = 4 → Writes s p (.ldlW p g sd sa imm) sd (BitVec.ofNat 64 v)) ∧
    (size = 4 → Writes s p (.ldlWs p g sd sa imm) sd (BitVec.ofInt 64 (BitVec.ofNat 32 v).toInt)) ∧
    (size = 8 → Writes s p (.ldlD p g sd sa imm) sd (BitVec.ofNat 64 v))

/-- R85: the local stores store the low bytes of the register SD names, and no other byte of memory changes. The memory's canonical form is the premise (see EveryStepKeepsMemory). -/
def Obligations.LocalStores : Prop :=
  ∀ (s : State) (p : Pos) (g : Guard) (sd sa : BitVec 6) (imm : BitVec 10) (size : Nat),
    let a := rd (getStrand s p) sa + BitVec.ofInt 64 (imm.toInt * size)
    let v := (rd (getStrand s p) sd).toNat
    Memory.wf s.mem.bytes → Reaches s p g [sd, sa] [sd, sa] → LocalAt a size →
    (size = 1 → Stores s p (.stlB p g sd sa imm) a (leBytes 1 v)) ∧
    (size = 2 → Stores s p (.stlH p g sd sa imm) a (leBytes 2 v)) ∧
    (size = 4 → Stores s p (.stlW p g sd sa imm) a (leBytes 4 v)) ∧
    (size = 8 → Stores s p (.stlD p g sd sa imm) a (leBytes 8 v))

/-- R85, R106: an access at an address outside the tile store and the felt traps with LOCAL_RANGE; one at an address within them that is not a multiple of its size with MISALIGNED, wherever it would end. -/
def Obligations.LocalTraps : Prop :=
  ∀ (s : State) (p : Pos) (g : Guard) (sd sa : BitVec 6) (imm : BitVec 10) (size : Nat) (i : Instr),
    let a := rd (getStrand s p) sa + BitVec.ofInt 64 (imm.toInt * size)
    Reaches s p g [sd, sa] [sd, sa] →
    (size = 1 ∧ (i = .ldlB p g sd sa imm ∨ i = .stlB p g sd sa imm) ∨ size = 2 ∧ (i = .ldlH p g sd sa imm ∨ i = .stlH p g sd sa imm) ∨
     size = 4 ∧ (i = .ldlW p g sd sa imm ∨ i = .ldlWs p g sd sa imm ∨ i = .stlW p g sd sa imm) ∨ size = 8 ∧ (i = .ldlD p g sd sa imm ∨ i = .stlD p g sd sa imm)) →
    (¬ LocalIn a 1 → Traps s p i 0x04 (some a)) ∧
    (LocalIn a 1 → a.toNat % size ≠ 0 → Traps s p i 0x03 (some a))

/-- R76, R77, R103: a reserved value of an operand field traps with ILLEGAL_OP, whatever the guard. -/
def Obligations.ReservedFieldsTrap : Prop :=
  ∀ (s : State) (p : Pos) (g : Guard) (sd sa sb : BitVec 6) (cond pd : BitVec 3) (fn fmt : BitVec 4) (imm : BitVec 10) (ks w : BitVec 2), Fetches s p →
    (sb ≠ 0 → Traps s p (.clz p g sd sa sb) 0x01 none ∧ Traps s p (.ctz p g sd sa sb) 0x01 none ∧ Traps s p (.popc p g sd sa sb) 0x01 none) ∧
    (cond = 7 → Traps s p (.cmp p g cond pd sa sb fn) 0x01 none ∧ Traps s p (.cmpi p g cond pd sa imm) 0x01 none) ∧
    (3 ≤ fn.toNat → Traps s p (.cmp p g cond pd sa sb fn) 0x01 none) ∧
    (imm.toNat / 64 ≠ 0 → imm.toNat / 64 ≠ 4 → imm.toNat / 64 ≠ 8 → Traps s p (.shi p g sd sa imm) 0x01 none) ∧
    (w = 3 → Traps s p (.gld p g sd sa sb ks w) 0x01 none ∧ Traps s p (.gst p g sd sa sb ks w) 0x01 none) ∧
    (w = 2 → sd ≠ 0 → Traps s p (.gld p g sd sa sb ks w) 0x01 none) ∧
    (w = 0 ∨ w = 1 → sb ≠ 0 → Traps s p (.gld p g sd sa sb ks w) 0x01 none) ∧
    (sd ≠ 0 → Traps s p (.gst p g sd sa sb ks w) 0x01 none) ∧
    (w = 2 ∨ w = 3 → ∀ i ∈ [Instr.aadd p g sd sa sb ks w, .aand p g sd sa sb ks w, .aor p g sd sa sb ks w, .axor p g sd sa sb ks w, .amin p g sd sa sb ks w, .amax p g sd sa sb ks w, .aminu p g sd sa sb ks w, .amaxu p g sd sa sb ks w, .aswap p g sd sa sb ks w, .acas p g sd sa sb ks w], Traps s p i 0x01 none) ∧
    (sb.toNat % 2 = 1 → Traps s p (.acas p g sd sa sb ks w) 0x01 none) ∧
    (6 ≤ fmt.toNat ∨ w = 2 ∨ w = 3 ∨ w = 0 ∧ fmt = 5 ∨ w = 0 ∧ fmt = 1 ∧ sb.toNat % 2 = 1 → Traps s p (.reds p g fmt sa sb ks w) 0x01 none) ∧
    (¬(imm.toNat ≤ 4 ∨ 8 ≤ imm.toNat ∧ imm.toNat ≤ 11 ∨ 16 ≤ imm.toNat ∧ imm.toNat ≤ 21) → Traps s p (.rsr p g sd imm) 0x01 none) ∧
    (¬(imm.toNat = 4 ∨ 8 ≤ imm.toNat ∧ imm.toNat ≤ 11 ∨ 16 ≤ imm.toNat ∧ imm.toNat ≤ 18) → Traps s p (.wsr p g sa imm) 0x01 none)

/-- R75: an instruction whose guard does not hold completes with no effect but the program counter's advance. -/
def Obligations.GuardFalse : Prop :=
  ∀ (s : State) (p : Pos) (g : Guard) (sd sa sb : BitVec 6) (pd pa pb : BitVec 3) (imm : BitVec 10) (i16 : BitVec 16) (disp : BitVec 22) (td : BitVec 4) (eng : BitVec 2) (init final : Bool),
    Fetches s p → guardOk (getStrand s p) g = false →
    ∀ i ∈ [Instr.add p g sd sa sb, .sub p g sd sa sb, .and p g sd sa sb, .or p g sd sa sb, .xor p g sd sa sb, .sll p g sd sa sb, .srl p g sd sa sb, .sra p g sd sa sb, .min p g sd sa sb, .max p g sd sa sb, .minu p g sd sa sb, .maxu p g sd sa sb, .andn p g sd sa sb, .clz p g sd sa 0, .ctz p g sd sa 0, .popc p g sd sa 0,
        .mul p g sd sa sb, .mulh p g sd sa sb, .mulhu p g sd sa sb, .div p g sd sa sb, .divu p g sd sa sb, .rem p g sd sa sb, .remu p g sd sa sb, .cmp p g 0 pd sa sb 0, .cmpi p g 0 pd sa imm, .pand p g pd pa pb, .por p g pd pa pb, .pxor p g pd pa pb, .pandn p g pd pa pb, .pnot p g pd pa, .pget p g sd, .pset p g sa,
        .addi p g sd sa imm, .andi p g sd sa imm, .ori p g sd sa imm, .xori p g sd sa imm, .shi p g sd sa 0, .li p g sd i16, .ins16 p g sd i16, .ins32 p g sd i16, .ins48 p g sd i16, .br p g disp, .call p g disp, .jr p g sd sa,
        .ldlB p g sd sa imm, .ldlH p g sd sa imm, .ldlW p g sd sa imm, .ldlWs p g sd sa imm, .ldlD p g sd sa imm, .stlB p g sd sa imm, .stlH p g sd sa imm, .stlW p g sd sa imm, .stlD p g sd sa imm,
        .gld p g sd sa 0 0 1, .gst p g 0 sa sb 0 1, .gather p g sa sb, .aadd p g sd sa sb 0 1, .acas p g sd sa 2 0 1, .reds p g 2 sa sb 0 0, .tmma p g eng td sa sb init final, .tld p g td sa, .tst p g td sa,
        .vadd p g sd sa sb, .vfma p g sd sa sb, .vrsum p g sd sa, .exp2 p g sd sa, .vcvt p g sd sa sb, .fenceAcq p g, .fenceRel p g, .fenceFull p g, .twait p g, .waitc p g pd sa sb, .rdc p g sd sa, .bar p g sa sb,
        .rsr p g sd 4, .wsr p g sa 4, .stopI p g, .yieldI p g, .spawn p g pd sa sb, .trap p g sa, .rett p g, .icinv p g, .bkpt p g],
      Leaves s p i (advance (getStrand s p))

/-- R87, R88, R89: the request each global instruction sends, with its opcode, address, key, payload and destination. -/
def Obligations.GlobalRequests : Prop :=
  ∀ (s : State) (p : Pos) (g : Guard) (sd sa sb : BitVec 6) (ks : BitVec 2) (k : Nat) (f : Flow),
    let st := getStrand s p
    let a := rd st sa
    let key := rdKey st ks
    let b := rd st sb
    let line := localRead s (coreOf p) b.toNat 64
    (Reaches s p g [sd, sa, 0] [sa] →
      (MaySend s p 4 0 true a k f → Requests s p (.gld p g sd sa 0 ks 0) 0x01 a key [] (.reg sd 4) true k f) ∧
      (MaySend s p 8 0 true a k f → Requests s p (.gld p g sd sa 0 ks 1) 0x02 a key [] (.reg sd 8) true k f)) ∧
    (Reaches s p g [0, sa, sb] [sa, sb] → LocalAt b 64 → MaySend s p 64 0 true a k f → Requests s p (.gld p g 0 sa sb ks 2) 0x03 a key [] (.line b.toNat) true k f) ∧
    (Reaches s p g [sa, sb] [sa, sb] →
      (MaySend s p 4 1 false a k f → Requests s p (.gst p g 0 sa sb ks 0) 0x08 a key (leBytes 4 b.toNat) .posted false k f) ∧
      (MaySend s p 8 1 false a k f → Requests s p (.gst p g 0 sa sb ks 1) 0x09 a key (leBytes 8 b.toNat) .posted false k f) ∧
      (LocalAt b 64 → sramBad s (localKey (coreOf p) b.toNat) 64 = false → MaySend s p 64 1 false a k f → Requests s p (.gst p g 0 sa sb ks 2) 0x0A a key line .posted false k f)) ∧
    (Reaches s p g [sd, sa, sb] [sa, sb] →
      (∀ (w : BitVec 2) (n : Nat), w = 0 ∧ n = 4 ∨ w = 1 ∧ n = 8 → MaySend s p n 2 true a k f →
        ∀ x ∈ [((0x10 : BitVec 8), Instr.aadd p g sd sa sb ks w), (0x11, .aand p g sd sa sb ks w), (0x12, .aor p g sd sa sb ks w), (0x13, .axor p g sd sa sb ks w), (0x14, .amin p g sd sa sb ks w),
               (0x15, .amax p g sd sa sb ks w), (0x16, .aminu p g sd sa sb ks w), (0x17, .amaxu p g sd sa sb ks w), (0x18, .aswap p g sd sa sb ks w)],
          Requests s p x.2 x.1 a key (leBytes n b.toNat) (.reg sd n) true k f)) ∧
    (sb.toNat % 2 = 0 → Reaches s p g [sd, sa, sb, sb + 1] [sa, sb, sb + 1] →
      (MaySend s p 4 2 true a k f → Requests s p (.acas p g sd sa sb ks 0) 0x19 a key (leBytes 4 b.toNat ++ leBytes 4 (rd st (sb + 1)).toNat) (.reg sd 4) true k f) ∧
      (MaySend s p 8 2 true a k f → Requests s p (.acas p g sd sa sb ks 1) 0x19 a key (leBytes 8 b.toNat ++ leBytes 8 (rd st (sb + 1)).toNat) (.reg sd 8) true k f))

/-- R89, R59, R32: the request of REDS by sum format and form. In a slice with the EXACT attribute, FP32 and BF16 trap with EXACT_REFUSED and send nothing. -/
def Obligations.ReductionStores : Prop :=
  ∀ (s : State) (p : Pos) (g : Guard) (fmt : BitVec 4) (sa sb : BitVec 6) (ks : BitVec 2) (k : Nat) (f : Flow),
    let st := getStrand s p
    let a := rd st sa
    let key := rdKey st ks
    let b := rd st sb
    (Reaches s p g [sa, sb] [sa, sb] →
      (isExact s p = false ∨ fmt.toNat < 4 →
        (∀ n : Nat, (fmt, n) ∈ [((0 : BitVec 4), 8), (2, 4), (3, 8), (4, 4)] → MaySend s p n 3 false a k f →
          Requests s p (.reds p g fmt sa sb ks 0) (0x40 + fmt.setWidth 8) a key (leBytes n b.toNat) .posted false k f) ∧
        (fmt.toNat < 6 → LocalAt b 64 → sramBad s (localKey (coreOf p) b.toNat) 64 = false → MaySend s p 64 3 false a k f →
          Requests s p (.reds p g fmt sa sb ks 1) (0x50 + fmt.setWidth 8) a key (localRead s (coreOf p) b.toNat 64) .posted false k f)) ∧
      (isExact s p = true → (fmt = 4 → Traps s p (.reds p g fmt sa sb ks 0) 0x08 none) ∧ (fmt = 4 ∨ fmt = 5 → Traps s p (.reds p g fmt sa sb ks 1) 0x08 none))) ∧
    (sb.toNat % 2 = 0 → Reaches s p g [sa, sb, sb + 1] [sa, sb, sb + 1] → MaySend s p 16 3 false a k f →
      Requests s p (.reds p g 1 sa sb ks 0) 0x41 a key (leBytes 8 b.toNat ++ leBytes 8 (rd st (sb + 1)).toNat) .posted false k f)

/-- R94: the lane arithmetic of VOP, and the two reductions in their fixed tree of six stages. -/
def Obligations.VectorLanes : Prop :=
  ∀ (s : State) (p : Pos) (g : Guard) (sd sa sb : BitVec 6),
    let d := rd (getStrand s p) sd
    let a := rd (getStrand s p) sa
    let b := rd (getStrand s p) sb
    let x := lane s p a
    Memory.wf s.mem.bytes → VectorRuns s p → VecAt a 256 → Sound s p a 256 →
    (Reaches s p g [sd, sa, sb] [sd, sa, sb] → VecAt d 256 → Apart a d 256 →
      (VecAt b 256 → Sound s p b 256 → Apart b d 256 → Apart a b 256 →
        Stores s p (.vadd p g sd sa sb) d (vecBytes (fun i => f32Add (x i) (lane s p b i))) ∧
        Stores s p (.vsub p g sd sa sb) d (vecBytes (fun i => f32Sub (x i) (lane s p b i))) ∧
        Stores s p (.vmul p g sd sa sb) d (vecBytes (fun i => f32Mul (x i) (lane s p b i))) ∧
        Stores s p (.vmax p g sd sa sb) d (vecBytes (fun i => f32Max (x i) (lane s p b i))) ∧
        Stores s p (.vmin p g sd sa sb) d (vecBytes (fun i => f32Min (x i) (lane s p b i))) ∧
        (Sound s p d 256 → Stores s p (.vfma p g sd sa sb) d (vecBytes (fun i => f32Fma (x i) (lane s p b i) (lane s p d i))))) ∧
      Stores s p (.vadds p g sd sa sb) d (vecBytes (fun i => f32Add (x i) (b.setWidth 32))) ∧
      Stores s p (.vmuls p g sd sa sb) d (vecBytes (fun i => f32Mul (x i) (b.setWidth 32)))) ∧
    (Reaches s p g [sd, sa] [sd, sa] → VecAt d 4 → Apart a d 4 →
      ∀ (y : Nat → Nat → F32), (∀ i, y 0 i = x i) →
        ((∀ k i, y (k + 1) i = f32Add (y k (2 * i)) (y k (2 * i + 1))) → Stores s p (.vrsum p g sd sa) d (leBytes 4 (y 6 0).toNat)) ∧
        ((∀ k i, y (k + 1) i = f32Max (y k (2 * i)) (y k (2 * i + 1))) → Stores s p (.vrmax p g sd sa) d (leBytes 4 (y 6 0).toNat)))

/-- R95, R96: the special functions, lane by lane, and the conversion of 64 elements, whose flags are ORed into FLAGS. -/
def Obligations.VectorFunctions : Prop :=
  ∀ (s : State) (p : Pos) (g : Guard) (sd sa sb : BitVec 6),
    let st := getStrand s p
    let d := rd st sd
    let a := rd st sa
    let x := lane s p a
    Memory.wf s.mem.bytes → VectorRuns s p →
    (Reaches s p g [sd, sa] [sd, sa] → VecAt a 256 → Sound s p a 256 → VecAt d 256 → Apart a d 256 →
      Stores s p (.exp2 p g sd sa) d (vecBytes (fun i => f32Exp2 (x i))) ∧ Stores s p (.log2 p g sd sa) d (vecBytes (fun i => f32Log2 (x i))) ∧
      Stores s p (.rcp p g sd sa) d (vecBytes (fun i => f32Rcp (x i))) ∧ Stores s p (.rsqrt p g sd sa) d (vecBytes (fun i => f32Rsqrt (x i))) ∧
      Stores s p (.sqrt p g sd sa) d (vecBytes (fun i => f32Sqrt (x i))) ∧ Stores s p (.tanh p g sd sa) d (vecBytes (fun i => f32Tanh (x i))) ∧
      Stores s p (.logistic p g sd sa) d (vecBytes (fun i => f32Logistic (x i))) ∧ Stores s p (.erf p g sd sa) d (vecBytes (fun i => f32Erf (x i)))) ∧
    (Reaches s p g [sd, sa, sb] [sd, sa, sb] → ∀ (src dst : Code) (sat : Bool), vcvtCtl (rd st sb) = some (src, dst, sat) →
      VecAt a (vcvtBytes src) → Sound s p a (vcvtBytes src) → VecAt d (vcvtBytes dst) → (a.toNat + vcvtBytes src ≤ d.toNat ∨ d.toNat + vcvtBytes dst ≤ a.toNat) →
      let vs := vcvtRead src (localRead s (coreOf p) a.toNat (vcvtBytes src))
      let r := vcvtWrite dst sat vs
      ∃ t, exec (.vcvt p g sd sa sb) s = .next t ∧
        Stored s t p (localKey (coreOf p) d.toNat) r.1 { advance st with flags := st.flags ||| (nanFlags vs ||| r.2) })

/-- R94, R96, R106, R119, R120, R453: where the vector instructions trap, where they wait, and their residue check: an instruction whose check fails is executed again, later ones of the core's other strands waiting behind it, and its core is marked failed at the third failure of the one instruction. Which operand's address TVAL holds is the model's choice (log entry 87). -/
def Obligations.VectorTraps : Prop :=
  (∀ (s : State) (p : Pos) (g : Guard) (sd sa sb : BitVec 6) (i : Instr),
      let d := rd (getStrand s p) sd
      let a := rd (getStrand s p) sa
      i = .exp2 p g sd sa ∨ i = .log2 p g sd sa ∨ i = .rcp p g sd sa ∨ i = .rsqrt p g sd sa ∨ i = .sqrt p g sd sa ∨ i = .tanh p g sd sa ∨ i = .logistic p g sd sa ∨ i = .erf p g sd sa →
      (Reaches s p g [sd, sa] [sd, sa] →
        ((getCore s (coreOf p)).failed = true → Waits s p i .failedCore) ∧
        ((getCore s (coreOf p)).failed = false → atFloor s = true → Waits s p i .floor) ∧
        (UnitRuns s p → behindPin s p = true → exec i s = .next s) ∧
        (VectorRuns s p → 0x100000 < a.toNat + 256 → Traps s p i 0x04 (some a)) ∧
        (VectorRuns s p → a.toNat + 256 ≤ 0x100000 → 0x100000 < d.toNat + 256 → Traps s p i 0x04 (some d)) ∧
        (VectorRuns s p → a.toNat + 256 ≤ 0x100000 → d.toNat + 256 ≤ 0x100000 → a.toNat % 64 ≠ 0 → Traps s p i 0x03 (some a)) ∧
        (VectorRuns s p → VecAt a 256 → d.toNat + 256 ≤ 0x100000 → d.toNat % 64 ≠ 0 → Traps s p i 0x03 (some d))) ∧
      (Reaches s p g [sd, sa, sb] [sd, sa, sb] → VectorRuns s p → vcvtCtl (rd (getStrand s p) sb) = none → Traps s p (.vcvt p g sd sa sb) 0x01 none)) ∧
  (∀ (s : State) (p : Pos), canIssue s p = true → VectorRuns s p →
      let k := getCore s (coreOf p)
      let pin := fun n : Nat => ({ strand := p.strand, gen := (getStrand s p).gen, pc := (getStrand s p).pc, fails := n } : VecPin)
      (∀ n : Nat, (n = 1 ∧ pinned s p = false ∨ n = 2 ∧ k.vecPin = some (pin 1)) → ∃ t, exec (.vectorResidueFail p) s = .next t ∧
        getCore t (coreOf p) = { k with vecPin := some (pin n), vecRecomp := Min.min (k.vecRecomp + 1) 0xFFFF } ∧ (∀ c, c ≠ coreOf p → getCore t c = getCore s c) ∧
        t = { s with compute := { s.compute with cores := t.compute.cores } }) ∧
      (k.vecPin = some (pin 2) → ∃ t, exec (.vectorResidueFail p) s = .next t ∧ (getCore t (coreOf p)).failed = true))

/-- R91, R92, R113, R117, R120: TLD and TST move a descriptor; TMMA is queued, with its descriptor and registers as they stood at issue, on the engine it names or the next unfenced one after it; while that engine's queue is full it waits, whatever cause it has. -/
def Obligations.TileInstructions : Prop :=
  ∀ (s : State) (p : Pos) (g : Guard) (eng : BitVec 2) (td : BitVec 4) (sa sb : BitVec 6) (init final : Bool),
    let st := getStrand s p
    let c := coreOf p
    let a := rd st sa
    (Reaches s p g [sa] [sa] → LocalAt a 32 →
      (sramBad s (localKey c a.toNat) 32 = false → Leaves s p (.tld p g td sa) (wrTd (advance st) td (BitVec.ofNat 256 (leNat (localRead s c a.toNat 32))))) ∧
      (Memory.wf s.mem.bytes → Stores s p (.tst p g td sa) a (leBytes 32 (rdTd st td).toNat))) ∧
    (Reaches s p g [sa, sb] [sa, sb] →
      ((getCore s c).failed = true → Waits s p (.tmma p g eng td sa sb init final) .failedCore) ∧
      ((getCore s c).failed = false → atFloor s = true → Waits s p (.tmma p g eng td sa sb init final) .floor) ∧
      (UnitRuns s p →
        ∀ j e : Nat, e = (eng.toNat + j) % 4 → j < 4 → (∀ i < j, (getCore s c).fenced.getLsbD ((eng.toNat + i) % 4) = true) → (getCore s c).fenced.getLsbD e = false →
          (8 ≤ (getEngine s c e).queue.length → Waits s p (.tmma p g eng td sa sb init final) (.engineQueue e)) ∧
          ((getEngine s c e).queue.length < 8 → ∀ cause, tmmaCause (isExact s p) (rdTd st td) a (rd st sb) init final = some cause →
            Traps s p (.tmma p g eng td sa sb init final) cause (if cause = 0x04 then some (tmmaFaultAddr (rdTd st td) a (rd st sb) init final) else none)) ∧
          ((getEngine s c e).queue.length < 8 → tmmaCause (isExact s p) (rdTd st td) a (rd st sb) init final = none → ∃ t x, exec (.tmma p g eng td sa sb init final) s = .next t ∧
            (getEngine t c e).queue = (getEngine s c e).queue ++ [x] ∧ x.p = p ∧ x.gen = st.gen ∧ x.pc = st.pc ∧ x.td = rdTd st td ∧ x.sa = a ∧ x.sb = rd st sb ∧ x.init = init ∧ x.final = final ∧ x.execs = 1 ∧ x.prior = 0 ∧
            getStrand t p = { advance st with tmmas := st.tmmas + 1 } ∧ (∀ q, q ≠ p → getStrand t q = getStrand s q) ∧
            t = { s with compute := { s.compute with strands := t.compute.strands, cores := t.compute.cores } })))

/-- R64, R90, R125, R130: a GATHER whose descriptor passes and whose first read has request credit starts in a free slot of a unit that holds none, and the strand goes on; without the credit it waits for it; one that fails a check reads nothing, leaves the counters and takes no slot, and is posted to the slice's ring with DENIED or BAD_PARAM. -/
def Obligations.GatherStarts : Prop :=
  ∀ (s : State) (p : Pos) (g : Guard) (sa sb : BitVec 6),
    let st := getStrand s p
    let a := rd st sa
    let x := rd st sb
    let desc := BitVec.ofNat 512 (leNat (localRead s (coreOf p) a.toNat 64))
    let d := p.die.val
    let l := p.cluster.val
    Reaches s p g [sa, sb] [sa, sb] → sramBad s (localKey (coreOf p) a.toNat) 64 = false →
    ((∀ k < 32, (getGather s d l k).isSome = true) → Waits s p (.gather p g sa sb) .gatherSlot) ∧
    ((getCluster s d l).slots = [] →
      (a.toNat % 64 = 0 → inFelt a.toNat 64 = true → x.toNat < 16384 → gaFieldsOk desc = true → ownsCounter s d x.toNat (strandSliceId s p) = true → gaPtloc desc = false →
        let slot : GatherSlot := { p := p, gen := st.gen, pc := st.pc, slice := strandSliceId s p, counter := x.toNat, desc := desc }
        (gatherCredit s slot = none → ∃ t, exec (.gather p g sa sb) s = .next t ∧ getGather t d l 0 = some slot ∧
          (∀ q, getStrand t q = if q = p then advance st else getStrand s q) ∧ t.mem = s.mem) ∧
        (∀ w s', gatherCredit s slot = some (w, s') → exec (.gather p g sa sb) s = .next (waitOn s' p w))) ∧
      (∀ status, gatherStatus s p a x desc = some status → (status = stDenied ∨ status = stBadParam) ∧
        ∃ t, exec (.gather p g sa sb) s = .next t ∧ (getCluster t d l).slots = [] ∧ t.fab = { s.fab with rings := t.fab.rings, groups := t.fab.groups } ∧ t.out = s.out ∧
          (∀ q, getStrand t q = if q = p then advance st else getStrand s q)))

/-- R93, R97 to R99, R101: a fence or TWAIT completes where its condition holds and waits where it does not; WAITC and RDC on a counter of the slice; and BAR, whose first arrival fixes n and whose n-th makes every strand that waits READY past its BAR and resets the barrier. -/
def Obligations.FencesAndBarriers : Prop :=
  (∀ (s : State) (p : Pos) (g : Guard) (pd : BitVec 3) (sd sa sb : BitVec 6),
      let st := getStrand s p
      let k := (rd st sa).toNat
      let v := counterVal s p.die.val k
      let acq : Prop := st.loads = 0
      let rel : Prop := st.posted = 0 ∧ atomicsOut s p = 0
      let tw : Prop := st.tmmas = 0
      (Reaches s p g [] [] →
        (acq → Leaves s p (.fenceAcq p g) (advance st)) ∧ (¬acq → Waits s p (.fenceAcq p g) .fenceAcq) ∧
        (rel → Leaves s p (.fenceRel p g) (advance st)) ∧ (¬rel → Waits s p (.fenceRel p g) .fenceRel) ∧
        (tw → LeavesTwait s p (.twait p g) (advance st)) ∧ (¬tw → Waits s p (.twait p g) .twait) ∧
        (acq ∧ rel ∧ tw → LeavesTwait s p (.fenceFull p g) (advance st)) ∧ (¬(acq ∧ rel ∧ tw) → Waits s p (.fenceFull p g) .fenceFull)) ∧
      (Reaches s p g [sd, sa] [sa] →
        (k < 16384 → ownsCounter s p.die.val k (strandSliceId s p) = true → Writes s p (.rdc p g sd sa) sd v) ∧
        (k < 16384 → ownsCounter s p.die.val k (strandSliceId s p) = false → Traps s p (.rdc p g sd sa) 0x09 none) ∧
        (16384 ≤ k → Traps s p (.rdc p g sd sa) 0x01 none)) ∧
      (Reaches s p g [sa, sb] [sa, sb] →
        (16384 ≤ k → Traps s p (.waitc p g pd sa sb) 0x01 none) ∧
        (k < 16384 → ownsCounter s p.die.val k (strandSliceId s p) = false → Traps s p (.waitc p g pd sa sb) 0x09 none) ∧
        (k < 16384 → ownsCounter s p.die.val k (strandSliceId s p) = true →
          ((rd st sb).toNat ≤ v.toNat → Decides s p (.waitc p g pd sa sb) pd true) ∧
          (v.toNat < (rd st sb).toNat → Leaves s p (.waitc p g pd sa sb) { st with st := .wait, wait := .waitc k (rd st sb) pd, deadline := if st.wto = 0 then none else some (s.tb.time + st.wto.toNat * 4000) })))) ∧
  (∀ (s : State) (p : Pos) (g : Guard) (sa sb : BitVec 6),
      let st := getStrand s p
      let c := coreOf p
      let b := (rd st sa).toNat
      let n := (rd st sb).toNat
      let x := getBar s c b
      Reaches s p g [sa, sb] [sa, sb] →
      (8 ≤ b ∨ n = 0 ∨ 32 < n → Traps s p (.bar p g sa sb) 0x01 none) ∧
      (b < 8 → 0 < n → n ≤ 32 →
        (x.arrived ≠ [] → x.n ≠ n → Traps s p (.bar p g sa sb) 0x0A none) ∧
        (x.arrived = [] ∨ x.n = n → x.arrived.length + 1 < n → ∃ t, exec (.bar p g sa sb) s = .next t ∧
          getStrand t p = { st with st := .wait, wait := .barrier b n } ∧ getBar t c b = { n := n, arrived := x.arrived ++ [p.strand.val] } ∧
          (∀ q, q ≠ p → getStrand t q = getStrand s q) ∧ t = { s with compute := { s.compute with strands := t.compute.strands, cores := t.compute.cores } }) ∧
        (x.arrived = [] ∨ x.n = n → n ≤ x.arrived.length + 1 → x.arrived.Nodup → (∀ k ∈ x.arrived, k < 32 ∧ k ≠ p.strand.val) → ∃ t, exec (.bar p g sa sb) s = .next t ∧
          getStrand t p = advance st ∧
          (∀ q, coreOf q = c → q.strand.val ∈ x.arrived → getStrand t q = { advance (getStrand s q) with st := .ready, wait := .nothing, deadline := none }) ∧
          (∀ q, q ≠ p → (coreOf q = c → q.strand.val ∉ x.arrived) → getStrand t q = getStrand s q) ∧
          Tab.find (getCore t c).barriers b = none ∧ t = { s with compute := { s.compute with strands := t.compute.strands, cores := t.compute.cores } })))

/-- R70 to R72: what RSR reads and what WSR writes. CYCLE is what the core's count has risen to, FTIME lags fabric time by less than one arithmetic cycle, 4,000 units at 1 MHz (log entries 12 and 17). -/
def Obligations.SystemRegisters : Prop :=
  ∀ (s : State) (p : Pos) (g : Guard) (sd sa : BitVec 6),
    let st := getStrand s p
    let v := rd st sa
    (Reaches s p g [sd] [] →
      (∃ w : Word, Writes s p (.rsr p g sd 0) sd w ∧ w.toNat = (nodeOf s p.die.val).toNat * 2 ^ 32 + p.die.val * 2 ^ 13 + p.cluster.val * 2 ^ 9 + p.core.val * 2 ^ 5 + p.strand.val) ∧
      (∃ w : Word, Writes s p (.rsr p g sd 1) sd w ∧ w.toNat = (strandSliceId s p).toNat + (if isExact s p then 2 ^ 16 else 0)) ∧
      (∃ t, exec (.rsr p g sd 2) s = .next t ∧ getStrand t p = wr (advance st) sd (cycleWord (getCore t (coreOf p))) ∧ (getCore s (coreOf p)).cycle ≤ (getCore t (coreOf p)).cycle) ∧
      (∃ t w, exec (.rsr p g sd 3) s = .next t ∧ getStrand t p = wr (advance st) sd (BitVec.ofNat 64 w) ∧ w ≤ t.tb.time ∧ (t.tb.time - w) * dieFreq s p.die.val < 4000) ∧
      Writes s p (.rsr p g sd 4) sd (st.flags.setWidth 64) ∧
      (∀ k : Fin 4, Writes s p (.rsr p g sd (BitVec.ofNat 10 (8 + k.val))) sd (rdKey st (BitVec.ofFin k))) ∧
      Writes s p (.rsr p g sd 0x10) sd (st.wto.setWidth 64) ∧ Writes s p (.rsr p g sd 0x11) sd st.tvec ∧ Writes s p (.rsr p g sd 0x12) sd st.epc ∧
      (∃ w : Word, Writes s p (.rsr p g sd 0x13) sd w ∧ w.toNat = st.code.toNat + (if st.async then 2 ^ 8 else 0) + (if st.inHandler then 2 ^ 9 else 0)) ∧
      Writes s p (.rsr p g sd 0x14) sd st.tval ∧
      (st.tmmas < 256 → st.loads < 32 → Writes s p (.rsr p g sd 0x15) sd (BitVec.ofNat 64 (st.tmmas * 2 ^ 8 + st.loads)))) ∧
    (Reaches s p g [sa] [sa] →
      Leaves s p (.wsr p g sa 4) { advance st with flags := st.flags &&& ~~~ v.setWidth 4 } ∧
      (∀ k : Fin 4, ∃ st', Leaves s p (.wsr p g sa (BitVec.ofNat 10 (8 + k.val))) st' ∧ (∀ j : BitVec 2, rdKey st' j = if j.toNat = k.val then v else rdKey st j) ∧ st' = { advance st with keys := st'.keys }) ∧
      Leaves s p (.wsr p g sa 0x10) { advance st with wto := v.setWidth 32 } ∧
      (∃ w : Word, Leaves s p (.wsr p g sa 0x11) { advance st with tvec := w } ∧ ∀ i < 64, w.getLsbD i = (v.getLsbD i && i ≠ 1)) ∧
      (∃ w : Word, Leaves s p (.wsr p g sa 0x12) { advance st with epc := w } ∧ w.toNat = v.toNat / 4 * 4))

/-- R63, R67, R102, R511, R512: the instructions that start, end, yield, trap, return, invalidate and halt. -/
def Obligations.StrandControl : Prop :=
  ∀ (s : State) (p : Pos) (g : Guard) (pd : BitVec 3) (sa sb : BitVec 6),
    let st := getStrand s p
    (Reaches s p g [] [] →
      Leaves s p (.stopI p g) { st := .free, gen := st.gen } ∧
      Leaves s p (.yieldI p g) { advance st with yielded := true } ∧
      (st.inHandler = true → Leaves s p (.rett p g) { jump st.epc st with inHandler := false }) ∧
      (st.inHandler = false → Traps s p (.rett p g) 0x01 none) ∧
      (∃ t, exec (.icinv p g) s = .next t ∧ getStrand t p = advance st ∧ (getCore t (coreOf p)).icache = [] ∧ (∀ q, q ≠ p → getStrand t q = getStrand s q) ∧
        t = { s with compute := { s.compute with strands := t.compute.strands, cores := t.compute.cores } }) ∧
      (.instr ∈ st.skipBkpt → Leaves s p (.bkpt p g) (advance st)) ∧
      (.instr ∉ st.skipBkpt → ∃ t, exec (.bkpt p g) s = .next t ∧ (getStrand t p).st = .halted ∧ (getStrand t p).pc = st.pc ∧ (getStrand t p).haltBk = some .instr ∧ (getStrand t p).drained = false ∧
        (∀ q, q ≠ p → getStrand t q = getStrand s q) ∧ t = { s with compute := { s.compute with strands := t.compute.strands, cores := t.compute.cores } })) ∧
    (Reaches s p g [sa] [sa] → ∃ v : Word, v.toNat = (rd st sa).toNat % 2 ^ 16 ∧ Traps s p (.trap p g sa) 0x0B (some v)) ∧
    (Reaches s p g [sa, sb] [sa, sb] → ∀ q : Pos, coreOf q = coreOf p → q.strand.val = (rd st sa).toNat % 32 →
      ((rd st sb).toNat % 4 ≠ 0 → Traps s p (.spawn p g pd sa sb) 0x03 (some (rd st sb))) ∧
      ((rd st sb).toNat % 4 = 0 → (getStrand s q).st ≠ .free → Decides s p (.spawn p g pd sa sb) pd false) ∧
      ((rd st sb).toNat % 4 = 0 → (getStrand s q).st = .free → ∃ t, exec (.spawn p g pd sa sb) s = .next t ∧
        getStrand t p = wrP (advance st) pd true ∧ getStrand t q = { st := .ready, pc := rd st sb, keys := st.keys, tvec := st.tvec, gen := (getStrand s q).gen + 1 } ∧
        (∀ r, r ≠ p → r ≠ q → getStrand t r = getStrand s r) ∧ t = { s with compute := { s.compute with strands := t.compute.strands, cores := t.compute.cores } }))

/-- R63, R64, R93, R98, R101: while a candidate of its core stands before a strand in the search, the strand does not issue; a strand that executed YIELD is passed over once, on the way to the strand that issues, or by a search that finds no other. When the condition of a wait has cleared, a WAITC, fence or TWAIT completes and any other instruction is READY to issue again; a WAITC whose timeout expires below its threshold writes 0. -/
def Obligations.YieldsAndWakes : Prop :=
  (∀ (s : State) (p : Pos) (g : Guard) (sd sa sb : BitVec 6), canRun s p = true → yields s p = true →
      ((∃ q, coreOf q = coreOf p ∧ candidate s q = true) → exec (.add p g sd sa sb) s = .next s ∧ exec (.stopI p g) s = .next s) ∧
      ((∀ q, coreOf q = coreOf p → candidate s q = false) →
        Leaves s p (.add p g sd sa sb) { getStrand s p with yielded := false } ∧ Leaves s p (.stopI p g) { getStrand s p with yielded := false })) ∧
  (∀ (s : State) (p q : Pos) (g : Guard) (sd sa sb : BitVec 6), Reaches s p g [sd, sa, sb] [sa, sb] → pinned s p = false → coreOf q = coreOf p →
      (getStrand s q).st = .ready → yields s q = true → searchIx (getCore s (coreOf p)) q < searchIx (getCore s (coreOf p)) p →
      ∃ t, exec (.add p g sd sa sb) s = .next t ∧ (getCore t (coreOf p)).rr = (p.strand.val + 1) % 32 ∧ yields t q = false) ∧
  (∀ (s : State) (p q : Pos) (g : Guard) (sd sa sb : BitVec 6), canRun s p = true → yields s p = false → pinned s p = false → coreOf q = coreOf p → candidate s q = true →
      searchIx (getCore s (coreOf p)) q < searchIx (getCore s (coreOf p)) p → fetchOk s p = true → fetchPoisoned s p = false → pcBkpt s p = none → guardOk (getStrand s p) g = false → exec (.add p g sd sa sb) s = .next s) ∧
  (∀ (s : State) (p : Pos), (getStrand s p).st = .wait → (residentOn s p.die p.cluster).isSome = true →
      let st := getStrand s p
      let past := { advance st with st := .ready, wait := .nothing, deadline := none }
      let again := { st with st := .ready, wait := .nothing, deadline := none }
      (∀ k t pd, st.wait = .waitc k t pd → t.toNat ≤ (counterVal s p.die.val k).toNat → Leaves s p (.strandWake p) (wrP past pd true)) ∧
      (st.wait = .fenceAcq → st.loads = 0 → Leaves s p (.strandWake p) past) ∧
      (st.wait = .fenceRel → st.posted = 0 → atomicsOut s p = 0 → Leaves s p (.strandWake p) past) ∧
      (st.wait = .twait → st.tmmas = 0 → LeavesTwait s p (.strandWake p) past) ∧
      (st.wait = .fenceFull → st.loads = 0 → st.posted = 0 → atomicsOut s p = 0 → st.tmmas = 0 → LeavesTwait s p (.strandWake p) past) ∧
      (∀ rs, st.wait = .register rs → (∀ r ∈ rs, r ∉ busyRegs s p) → Leaves s p (.strandWake p) again) ∧
      (st.wait = .loadLimit → st.loads < 16 → coreLoads s (coreOf p) < 512 → Leaves s p (.strandWake p) again) ∧
      (∀ e, st.wait = .engineQueue e → (getEngine s (coreOf p) (substituteOf (getCore s (coreOf p)).fenced e)).queue.length < 8 → Leaves s p (.strandWake p) again) ∧
      (∀ k a, st.wait = .credit (some k) a → creditFor s p.die.val k = true → Leaves s p (.strandWake p) again) ∧
      (st.wait = .gatherSlot → (∃ k < 32, getGather s p.die.val p.cluster.val k = none) → Leaves s p (.strandWake p) again) ∧
      (st.wait = .floor → atFloor s = false → Leaves s p (.strandWake p) again) ∧
      (∀ k t pd d, st.wait = .waitc k t pd → st.deadline = some d → d ≤ s.tb.time → (counterVal s p.die.val k).toNat < t.toNat → Leaves s p (.waitcTimeout p) (wrP past pd false)))

/-- R68, R74, R76, R77: a fetch outside the slice's granules traps with FETCH_FAULT and an invalid encoding with ILLEGAL_OP; a fetch of a poisoned sector that is not cached stops the strand with cause POISONED. A word that carries no unassigned value and no non-zero reserved field stands for an instruction, with its guard from bits 25 to 22 and its fields where its format has them; the example of R90 is GLD of 8 bytes. -/
def Obligations.FetchAndDecode : Prop :=
  (∀ (p : Pos) (w : BitVec 32), (decodeWord p w).isSome = legalWord w) ∧
  (∀ (p : Pos) (pg cond pd : BitVec 3) (pn : Bool) (sd sa sb : BitVec 6) (ks : BitVec 2) (imm : BitVec 10) (i16 : BitVec 16) (disp : BitVec 22) (eng : BitVec 2) (td : BitVec 4) (init final : Bool),
      let word := fun op rest : Nat => BitVec.ofNat 32 (op * 2 ^ 26 + pg.toNat * 2 ^ 23 + (if pn then 2 ^ 22 else 0) + rest)
      let r := fun (op d a b fn : Nat) => word op (d * 2 ^ 16 + a * 2 ^ 10 + b * 2 ^ 4 + fn)
      let g : Guard := ⟨pg, pn⟩
      decodeWord p (r 0x00 sd.toNat sa.toNat sb.toNat 1) = some (.sub p g sd sa sb) ∧
      decodeWord p (r 0x01 sd.toNat sa.toNat sb.toNat 3) = some (.div p g sd sa sb) ∧
      (cond ≠ 7 → decodeWord p (r 0x02 (cond.toNat * 8 + pd.toNat) sa.toNat sb.toNat 2) = some (.cmp p g cond pd sa sb 2)) ∧
      decodeWord p (word 0x08 (sd.toNat * 2 ^ 16 + sa.toNat * 2 ^ 10 + imm.toNat)) = some (.addi p g sd sa imm) ∧
      decodeWord p (word 0x20 (sd.toNat * 2 ^ 16 + sa.toNat * 2 ^ 10 + imm.toNat)) = some (.stlD p g sd sa imm) ∧
      decodeWord p (word 0x11 (sd.toNat * 2 ^ 16 + i16.toNat)) = some (.ins48 p g sd i16) ∧
      decodeWord p (word 0x15 disp.toNat) = some (.call p g disp) ∧
      decodeWord p (r 0x24 sd.toNat sa.toNat 0 (ks.toNat * 4 + 1)) = some (.gld p g sd sa 0 ks 1) ∧
      decodeWord p (r 0x30 sd.toNat sa.toNat sb.toNat (ks.toNat * 4)) = some (.aswap p g sd sa sb ks 0) ∧
      decodeWord p (word 0x34 (eng.toNat * 2 ^ 20 + td.toNat * 2 ^ 14 + sa.toNat * 2 ^ 8 + sb.toNat * 2 ^ 2 + (if final then 2 else 0) + (if init then 1 else 0))) = some (.tmma p g eng td sa sb init final) ∧
      decodeWord p (r 0x38 sd.toNat sa.toNat sb.toNat 3) = some (.vfma p g sd sa sb) ∧
      decodeWord p (r 0x3C 0 0 0 1) = some (.fenceRel p g) ∧
      decodeWord p (r 0x3F pd.toNat sa.toNat sb.toNat 2) = some (.spawn p g pd sa sb)) ∧
  (∀ p : Pos, decodeWord p 0x91853005 = some (.gld p ⟨3, false⟩ 5 12 0 1 1)) ∧
  ∀ (s : State) (p : Pos) (word : BitVec 32), canIssue s p = true → yields s p = false →
    (∀ i, decodeWord p word = some i → exec (.illegalOp p word) s = .next s) ∧
    (fetchOk s p = false → Traps s p (.fetchFault p) 0x02 (some (pcAddr s p))) ∧
    (fetchOk s p = true → fetchPoisoned s p = false → pcBkpt s p = none → decodeWord p word = none → Traps s p (.illegalOp p word) 0x01 none) ∧
    (fetchOk s p = true → fetchPoisoned s p = true → ∃ t, exec (.poisonedFetch p) s = .next t ∧ (getStrand t p).st = .stopped ∧ (getStrand t p).code = 0x21 ∧ (getStrand t p).async = false ∧
      (getStrand t p).epc = (getStrand s p).pc &&& ~~~ 3#64 ∧ (getStrand t p).tval = pcAddr s p)

/-- R66, R70, R264, R446: an idle core's clock stops, but not from 50 ns before a barrier's release on, and runs again when one of its strands is READY; its count of cycles stands still meanwhile. R117: an engine's clock stops when its queue is empty and its output written, and runs again when a TMMA is queued. -/
def Obligations.ClockGating : Prop :=
  ∀ (s : State) (c : CorePos) (eng : Fin 4),
    (coreIdle s c = true → (getCore s c).gated = false → barrierNear s c.die.val c.cluster.val = false → ∃ t, exec (.coreGate c) s = .next t ∧
      getCore t c = { getCore s c with gated := true, cycle := (getCore t c).cycle, cycAt := (getCore t c).cycAt } ∧ (getCore s c).cycle ≤ (getCore t c).cycle ∧ (getCluster t c.die.val c.cluster.val).idleSince = s.tb.time ∧
      (∀ d, d ≠ c → getCore t d = getCore s d) ∧ t = { s with compute := { s.compute with cores := t.compute.cores, clusters := t.compute.clusters }, freeCtr := t.freeCtr }) ∧
    (barrierNear s c.die.val c.cluster.val = true → exec (.coreGate c) s = .next s) ∧
    (coreIdle s c = false → (getCore s c).gated = true → ∃ t, exec (.coreWake c) s = .next t ∧ getCore t c = { getCore s c with gated := false, cycAt := (getCore t c).cycAt } ∧ (getCluster t c.die.val c.cluster.val).pllDown = false ∧
      (∀ d, d ≠ c → getCore t d = getCore s d) ∧ t = { s with compute := { s.compute with cores := t.compute.cores, clusters := t.compute.clusters } }) ∧
    ((getEngine s c eng.val).queue = [] → (getEngine s c eng.val).running = none → (getCore s c).engGated.getLsbD eng.val = false → ∃ t, exec (.engineGate c eng) s = .next t ∧
      (∀ i < 4, (getCore t c).engGated.getLsbD i = ((getCore s c).engGated.getLsbD i || decide (i = eng.val))) ∧ getCore t c = { getCore s c with engGated := (getCore t c).engGated } ∧
      (∀ d, d ≠ c → getCore t d = getCore s d) ∧ t = { s with compute := { s.compute with cores := t.compute.cores, clusters := t.compute.clusters } }) ∧
    ((getEngine s c eng.val).queue ≠ [] → (getCluster s c.die.val c.cluster.val).pllDown = false → ∃ t, exec (.engineWake c eng) s = .next t ∧
      (∀ i < 4, (getCore t c).engGated.getLsbD i = ((getCore s c).engGated.getLsbD i && decide (i ≠ eng.val))) ∧ getCore t c = { getCore s c with engGated := (getCore t c).engGated } ∧
      (∀ d, d ≠ c → getCore t d = getCore s d) ∧ t = { s with compute := { s.compute with cores := t.compute.cores } })

/-- R92, R93, R112, R114, R115, R119, R120, R154: TMMA_START, TMMA_COMPLETE and ENGINE_RESIDUE_FAIL complete on every engine that may work (see `EngineLive`). A start takes the TMMA at the head of the queue, reads its operands and fixes its rows, one for each of M; where a word of an operand is poisoned the engine is free again and nothing is written. A completion writes the rows, the row m at C + m times CSTR, and the status word, and nothing else of memory; the engine is free and the strand that issued the TMMA counts one fewer. A failed check has the TMMA executed again while it has been executed fewer than three times; at the third failure the engine is fenced and its queue moves, or, where no other engine is unfenced, the core is marked failed. -/
def Obligations.EngineRuns : Prop :=
  (∀ (s : State) (c : CorePos) (eng : Fin 4) (x : Tmma) (rest : List Tmma), EngineLive s c eng →
    (getEngine s c eng.val).running = none → (getEngine s c eng.val).queue = x :: rest →
    (operandBad s c x = false → anchorDiffers s c x = false → ∃ t, exec (.tmmaStart c eng) s = .next t ∧
      EngineOnly s t c eng.val { queue := rest, running := some { x with execs := 1 }, rows := (getEngine t c eng.val).rows, flags := (getEngine t c eng.val).flags } ∧
      (getEngine t c eng.val).rows.length = tdM x.td) ∧
    (operandBad s c x = true → ∃ t, exec (.tmmaStart c eng) s = .next t ∧ (getEngine t c eng.val).running = none ∧ (getEngine t c eng.val).queue = rest)) ∧
  (∀ (s : State) (c : CorePos) (eng : Fin 4) (x : Tmma), EngineLive s c eng → (getEngine s c eng.val).running = some x → Memory.wf s.mem.bytes →
    let e := getEngine s c eng.val
    let at_ := fun m : Nat => localKey c (sbC x.sb + m * tdCstr x.td)
    let word := localKey c (4 * tdStw x.td)
    ∃ t, exec (.tmmaComplete c eng) s = .next t ∧
      getEngine t c eng.val = { e with running := none, rows := [], flags := 0 } ∧ (∀ k, k ≠ eng.val → getEngine t c k = getEngine s c k) ∧ (∀ d, d ≠ c → getCore t d = getCore s d) ∧
      ((getStrand s x.p).st ≠ .free → (getStrand s x.p).gen = x.gen → getStrand t x.p = { getStrand s x.p with tmmas := (getStrand s x.p).tmmas - 1 }) ∧
      (∀ q, q ≠ x.p → getStrand t q = getStrand s q) ∧
      (tdSten x.td = true → x.spoiled = false → selfOverlap x.td x.sa x.sb x.final = false →
        memRead t.mem.bytes word 4 = leBytes 4 (2 ^ 31 + (x.prior + x.execs - 1) % 256 * 256 + e.flags.toNat)) ∧
      (x.spoiled = false → selfOverlap x.td x.sa x.sb x.final = false →
        (∀ m row, e.rows[m]? = some row → row.length ≤ tdCstr x.td ∧ sbC x.sb + m * tdCstr x.td + row.length ≤ 0x100000 ∧ (tdSten x.td = true → word + 4 ≤ at_ m ∨ at_ m + row.length ≤ word)) →
        ∀ m row, e.rows[m]? = some row → memRead t.mem.bytes (at_ m) row.length = row) ∧
      (∀ y, (∀ m row, e.rows[m]? = some row → y < at_ m ∨ at_ m + row.length ≤ y) → (tdSten x.td = true → y < word ∨ word + 4 ≤ y) → memByte t.mem.bytes y = memByte s.mem.bytes y)) ∧
  (∀ (s : State) (c : CorePos) (eng : Fin 4) (x : Tmma), EngineLive s c eng → (getEngine s c eng.val).running = some x →
    (x.execs < 3 → operandBad s c x = false → anchorDiffers s c x = false → ∃ t, exec (.engineResidueFail c eng) s = .next t ∧
      (getEngine t c eng.val).running = some { x with execs := x.execs + 1 } ∧ (getEngine t c eng.val).queue = (getEngine s c eng.val).queue ∧ (getEngine t c eng.val).rows.length = tdM x.td ∧
      (getCore t c).engRecomp = Min.min ((getCore s c).engRecomp + 1) 0xFFFF ∧ (∀ d, d ≠ c → getCore t d = getCore s d) ∧ t = { s with compute := { s.compute with cores := t.compute.cores } }) ∧
    (3 ≤ x.execs → (∃ k : Fin 4, k ≠ eng ∧ (getCore s c).fenced.getLsbD k.val = false) → ∃ t, exec (.engineResidueFail c eng) s = .next t ∧
      (getCore t c).fenced.getLsbD eng.val = true ∧ (getEngine t c eng.val).running = none ∧ (getEngine t c eng.val).queue = [] ∧ (∀ q, getStrand t q = getStrand s q) ∧ t.mem.bytes = s.mem.bytes) ∧
    (3 ≤ x.execs → (∀ k : Fin 4, k ≠ eng → (getCore s c).fenced.getLsbD k.val = true) → ∃ t, exec (.engineResidueFail c eng) s = .next t ∧
      (getCore t c).failed = true ∧ (getEngine t c eng.val).running = none ∧ (getEngine t c eng.val).queue = []))

/-- R18, R24, R133, R134, R472, R485: the spare takes the place of a failed cluster, another that waited for it leaves service unless it is only fenced, the highest cluster takes a vacated number, and a die-to-die link fails over and returns. -/
def Obligations.SpareClusters : Prop :=
  (∀ (s : State) (die : Fin 4) (cluster : Fin 12),
    (getMap s die.val).failedCl.contains cluster.val = true → (getMap s die.val).spare ≠ 0xF → sliceOn s die.val cluster.val = none → Memory.wf s.mem.bytes →
    ∃ t, exec (.spareSubstitute die cluster) s = .next (pumpMem t) ∧
      physCluster t die.val cluster.val = (getMap s die.val).spare ∧ (getMap t die.val).spare = 0xF ∧ (getMap t die.val).failedCl = [] ∧ t.rst.spareUsed.getLsbD die.val = true ∧
      (∀ l, l ≠ cluster.val → physCluster t die.val l = if (getMap s die.val).failedCl.contains l && !onlyFenced s die.val l then 0xF else physCluster s die.val l) ∧ (∀ d, d ≠ die.val → getMap t d = getMap s d) ∧
      (∀ k, InCluster die.val cluster.val k → memByte t.mem.bytes k = 0) ∧ (∀ k, ¬InCluster die.val cluster.val k → memByte t.mem.bytes k = memByte s.mem.bytes k) ∧
      (∀ p, p.die = die → p.cluster = cluster → getStrand t p = {}) ∧ (∀ p, ¬(p.die = die ∧ p.cluster = cluster) → getStrand t p = getStrand s p) ∧
      ((∀ l ∈ (getMap s die.val).failedCl, l = cluster.val) → t.mem.repairQueue = s.mem.repairQueue ++ [clusterEntry die.val (physCluster s die.val cluster.val) (outSource s die.val cluster.val)] ∧
        Reported s t (srcKind 0x5 (13 * die.val + physCluster s die.val cluster.val)) 0x06) ∧
      t = { s with compute := t.compute, mem := { s.mem with bytes := t.mem.bytes, sramPoison := t.mem.sramPoison, repairQueue := t.mem.repairQueue }, rst := { s.rst with spareUsed := t.rst.spareUsed }, fleet := t.fleet, freeCtr := t.freeCtr }) ∧
  (∀ (s : State) (die : Fin 4) (h v : Fin 12),
    physCluster s die.val h.val ≠ 0xF → (∀ k, h.val < k → k < 12 → physCluster s die.val k = 0xF) →
    v < h → physCluster s die.val v.val = 0xF → (∀ k < v.val, physCluster s die.val k ≠ 0xF) →
    clusterNamed s die.val h.val = false → clusterNamed s die.val v.val = false → Memory.wf s.mem.bytes →
    ∃ t, exec (.clusterRenumber die) s = .next t ∧
      physCluster t die.val v.val = physCluster s die.val h.val ∧ physCluster t die.val h.val = 0xF ∧
      (∀ k, k ≠ h.val → k ≠ v.val → physCluster t die.val k = physCluster s die.val k) ∧ (∀ d, d ≠ die.val → getMap t d = getMap s d) ∧
      (∀ c : Fin 16, (getCore t ⟨die, v, c⟩).failed = (getCore s ⟨die, h, c⟩).failed ∧ (getCore t ⟨die, v, c⟩).fenced = (getCore s ⟨die, h, c⟩).fenced) ∧
      (∀ k, InCluster die.val h.val k ∨ InCluster die.val v.val k → memByte t.mem.bytes k = 0) ∧
      (∀ k, ¬(InCluster die.val h.val k ∨ InCluster die.val v.val k) → memByte t.mem.bytes k = memByte s.mem.bytes k) ∧
      t = { s with compute := t.compute, mem := { s.mem with bytes := t.mem.bytes, sramPoison := t.mem.sramPoison } }) ∧
  (∀ (s : State) (link : Fin 4),
    (s.compute.d2dFailed.getLsbD link.val = false → ∃ t, exec (.d2dFailover link) s = .next t ∧
      (∀ k < 4, t.compute.d2dFailed.getLsbD k = (s.compute.d2dFailed.getLsbD k || decide (k = link.val))) ∧ Reported s t (srcKind 0x3 link.val) 0x08 ∧
      t = { s with compute := { s.compute with d2dFailed := t.compute.d2dFailed }, fleet := t.fleet, freeCtr := t.freeCtr }) ∧
    (s.compute.d2dFailed.getLsbD link.val = true → ∃ t, exec (.d2dReturn link) s = .next t ∧
      (∀ k < 4, t.compute.d2dFailed.getLsbD k = (s.compute.d2dFailed.getLsbD k && decide (k ≠ link.val))) ∧ Reported s t (srcKind 0x3 link.val) 0x08 ∧
      t = { s with compute := { s.compute with d2dFailed := t.compute.d2dFailed }, fleet := t.fleet, freeCtr := t.freeCtr }))

/-- R135, R137, R138, R147 to R149, R151, R155 to R158, R472: what a patrol read finds by the symbols in error, the sixteenth uncorrectable read in a row of its pseudo-channel failing the stack; the patrol's passes, at which the stacks' own counts are read, and its period; refresh; the thermal states with their hysteresis of 3 degrees, what a stack held in HOLD going on once it leaves; row repair from the resources of the row's bank; and the repair record. -/
def Obligations.HbmUpkeep : Prop :=
  (∀ (s : State) (die : Fin 4) (sector symbols : Nat) (row : RowId),
      let k := stackOf s die.val (32 * sector)
      let c := memKey die.val (32 * sector) / 32
      let e := MemErrSel.hbm (stackFin k)
      (getHbm s die.val).patrolOn = true → sector < 2 ^ 33 → (getGran s die.val (granOf (32 * sector))).st ≠ .absent → (getStack s k).link ≠ 2 →
      (symbols = 0 ∨ symbols ≤ 1 ∧ s.mem.poison.contains c = true → ∃ t, exec (.patrolRead die sector symbols row) s = .next t ∧
        stackCtr t k 7 = stackCtr s k 7 + 1 ∧ (s.mem.poison.contains c = false → pchRun t row = 0) ∧ t = { s with mem := { s.mem with pchUe := t.mem.pchUe }, net := { s.net with stackCtrs := t.net.stackCtrs } }) ∧
      (s.mem.poison.contains c = false → symbols = 1 → ∃ t, exec (.patrolRead die sector symbols row) s = .next t ∧
        stackCtr t k 7 = stackCtr s k 7 + 1 ∧ stackCtr t k 2 = stackCtr s k 2 + 1 ∧
        (getErr t e).ce = min ((getErr s e).ce + 1) 0xFFFF ∧ (getErr t e).ue = (getErr s e).ue ∧
        ((getErr s e).firstValid = false → (getErr t e).firstValid = true ∧ (getErr t e).firstUe = false ∧ (getErr t e).firstLoc = sector) ∧
        ((getErr s e).firstValid = true → getErr t e = { getErr s e with ce := (getErr t e).ce }) ∧
        (sourceOf t (errSource e)).count = min ((sourceOf s (errSource e)).count + 1) (2 ^ 32 - 1) ∧ (getRow t row).occasions = (getRow s row).occasions ∧
        pchRun t row = 0 ∧
        t = { s with mem := { s.mem with errs := t.mem.errs, rows := t.mem.rows, pchUe := t.mem.pchUe }, net := { s.net with stackCtrs := t.net.stackCtrs }, fleet := t.fleet, freeCtr := t.freeCtr }) ∧
      (s.mem.poison.contains c = false → symbols = 2 ∨ symbols = 3 → pchRun s row < 15 ∨ (getStack s row.stack.val).link ≠ 1 → ∃ t, exec (.patrolRead die sector symbols row) s = .next t ∧
        stackCtr t k 7 = stackCtr s k 7 + 1 ∧ (∀ x, t.mem.poison.contains x = (s.mem.poison.contains x || decide (x = c))) ∧
        (getErr t e).ue = min ((getErr s e).ue + 1) 0xFF ∧ (getErr t e).ce = (getErr s e).ce ∧
        ((getErr s e).firstValid = false ∨ (getErr s e).firstUe = false → (getErr t e).firstValid = true ∧ (getErr t e).firstUe = true ∧ (getErr t e).firstLoc = sector) ∧
        (getRow t row).repairDue = true ∧ (getRow t row).occasions = (getRow s row).occasions + 1 ∧
        (sourceOf t (errSource e)).count = min ((sourceOf s (errSource e)).count + 1) (2 ^ 32 - 1) ∧
        pchRun t row = pchRun s row + 1 ∧
        t = { s with mem := { s.mem with poison := t.mem.poison, errs := t.mem.errs, rows := t.mem.rows, pchUe := t.mem.pchUe }, net := { s.net with stackCtrs := t.net.stackCtrs }, fleet := t.fleet, freeCtr := t.freeCtr }) ∧
      (s.mem.poison.contains c = false → symbols = 2 ∨ symbols = 3 → 15 ≤ pchRun s row → (getStack s row.stack.val).link = 1 → ∃ t, exec (.patrolRead die sector symbols row) s = .next t ∧ (getStack t row.stack.val).link = 2)) ∧
  ((∀ (s : State) (die : Fin 4) (value : Word),
      ((getHbm s die.val).patrolOn = true → ∃ t, exec (.patrolPassComplete die) s = .next t ∧
        getHbm t die.val = { getHbm s die.val with passes := min ((getHbm s die.val).passes + 1) 0xFFFF, periodInForce := (getHbm s die.val).periodH } ∧
        (∀ d, d ≠ die.val → getHbm t d = getHbm s d) ∧
        (∀ x, getErr t x = { getErr s x with ce := (getErr t x).ce } ∧ Min.min (getErr s x).ce 0xFFFF ≤ (getErr t x).ce) ∧
        (∀ x, (∀ k : Fin 16, k.val / 4 = die.val → x ≠ .hbm k) → getErr t x = getErr s x) ∧
        t = { s with mem := { s.mem with dies := t.mem.dies, errs := t.mem.errs }, freeCtr := t.freeCtr }) ∧
      (value.extractLsb' 24 8 ≠ 0 → ∃ t, exec (.periodHWrite die value) s = .next t ∧
        getHbm t die.val = { getHbm s die.val with periodH := (value.extractLsb' 24 8).toNat } ∧
        (∀ d, d ≠ die.val → getHbm t d = getHbm s d) ∧ t = { s with mem := { s.mem with dies := t.mem.dies } }) ∧
      (value.extractLsb' 24 8 = 0 → exec (.periodHWrite die value) s = .next s)) ∧
    (∀ (s : State) (stack : Fin 16) (temp : BitVec 8),
      (∃ t, exec (.hbmRefresh stack) s = .next t ∧ stackCtr t stack.val 4 = stackCtr s stack.val 4 + 1 ∧ t = { s with net := { s.net with stackCtrs := t.net.stackCtrs } }) ∧
      ((getStack s stack.val).therm ≤ 3 → ∃ t n up : Nat, ∃ t' : State, t = (getStack s stack.val).therm ∧ exec (.hbmTempSample stack temp) s = .next (if t = 3 ∧ n ≠ 3 then resumeColl (pumpCopies (pumpMem t')) else t') ∧
        up = (if 105 ≤ temp.toNat then 3 else if 95 ≤ temp.toNat then 2 else if 85 ≤ temp.toNat then 1 else 0) ∧
        getStack t' stack.val = { getStack s stack.val with temp := temp, therm := n } ∧
        (t ≤ up → n = up) ∧
        (up < t → up ≤ n ∧ n ≤ t ∧ (∀ m, n < m → m ≤ t → temp.toNat + 3 ≤ 75 + 10 * m) ∧ (up < n → 75 + 10 * n < temp.toNat + 3)) ∧
        (2 ≤ n → t'.pins.alertN = false) ∧ (∀ k, k ≠ stack.val → getStack t' k = getStack s k) ∧
        t' = { s with mem := { s.mem with stks := t'.mem.stks }, pins := { s.pins with alertN := t'.pins.alertN } })) ∧
    (∀ (s : State) (row : RowId), (getRow s row).repairDue = true → ∃ t, exec (.rowRepair row) s = .next t ∧
      (getRow t row).repairDue = false ∧ (∀ r, r ≠ row → getRow t r = getRow s r) ∧
      (bankLeft (getStack s row.stack.val) (bankIx row) = 0 → t.mem.repairQueue = s.mem.repairQueue ++ [rowEntry row 0x04] ∧ t.mem.stks = s.mem.stks) ∧
      (bankLeft (getStack s row.stack.val) (bankIx row) ≠ 0 →
        t.mem.repairQueue = s.mem.repairQueue ++ [rowEntry row (if (getRow s row).dueUe then 0x03 else 0x02)] ∧
        bankLeft (getStack t row.stack.val) (bankIx row) = bankLeft (getStack s row.stack.val) (bankIx row) - 1 ∧ (∀ b, b ≠ bankIx row → bankLeft (getStack t row.stack.val) b = bankLeft (getStack s row.stack.val) b) ∧
        getStack t row.stack.val = { getStack s row.stack.val with softUsed := (getStack t row.stack.val).softUsed, repairs := min ((getStack s row.stack.val).repairs + 1) 0xFF } ∧
        (∀ k, k ≠ row.stack.val → getStack t k = getStack s k)) ∧
      t = { s with mem := { s.mem with stks := t.mem.stks, rows := t.mem.rows, repairQueue := t.mem.repairQueue } }) ∧
    (∀ (s : State) (e : Word) (rest : List Word), trustDown s = false → s.mem.repairQueue = e :: rest → ∃ t, exec .repairRecordAppend s = .next t ∧
      t.mem = { s.mem with repairQueue := rest } ∧
      (s.ctl.records.repair.length < 65536 → t.ctl.records = { s.ctl.records with repair := s.ctl.records.repair ++ [e] } ∧ t.fleet = s.fleet) ∧
      (65536 ≤ s.ctl.records.repair.length → t.ctl.records = { s.ctl.records with repairDropped := s.ctl.records.repairDropped + 1 } ∧
        (sourceOf t (srcKind 0xC 2)).count = min ((sourceOf s (srcKind 0xC 2)).count + 1) (2 ^ 32 - 1)) ∧
      t = { s with mem := t.mem, ctl := { s.ctl with records := t.ctl.records }, fleet := t.fleet }))

/-- R10, R152 to R156: the scrubber corrects one wrong bit and poisons more, both counted in the record of the array's instance; writing 1 to FIRST_VALID arms the record again, but where an error was captured in the same cycle, which within the present 32 ns is left open (log entry 93). -/
def Obligations.ErrorRecords : Prop :=
  (∀ (s : State) (a : SramArray) (word bitsWrong : Nat) (e : MemErrSel), scrubRecord s a = some e → scrubWordOk a word = true →
    (bitsWrong = 1 → ∃ t, exec (.sramScrub a word bitsWrong) s = .next t ∧
      (getErr t e).ce = min ((getErr s e).ce + 1) 0xFFFF ∧ (getErr t e).ue = (getErr s e).ue ∧
      ((getErr s e).firstValid = false → (getErr t e).firstValid = true ∧ (getErr t e).firstUe = false ∧ (getErr t e).firstLoc = word % 2 ^ 36) ∧
      ((getErr s e).firstValid = true → getErr t e = { getErr s e with ce := (getErr t e).ce }) ∧
      (∀ x, x ≠ e → getErr t x = getErr s x) ∧
      (sourceOf t (errSource e)).count = min ((sourceOf s (errSource e)).count + 1) (2 ^ 32 - 1) ∧
      t = { s with mem := { s.mem with errs := t.mem.errs }, fleet := t.fleet, freeCtr := t.freeCtr }) ∧
    (2 ≤ bitsWrong → ∀ c : CorePos, a = .tileStore c → ∃ t, exec (.sramScrub a word bitsWrong) s = .next t ∧
      t.mem.sramPoison.contains (tileKey c.die c.cluster c.core (8 * word) / 8) = true ∧ (getErr t e).ue = min ((getErr s e).ue + 1) 0xFF ∧ (getErr t e).ce = (getErr s e).ce ∧
      t = { s with compute := { s.compute with maps := t.compute.maps }, mem := { s.mem with errs := t.mem.errs, sramPoison := t.mem.sramPoison, repairQueue := t.mem.repairQueue }, fleet := t.fleet, freeCtr := t.freeCtr }) ∧
    (2 ≤ bitsWrong → ∀ p : Pos, a = .regFile p → ∃ t, exec (.sramScrub a word bitsWrong) s = .next t ∧
      (getStrand t p).badRegs.contains word = true ∧ (getErr t e).ue = min ((getErr s e).ue + 1) 0xFF ∧ (∀ q, q ≠ p → getStrand t q = getStrand s q) ∧
      t = { s with compute := { s.compute with strands := t.compute.strands, maps := t.compute.maps }, mem := { s.mem with errs := t.mem.errs, repairQueue := t.mem.repairQueue }, fleet := t.fleet, freeCtr := t.freeCtr })) ∧
  (∀ (s : State) (sel : MemErrSel) (value : Word),
    (value.getLsbD 39 = true → ∃ t, exec (.firstValidRearm sel value) s = .next t ∧
      ((getErr s sel).firstValid = false ∨ (getErr s sel).firstAt < s.tb.base → getErr t sel = { getErr s sel with firstValid := false }) ∧
      ((getErr s sel).firstValid = true → s.tb.base ≤ (getErr s sel).firstAt → getErr t sel = getErr s sel ∨ getErr t sel = { getErr s sel with firstValid := false }) ∧
      (∀ x, x ≠ sel → getErr t x = getErr s x) ∧ t = { s with mem := { s.mem with errs := t.mem.errs }, freeCtr := t.freeCtr }) ∧
    (value.getLsbD 39 = false → exec (.firstValidRearm sel value) s = .next s))

/-- R144, R146, R150, R151, R158, R392, R410: a granule's zeroing begins once its die's HBM is trained, and ends, and a failed stack retires the granules of its die and stops their owners' jobs. -/
def Obligations.GranuleLife : Prop :=
  (∀ (s : State) (die : Fin 4) (g : Fin 16), (getGran s die.val g.val).st = .scrubbing →
    ((getHbm s die.val).patrolOn = true → ∃ t, exec (.granuleScrubStart die g) s = .next t ∧ getGran t die.val g.val = { getGran s die.val g.val with zeroing := true } ∧
      (∀ d j, 16 * d + j ≠ 16 * die.val + g.val → getGran t d j = getGran s d j) ∧
      t = { s with mem := { s.mem with granules := t.mem.granules } }) ∧
    ((getHbm s die.val).patrolOn = false → s.rst.busy.any (fun b => b.1 = die.val + 1) = true → ∃ t, exec (.granuleScrubStart die g) s = .next t ∧ getGran t die.val g.val = { getGran s die.val g.val with zeroing := true } ∧
      (getHbm t die.val).patrolOn = true ∧ t.rst.dieOut.getLsbD die.val = true) ∧
    ((getHbm s die.val).patrolOn = false → s.rst.busy.any (fun b => b.1 = die.val + 1) = false → exec (.granuleScrubStart die g) s = .next s) ∧
    ((getGran s die.val g.val).zeroing = true → Memory.wf s.mem.bytes → ∃ t, exec (.granuleZeroed die g) s = .next t ∧
      getGran t die.val g.val = { st := if s.mem.rows.any (fun r => r.granule = 16 * die.val + g.val && decide (2 ≤ r.occasions)) then .retired else .free, owner := 0, zeroing := false } ∧
      (∀ d j, 16 * d + j ≠ 16 * die.val + g.val → getGran t d j = getGran s d j) ∧
      (∀ k, memKey die.val (g.val * 2 ^ 34) ≤ k → k < memKey die.val (g.val * 2 ^ 34) + 2 ^ 34 → memByte t.mem.bytes k = 0 ∧ t.mem.poison.contains (k / 32) = false) ∧
      (∀ k, k < memKey die.val (g.val * 2 ^ 34) ∨ memKey die.val (g.val * 2 ^ 34) + 2 ^ 34 ≤ k → memByte t.mem.bytes k = memByte s.mem.bytes k ∧ t.mem.poison.contains (k / 32) = s.mem.poison.contains (k / 32)) ∧
      (∀ e ∈ s.ctl.slices, e.2.st = .scrubbing → (∀ x ∈ t.mem.granules, x.2.st = .scrubbing → x.2.owner ≠ e.2.id ∧ (x.2.owner = 0 → descNames e.2.desc x.1 = false)) → e ∉ t.ctl.slices) ∧
      t = { s with mem := { s.mem with bytes := t.mem.bytes, poison := t.mem.poison, granules := t.mem.granules }, pwDies := t.pwDies, ctl := { s.ctl with slices := t.ctl.slices } })) ∧
  (∀ (s : State) (stack : Fin 16), (getStack s stack.val).link = 1 → (∀ e ∈ s.ctl.slices, e.2.st ≠ .scrubbing) →
    ∃ t, exec (.stackFail stack) s = .next t ∧
      getStack t stack.val = { getStack s stack.val with link := 2 } ∧ (∀ k, k ≠ stack.val → getStack t k = getStack s k) ∧
      (∀ k < 16, t.rst.hbmOk.getLsbD k = (s.rst.hbmOk.getLsbD k && decide (k ≠ stack.val))) ∧
      (∀ g < 16, (getGran s (stack.val / 4) g).st ≠ .absent → (getGran t (stack.val / 4) g).st = .retired) ∧
      (∀ g < 16, (getGran s (stack.val / 4) g).st = .absent → (getGran t (stack.val / 4) g).st = .absent) ∧
      (∀ d, d ≠ stack.val / 4 → ∀ g < 16, getGran t d g = getGran s d g) ∧
      (∀ g < 16, (getGran s (stack.val / 4) g).st = .owned → (findSlice s (getGran s (stack.val / 4) g).owner).isSome = true →
        ∃ n, (fdNode s, n, s.tb.time) ∈ t.fleet.stops))

/-- R172, R179, R181: a request that arrives at its home is admitted in sequence, waits within the window of 1,024, or is answered again when it is behind; a replay entry is kept for its period, at the die's endpoint or the fabric die's. A packet that carries several constituents (R324) is taken as one where a constituent is fresh and none is held or performed already, and dropped otherwise (log entry 92). -/
def Obligations.HomeAdmission : Prop :=
  (∀ (s : State) (die : Fin 4) (r : Req) (h : HomeFlow),
    let ep := homeEp die.val r.addr
    let ahead := (r.seq - h.n).toNat
    findHome s ep r.src r.flow = some h → h.closed = false → r.comb = false ∨ r.parts.length ≤ 1 →
    (isPending s ep h r.seq = true → exec (.homeRequest die r) s = .next s) ∧
    (isPending s ep h r.seq = false →
      (1024 ≤ ahead → ahead < 2 ^ 23 → exec (.homeRequest die r) s = .next s) ∧
      (2 ^ 23 ≤ ahead →
        (∀ x, findReplay s ep r.src r.flow r.seq = some x → exec (.homeRequest die r) s = .next { s with out := s.out ++ answerOut s r x.status x.flags true (if x.status = 0 then x.data else []) r.crowd }) ∧
        (findReplay s ep r.src r.flow r.seq = none →
          (opKind r.opcode = some .store ∨ opKind r.opcode = some .reds → exec (.homeRequest die r) s = .next { s with out := s.out ++ answerOut s r 2 0 true [] r.crowd }) ∧
          (opKind r.opcode ≠ some .store → opKind r.opcode ≠ some .reds → exec (.homeRequest die r) s = .next { s with out := s.out ++ answerOut s r 6 0 true [] r.crowd }))) ∧
      (ahead < 1024 → h.doneAhead.contains r.seq = true → exec (.homeRequest die r) s = .next { s with out := s.out ++ answerOut s r 2 0 true [] r.crowd }) ∧
      (ahead = 0 → r.comb = false → h.window = [] → h.doneAhead = [] → replayFull s ep = false → ∃ t, exec (.homeRequest die r) s = .next t ∧
        findHome t ep r.src r.flow = some { h with n := h.n + 1, admitted := h.admitted ++ [{ r with crowd := r.crowd || lineBusy s ep r.addr }] } ∧
        (getEp t ep).order = (getEp s ep).order ++ [(lineOf r.addr, r.src, r.flow, r.seq)] ∧
        (∀ e, e ≠ ep → getEp t e = getEp s e) ∧ t = { s with fab := { s.fab with eps := t.fab.eps } }) ∧
      (0 < ahead → ahead < 1024 → r.comb = false → h.doneAhead = [] → (∀ q ∈ h.window, q.seq ≠ h.n) → ∃ t, exec (.homeRequest die r) s = .next t ∧
        findHome t ep r.src r.flow = some { h with window := h.window ++ [r] } ∧
        (∀ e, e ≠ ep → getEp t e = getEp s e) ∧ t = { s with fab := { s.fab with eps := t.fab.eps } }) ∧
      (ahead < 1024 → h.doneAhead.contains r.seq = false → r.comb = true → ∃ t, exec (.homeRequest die r) s = .next t ∧
        getEp t ep = { getEp s ep with combined := (getEp s ep).combined ++ [{ r with crowd := r.crowd || lineBusy s ep r.addr }], order := (getEp s ep).order ++ [(lineOf r.addr, r.src, r.flow, r.seq)] } ∧
        (∀ e, e ≠ ep → getEp t e = getEp s e) ∧ t = { s with fab := { s.fab with eps := t.fab.eps } }))) ∧
  (∀ (s : State) (die : Fin 4) (r : Req),
    let ep := homeEp die.val r.addr
    let fresh := ∃ c ∈ constituents r, partSt s ep c = .fresh
    let stale := ∃ c ∈ constituents r, partSt s ep c = .stale
    r.comb = true → 1 < r.parts.length →
    (fresh → ¬stale → ∃ t, exec (.homeRequest die r) s = .next t ∧
      getEp t ep = { getEp s ep with combined := (getEp s ep).combined ++ [{ r with crowd := r.crowd || lineBusy s ep r.addr }], order := (getEp s ep).order ++ [(lineOf r.addr, r.src, r.flow, r.seq)] } ∧
      (∀ e, e ≠ ep → getEp t e = getEp s e) ∧ t = { s with fab := { s.fab with eps := t.fab.eps } }) ∧
    (¬fresh ∨ stale → exec (.homeRequest die r) s = .next s)) ∧
  (∀ (s : State) (die : Fin 4) (src flow : BitVec 20) (seq : BitVec 24), ∃ t ep, exec (.replayEntryExpire die src flow seq) s = .next t ∧
    let due := fun x : Replay => decide (x.src = src ∧ x.flow = flow ∧ x.seq = seq ∧ x.made + (if x.status = 0 then 400000 else 800000) ≤ s.tb.time)
    ep = (if (getEp s die.val).replay.any due then die.val else 4) ∧
    (getEp t ep).replay = (getEp s ep).replay.filter (fun x => !due x) ∧
    (∀ e, e ≠ ep → getEp t e = getEp s e) ∧ t = { s with fab := { s.fab with eps := t.fab.eps } })

/-- R136, R170, R176, R177, R179: the home performs an admitted request to HBM as one update and answers it; one that fails a check of R176 changes no memory, is answered with VIOLATION and counted. -/
def Obligations.HomeUpdates : Prop :=
  ∀ (s : State) (die : Fin 4) (src flow : BitVec 20) (seq : BitVec 24) (symbols : Nat) (row : RowId) (h : HomeFlow) (r : Req),
    let off := addrOff r.addr
    let k := memKey die.val off
    let n := accessBytes r
    let u := newBytes r n (memRead s.mem.bytes k n)
    AtHome s die src flow seq h r → Memory.wf s.mem.bytes →
    (reqTarget die.val r = .hbm → homeCheck s die.val .hbm r = .pass → poisonedAt s k n = false → symbols = 0 →
      ∃ t c, exec (.homeUpdate die src flow seq symbols row) s = .next t ∧
        (opKind r.opcode ≠ some .reds → t.out = s.out ++ answerOut s r 0 0 false u.2.1 c) ∧
        (opKind r.opcode = some .reds → t.out = s.out ++ answerOut s r 0 (u.2.2 ||| r.flags) false [] c ∧
          (getDeckle t (keyIndex r.key)).flags = (getDeckle s (keyIndex r.key)).flags ||| (u.2.2 ||| r.flags)) ∧
        (opKind r.opcode = some .load → t.mem = { s.mem with pchUe := t.mem.pchUe }) ∧
        (opKind r.opcode ≠ some .load → memRead t.mem.bytes k u.1.length = u.1 ∧ ∀ x, x < k ∨ k + u.1.length ≤ x → memByte t.mem.bytes x = memByte s.mem.bytes x) ∧
        (∀ e, e ≠ die.val → getEp t e = getEp s e) ∧
        t = { s with mem := { s.mem with bytes := t.mem.bytes, poison := t.mem.poison, sramPoison := t.mem.sramPoison, pchUe := t.mem.pchUe }, fab := t.fab, out := t.out }) ∧
    (homeCheck s die.val (reqTarget die.val r) r = .early → ∃ t c, exec (.homeUpdate die src flow seq symbols row) s = .next t ∧
        t.out = s.out ++ answerOut s r 4 0 false [] c ∧ (getEp t die.val).violHome = min ((getEp s die.val).violHome + 1) 0xFF ∧
        (∀ j, getDeckle t j = getDeckle s j) ∧ t = { s with fab := { s.fab with eps := t.fab.eps }, out := t.out }) ∧
    (homeCheck s die.val (reqTarget die.val r) r = .late → ∃ t c, exec (.homeUpdate die src flow seq symbols row) s = .next t ∧
        t.out = s.out ++ answerOut s r 4 0 false [] c ∧ (getEp t die.val).violHome = min ((getEp s die.val).violHome + 1) 0xFF ∧
        (getDeckle t (keyIndex r.key)).vcount = min ((getDeckle s (keyIndex r.key)).vcount + 1) (2 ^ 28 - 1) ∧
        ((getDeckle s (keyIndex r.key)).vcount = 0 → (getDeckle t (keyIndex r.key)).vfirst = r.src) ∧
        (∀ j, j ≠ keyIndex r.key → getDeckle t j = getDeckle s j) ∧ t = { s with fab := { s.fab with eps := t.fab.eps, deckles := t.fab.deckles }, out := t.out })

/-- R104, R129, R131, R166, R167, R168, R180: a request completes at its source with its first response (a packet of another opcode is discarded), or after three resends with TIMEOUT; the completion then reaches its strand or its gather. -/
def Obligations.SourceResponses : Prop :=
  (∀ (s : State) (die : Fin 4) (r : Resp) (o : Outst),
    let status : BitVec 4 := r.word.extractLsb' 0 4
    ((getEp s die.val).outst.find? (fun x => x.req.flow = r.flow && x.req.seq = r.seq) = none → exec (.responseArrive die r) s = .next s) ∧
    (r.opcode ≠ 0x80 → r.opcode ≠ 0x81 → r.opcode ≠ 0x82 → exec (.responseArrive die r) s = .next s) ∧
    ((getEp s die.val).outst.find? (fun x => x.req.flow = r.flow && x.req.seq = r.seq) = some o → isEnded o.master = false → r.opcode = 0x80 ∨ r.opcode = 0x81 ∨ r.opcode = 0x82 →
      ∃ t, exec (.responseArrive die r) s = .next t ∧
        (getEp t die.val).outst = (getEp s die.val).outst.filter (fun x => x.id ≠ o.id) ∧
        (getEp t die.val).completed = (getEp s die.val).completed ++ [{ id := o.id, master := o.master, dest := o.dest, isLoad := o.isLoad, addr := o.req.addr, status := status, data := r.data }] ∧
        (status = 4 → (getEp t die.val).violSrc = min ((getEp s die.val).violSrc + 1) 0xFF) ∧
        (status = 6 → (getEp t die.val).indeterminate = min ((getEp s die.val).indeterminate + 1) 0xFF) ∧
        (∀ e, e ≠ die.val → getEp t e = getEp s e) ∧
        t = { s with fab := { s.fab with eps := t.fab.eps, flows := t.fab.flows }, ctl := { s.ctl with slices := t.ctl.slices }, fleet := t.fleet, freeCtr := t.freeCtr })) ∧
  (∀ (s : State) (die : Fin 4) (flow : BitVec 20) (seq : BitVec 24) (o : Outst),
    (getEp s die.val).outst.find? (fun x => x.req.flow = flow && x.req.seq = seq) = some o →
    (s.tb.time < o.sent + 200000 → exec (.responseTimeout die flow seq) s = .next s) ∧
    (o.sent + 200000 ≤ s.tb.time → o.resends < 3 → ∃ t, exec (.responseTimeout die flow seq) s = .next t ∧
      t.out = s.out ++ sends s [requestOut s o.dst { o.req with comb := false }] ∧
      (getEp t die.val).outst = (getEp s die.val).outst.map (fun x => if x.id = o.id then { x with resends := x.resends + 1, sent := s.tb.time, req := { o.req with comb := false } } else x) ∧
      (getEp t die.val).resends = min ((getEp s die.val).resends + 1) 0xFFFF ∧
      t = { s with fab := { s.fab with eps := t.fab.eps }, ctl := { s.ctl with slices := t.ctl.slices }, out := t.out }) ∧
    (o.sent + 200000 ≤ s.tb.time → 3 ≤ o.resends → isEnded o.master = false → ∃ t, exec (.responseTimeout die flow seq) s = .next t ∧
      (getEp t die.val).outst = (getEp s die.val).outst.filter (fun x => x.id ≠ o.id) ∧
      (getEp t die.val).completed = (getEp s die.val).completed ++ [{ id := o.id, master := o.master, dest := o.dest, isLoad := o.isLoad, addr := o.req.addr, status := 7, data := [] }] ∧
      (getEp t die.val).timeouts = min ((getEp s die.val).timeouts + 1) 0xFF ∧ t = { s with fab := { s.fab with eps := t.fab.eps } })) ∧
  (∀ (s : State) (die : Fin 4) (id : Nat) (c : Completion) (p : Pos) (gen : Nat) (pc : Word),
    let st := getStrand s p
    (getEp s die.val).completed.find? (fun x => x.id = id) = some c → c.master = .strand p gen pc → st.gen = gen → st.st ≠ .free → st.st ≠ .stopped → st.st ≠ .frozen →
    (c.status = 0 ∨ c.status = 2 →
      (∀ sd n, c.dest = .reg sd n → ∃ t, exec (.globalResponse die id) s = .next t ∧
        getStrand t p = wr (countDone c.isLoad st) sd (BitVec.ofNat 64 (leNat (c.data.take n))) ∧ (∀ q, q ≠ p → getStrand t q = getStrand s q) ∧
        (getEp t die.val).completed = (getEp s die.val).completed.filter (fun x => x.id ≠ c.id) ∧
        t = { s with compute := { s.compute with strands := t.compute.strands }, fab := { s.fab with eps := t.fab.eps } }) ∧
      (∀ a, c.dest = .line a → Memory.wf s.mem.bytes → ∃ t, exec (.globalResponse die id) s = .next t ∧
        Stored s { t with fab := s.fab } p (localKey (coreOf p) a) (padTo 64 c.data) (countDone c.isLoad st)) ∧
      (c.dest = .posted → ∃ t, exec (.globalResponse die id) s = .next t ∧
        getStrand t p = countDone c.isLoad st ∧ (∀ q, q ≠ p → getStrand t q = getStrand s q) ∧
        t = { s with compute := { s.compute with strands := t.compute.strands }, fab := { s.fab with eps := t.fab.eps } })) ∧
    (c.status = 4 → ∃ t, exec (.globalResponse die id) s = .next t ∧
      (getStrand t p).st = .frozen ∧ (getStrand t p).code = 0x20 ∧ (getStrand t p).async = true ∧ (getStrand t p).tval = c.addr ∧ (getStrand t p).epc = pc &&& ~~~ 3#64 ∧
      (∀ q, q ≠ p → getStrand t q = getStrand s q)) ∧
    (c.status = 5 ∨ c.status = 6 ∨ c.status = 7 → ∃ t, exec (.globalResponse die id) s = .next t ∧
      (getStrand t p).st = .stopped ∧ (getStrand t p).async = true ∧ (getStrand t p).tval = c.addr ∧ (getStrand t p).epc = pc &&& ~~~ 3#64 ∧
      (getStrand t p).code = (if c.status = 5 then 0x21 else if c.status = 6 then 0x22 else 0x23))) ∧
  (∀ (s : State) (die : Fin 4) (cluster : Fin 12) (slot : Fin 32) (i n : Nat) (c : Completion) (g : GatherSlot),
    let a := gaDest g.desc + i * gaDstride g.desc + 64 * n
    (getEp s die.val).completed.find? (fun x => x.master = .gather die.val cluster.val slot.val (.line i n)) = some c → getGather s die.val cluster.val slot.val = some g →
    c.status = 0 → 0x1000000 ≤ a → a + 64 ≤ 0x1800000 → Memory.wf s.mem.bytes →
    ∃ t, exec (.gatherLineResponse die cluster slot (.line i n)) s = .next t ∧
      memRead t.mem.bytes (localKey (coreOf g.p) a) 64 = padTo 64 c.data ∧
      (∀ x, isHbmKey x = false → x < localKey (coreOf g.p) a ∨ localKey (coreOf g.p) a + 64 ≤ x → memByte t.mem.bytes x = memByte s.mem.bytes x))

/-- R147, R189 to R193, R197, R198, R210: an ACTIVE ring reads PI, starts its next descriptor in its turn, and retires the earliest one that has ended, all as far as no stack in HOLD keeps its lines; an update of a monitored line, the engine's own writes among them, makes a wake due. -/
def Obligations.CouchRings : Prop :=
  ∀ (s : State) (ring : Fin 4096),
    let x := getRing s ring.val
    let pi := leNat (memRead s.mem.bytes (memKey x.die x.piLine) 8)
    let d := BitVec.ofNat 512 (leNat (memRead s.mem.bytes (memKey x.die (slotOff x x.next)) 64))
    (hbmHeld s x.die x.piLine 8 = true → exec (.ringWake ring) s = .next s) ∧
    (x.pendingBit = true → x.st = .active → hbmHeld s x.die x.piLine 8 = false → ownsHbm s x.die x.piLine 8 x.owner = true → poisonedAt s (memKey x.die x.piLine) 8 = false →
      ∃ t, exec (.ringWake ring) s = .next t ∧ t = { s with fab := { s.fab with rings := t.fab.rings } } ∧ (∀ r, r ≠ ring.val → getRing t r = getRing s r) ∧
        ((pi + 2 ^ 64 - x.ci) % 2 ^ 64 ≤ 2 ^ x.log2n → x.lastPi ≤ pi → getRing t ring.val = { x with pendingBit := false, lastPi := pi }) ∧
        ((pi + 2 ^ 64 - x.ci) % 2 ^ 64 ≤ 2 ^ x.log2n → pi < x.lastPi → getRing t ring.val = { x with pendingBit := false }) ∧
        (2 ^ x.log2n < (pi + 2 ^ 64 - x.ci) % 2 ^ 64 → getRing t ring.val = { x with pendingBit := false, st := .error, cause := 0x0013 })) ∧
    (x.pendingBit = true → x.st = .active → hbmHeld s x.die x.piLine 8 = false → ownsHbm s x.die x.piLine 8 x.owner = false →
      ∃ t, exec (.ringWake ring) s = .next t ∧ (getRing t ring.val).st = .frozen ∧ (getRing t ring.val).cause = 0x0004) ∧
    (hbmHeld s x.die (slotOff x x.next) 64 = true → exec (.descriptorStart ring) s = .next s) ∧
    (ringReady x = true → descsInProgress s < 8192 → hbmHeld s x.die (slotOff x x.next) 64 = false → ownsHbm s x.die (slotOff x x.next) 64 x.owner = true → x.granted < x.weight →
      (poisonedAt s (memKey x.die (slotOff x x.next)) 64 = true → ∃ t, exec (.descriptorStart ring) s = .next t ∧
        getRing t ring.val = { x with granted := x.granted + 1, next := x.next + 1, prog := x.prog ++ [{ index := x.next, desc := 0, read := false, passed := false, code := some 0x0005 }] } ∧
        (∀ r, r ≠ ring.val → getRing t r = getRing s r) ∧ t = { s with fab := { s.fab with rings := t.fab.rings } }) ∧
      (poisonedAt s (memKey x.die (slotOff x x.next)) 64 = false →
        (∀ status, startCheck s x d = some status → ∃ t, exec (.descriptorStart ring) s = .next t ∧
          getRing t ring.val = { x with granted := x.granted + 1, next := x.next + 1, prog := x.prog ++ [{ index := x.next, desc := d, passed := false, code := some status }] } ∧
          (∀ r, r ≠ ring.val → getRing t r = getRing s r) ∧ t = { s with fab := { s.fab with rings := t.fab.rings } }) ∧
        (startCheck s x d = none → dOp d = 0 ∨ (dOp d = 4 ∧ x.prog = []) → (∀ p ∈ x.prog, p.index ≠ x.next) → ∃ t, exec (.descriptorStart ring) s = .next t ∧
          getRing t ring.val = { x with granted := x.granted + 1, next := x.next + 1, prog := x.prog ++ [{ index := x.next, desc := d, code := some 0 }] } ∧
          (∀ r, r ≠ ring.val → getRing t r = getRing s r) ∧ t = { s with fab := { s.fab with rings := t.fab.rings } }) ∧
        (startCheck s x d = none → dOp d = 4 → x.prog ≠ [] → exec (.descriptorStart ring) s = .next s) ∧
        (startCheck s x d = none → dOp d = 2 ∨ (dOp d = 1 ∧ isHere s (addrNode (dSrc d)) = true) → decodeReq s (dDst d) = .send → ∃ t data sent, exec (.descriptorStart ring) s = .next t ∧
          t.out = s.out ++ sends s [.c4 (fdOf (addrNode (dDst d))) 0xB6 x.owner (freshTag s).toNat data] ++ sent ∧ (getRing t ring.val).next = x.next + 1))) ∧
    (∀ p, x.prog.find? (fun p => p.index = x.ci) = some p → p.code = some 0 → p.read = true → (∀ q ∈ x.prog, dOp q.desc ≠ 5) → Memory.wf s.mem.bytes →
      let slot := memKey x.die (slotOff x p.index + 56)
      let line := memKey x.die x.ciLine
      let woken (m : MonTarget) : Bool := wokenBy s x.die (slotOff x p.index + 56) 8 m || wokenBy s x.die x.ciLine 64 m
      (hbmHeld s x.die (slotOff x p.index) 64 = true ∨ hbmHeld s x.die x.ciLine 64 = true → exec (.descriptorRetire ring) s = .next s) ∧
      (hbmHeld s x.die (slotOff x p.index) 64 = false → hbmHeld s x.die x.ciLine 64 = false →
      ownsHbm s x.die (slotOff x p.index + 56) 8 x.owner = true → ownsHbm s x.die x.ciLine 64 x.owner = true → partialPoison s slot 8 = false → partialPoison s line 64 = false → slot + 8 ≤ line ∨ line + 64 ≤ slot →
      ∃ t, exec (.descriptorRetire ring) s = .next t ∧
        memRead t.mem.bytes slot 8 = leBytes 8 (2 ^ 63 + p.counted % 2 ^ 40 * 2 ^ 16) ∧ memRead t.mem.bytes line 64 = ciBytes ((x.ci + 1) % 2 ^ 64) s.tb.time ∧
        (∀ k, k < slot ∨ slot + 8 ≤ k → k < line ∨ line + 64 ≤ k → memByte t.mem.bytes k = memByte s.mem.bytes k) ∧
        getRing t ring.val = { x with ci := (x.ci + 1) % 2 ^ 64, prog := x.prog.filter (fun q => q.index ≠ p.index), pendingBit := x.pendingBit || woken (.ring ring.val) } ∧
        (∀ r, r ≠ ring.val → getRing t r = { getRing s r with pendingBit := (getRing s r).pendingBit || woken (.ring r) }) ∧
        (∀ c, getGroup t c = { getGroup s c with pendingBit := (getGroup s c).pendingBit || woken (.quire c) }) ∧
        (p.passed = true → dCcen p.desc = true → (counterVal t x.die (dCctr p.desc).toNat).toNat = min ((counterVal s x.die (dCctr p.desc).toNat).toNat + 1) (2 ^ 64 - 1)) ∧
        t = { s with mem := { s.mem with bytes := t.mem.bytes, poison := t.mem.poison, sramPoison := t.mem.sramPoison }, fab := { s.fab with rings := t.fab.rings, groups := t.fab.groups, eps := t.fab.eps }, ctl := { s.ctl with watermarks := t.ctl.watermarks } }))

/-- R200, R205 to R207, R211: a copy starts at the module of its source and at that of its destination, its packets are written and acknowledged there, resent or given up here, and its end reaches its descriptor. -/
def Obligations.CouchCopies : Prop :=
  (∀ (s : State) (issuer : BitVec 20) (ring slot : Nat) (slice : BitVec 16) (desc : List Byte),
    let d := BitVec.ofNat 512 (leNat (desc.take 64))
    s.fab.copies = [] →
    ((findSlice s slice).isSome = true → isHere s (addrNode (dSrc d)) = true → decodeReq s (dDst d) = .send → ∃ t data sent, exec (.copyDelegate issuer ring slot slice desc) s = .next t ∧
      t.out = s.out ++ sends s [.c4 (fdOf (addrNode (dDst d))) 0xB6 slice (freshTag s).toNat data] ++ sent) ∧
    (findSlice s slice = none ∨ isHere s (addrNode (dSrc d)) = false → exec (.copyDelegate issuer ring slot slice desc) s =
      .next { s with out := s.out ++ sends s [.c4 issuer 0xB7 slice ring (copyEndBytes (descTag ring slot) 0x0010 0)] })) ∧
  (∀ (s : State) (src : BitVec 20) (slice tag : BitVec 16) (op : BitVec 4) (dst dkey : Word) (dctr : BitVec 14) (dcen : Bool) (cunit length mkh : Nat),
    let d := nodeEp (addrNode dst)
    let x := getDeckle s (keyIndex dkey)
    isHere s (addrNode dst) = true → s.fab.copies = [] →
    (op ≠ 5 → (dcen = true → x.valid = true ∧ ownsCounter s d dctr.toNat x.owner = true) → ∃ t c, exec (.copyStart src slice tag op dst dkey dctr dcen cunit length mkh) s = .next t ∧
      findDest t src tag = some c ∧ c.slice = slice ∧ c.op = op ∧ c.dst = dst ∧ c.dkey = dkey ∧ c.length = length ∧ c.ended = none ∧ c.units = 0 ∧ t = { s with fab := { s.fab with copies := [c] } }) ∧
    (op = 5 → x.spoiled = false → x.valid = true → x.endpoint = d → keySecret dkey = x.secret → ownsCounter s d dctr.toNat x.owner = true →
      ∃ t, exec (.copyStart src slice tag op dst dkey dctr dcen cunit length mkh) s = .next t ∧
        (counterVal t d dctr.toNat).toNat = min ((counterVal s d dctr.toNat).toNat + 1) (2 ^ 64 - 1) ∧
        t.out = s.out ++ sends s [.c4 (fdOf src) 0xB7 0xFFFF tag.toNat (copyEndBytes tag 0 0)] ∧
        t = { s with fab := { s.fab with copies := t.fab.copies, eps := t.fab.eps }, ctl := { s.ctl with watermarks := t.ctl.watermarks }, out := t.out })) ∧
  (∀ (s : State) (tag status : BitVec 16) (counted : Nat) (c : Copy) (p : DescProg), status ≠ 0x0004 → p.code = none →
    (findCopy s tag = some c → c.ended = none → c.issuer = fdNode s → p ∈ (getRing s c.ring).prog → p.index = c.slot →
      ∃ t, exec (.copyEnd false tag status counted) s = .next t ∧ ∃ q ∈ (getRing t c.ring).prog, q.index = c.slot ∧ q.code = some status) ∧
    (progOf s (tag.toNat / 16) (tag.toNat % 16) = some p → ∃ t n, exec (.copyEnd true tag status counted) s = .next t ∧
        (destOf s (getRing s (tag.toNat / 16)).owner (dOp p.desc) (dDst p.desc) (dDkey p.desc) (dLength p.desc) = none → n = counted) ∧
        (∀ c, destOf s (getRing s (tag.toNat / 16)).owner (dOp p.desc) (dDst p.desc) (dDkey p.desc) (dLength p.desc) = some c → n = destCounted c) ∧
        (getRing t (tag.toNat / 16)).prog = (getRing s (tag.toNat / 16)).prog.map (fun q => if q.index = p.index && q.code.isNone then { q with code := some status, counted := n } else q) ∧
        (∀ r, r ≠ tag.toNat / 16 → getRing t r = getRing s r) ∧ t = { s with fab := { s.fab with rings := t.fab.rings, c4 := t.fab.c4 } })) ∧
  (∀ (s : State) (src flow : BitVec 20) (seq : BitVec 24) (tag : BitVec 16) (offset : Nat) (data : List Byte) (crc : BitVec 32) (bad : List Nat) (f : RecvFlow) (c : Copy) (k : Nat),
    findRecv s src flow = some f → findDest s src tag = some c →
    (crc ≠ bulkCrc src flow seq tag offset data ∨ 256 ≤ (seq - f.cum).toNat ∨ f.arrived.contains seq = true ∨ deliverHeld s c offset data.length = true →
      exec (.bulkData src flow seq tag offset data crc bad) s = .next s) ∧
    (crc = bulkCrc src flow seq tag offset data → deliverHeld s c offset data.length = false → seq = f.cum → f.arrived = [] → offset + data.length ≤ c.length → c.ended = none → c.op ≠ 3 → Memory.wf s.mem.bytes →
      copyKey s (copyReq c.peer c.slice (c.dst + BitVec.ofNat 64 offset) c.dkey true) data.length .store = .ok k →
      ∃ t g, exec (.bulkData src flow seq tag offset data crc bad) s = .next t ∧
        memRead t.mem.bytes k data.length = data ∧ (∀ x, x < k ∨ k + data.length ≤ x → memByte t.mem.bytes x = memByte s.mem.bytes x) ∧
        findRecv t src flow = some g ∧ g.cum = f.cum + 1 ∧ g.arrived = [] ∧
        t = { s with mem := { s.mem with bytes := t.mem.bytes, poison := t.mem.poison, sramPoison := t.mem.sramPoison }, fab := t.fab, ctl := { s.ctl with watermarks := t.ctl.watermarks }, out := t.out }) ∧
    (f.uncovered ≠ 0 → f.uncoveredSince + 8000 ≤ s.tb.time → ∃ t, exec (.bulkAckTimer src flow) s = .next t ∧
      t.out = s.out ++ sends s [.c4 (fdOf src) 0xB4 f.slice flow.toNat (leBytes 4 f.cum.toNat ++ leBytes 4 0 ++ leBytes 32 (ackMap f).toNat)] ∧
      findRecv t src flow = some { f with uncovered := 0 } ∧ t = { s with fab := { s.fab with recvFlows := t.fab.recvFlows }, out := t.out })) ∧
  (∀ (s : State) (flow : BitVec 20) (cum : BitVec 24) (map : BitVec 256) (f : Flow) (o : BulkOut) (c : Copy) (bs : List Byte), getFlow s flow.toNat = some f →
    (f.bulk = true → (∀ c ∈ s.fab.copies, c.atDest = true ∨ c.ended.isSome = true) → ∃ t g, exec (.bulkAck flow cum map) s = .next t ∧
      getFlow t flow.toNat = some g ∧ g.out = f.out.filter (fun o => !ackCovers cum map o.seq) ∧
      (cum ≠ f.cum → (cum - f.cum).toNat < 2 ^ 23 → g.cum = cum ∧ g.rto = 80000 ∧ g.progress = s.tb.time) ∧ g.lastUse = s.tb.time ∧ 
      t = { s with fab := { s.fab with flows := t.fab.flows, c4 := t.fab.c4, copies := t.fab.copies } }) ∧
    (f.out.head? = some o → s.tb.time < f.timerFrom + f.rto → exec (.retransmissionTimer flow) s = .next s) ∧
    (f.out.head? = some o → f.timerFrom + f.rto ≤ s.tb.time → findCopy s o.tag = some c → c.ended = none → dataHeld s c o.offset o.len = false → copyData s c o.offset o.len = (0, bs, s) →
      ∃ t colour grade, exec (.retransmissionTimer flow) s = .next t ∧
        t.out = s.out ++ sends s [.bulk f.dst flow o.seq o.tag o.offset colour grade bs (bulkCrc f.src flow o.seq o.tag o.offset bs)] ∧
        getFlow t flow.toNat = some { f with rto := min (2 * f.rto) 640000, timerFrom := s.tb.time } ∧ t.fab.retrans = min (s.fab.retrans + 1) 0xFFFF ∧
        t = { s with fab := { s.fab with flows := t.fab.flows, retrans := t.fab.retrans }, net := { s.net with meters := t.net.meters }, ctl := { s.ctl with slices := t.ctl.slices }, out := t.out }) ∧
    (f.out ≠ [] → f.progress + 4000000 ≤ s.tb.time → ∃ t, exec (.bulkFlowFail flow) s = .next t ∧
      getFlow t flow.toNat = none ∧ t.fab.flowsFailed = min (s.fab.flowsFailed + 1) 0xFF ∧ (outsideExtent s = false → .c4 (fdOf f.dst) 0xB3 f.slice flow.toNat [] ∈ t.out)))

/-- R202 to R205, R208: a flow is opened, acknowledged, refused and tried again, closed by either side or when idle, and lost with its context at either end; a couch packet without a reply goes again after 50 us. -/
def Obligations.CouchFlows : Prop :=
  (∀ (s : State) (src dst flow : BitVec 20) (bulk : Bool) (slice : BitVec 16) (seq0 : BitVec 24), isHere s dst = true → nodeEp dst ≤ 4 → findRecv s src flow = none → findHome s (nodeEp dst) src flow = none →
    (findSlice s slice = none → exec (.flowOpen src dst flow bulk slice seq0) s = .next { s with out := s.out ++ sends s [.c4 (fdOf src) 0xB2 slice flow.toNat (leBytes 2 0x0010)] }) ∧
    ((findSlice s slice).isSome = true → mayOpen s slice = false ∨ pickContext s (takeFree s).1.toNat = none →
      exec (.flowOpen src dst flow bulk slice seq0) s = .next { s with out := s.out ++ sends s [.c4 (fdOf src) 0xB2 slice flow.toNat (leBytes 2 0x0015)] }) ∧
    (mayOpen s slice = true → (pickContext s (takeFree s).1.toNat).isSome = true → ∃ t recv, exec (.flowOpen src dst flow bulk slice seq0) s = .next t ∧
      t.out = s.out ++ sends s [.c4 (fdOf src) 0xB1 slice flow.toNat (leBytes 4 recv)] ∧
      (bulk = true → ∃ g, findRecv t src flow = some g ∧ g.cum = seq0 ∧ g.slice = slice ∧ g.recv.toNat = recv ∧ g.arrived = []) ∧
      (bulk = false → ∃ g, findHome t (nodeEp dst) src flow = some g ∧ g.n = seq0 ∧ g.slice = slice ∧ g.recv.toNat = recv ∧ g.window = [] ∧ g.admitted = [] ∧ g.closed = false) ∧
      t = { s with fab := { s.fab with eps := t.fab.eps, recvFlows := t.fab.recvFlows }, out := t.out, freeCtr := t.freeCtr })) ∧
  (∀ (s : State) (flow recv : BitVec 20) (f : Flow), getFlow s flow.toNat = some f →
    (f.st ≠ .opened → (∀ d l, (getCluster s d l).slots = []) → (∀ c ∈ s.fab.copies, c.atDest = true ∨ c.ended.isSome = true) → ∃ t, exec (.flowOpenAck flow recv) s = .next t ∧
      getFlow t flow.toNat = some { f with st := .opened, recv := recv, lastUse := s.tb.time } ∧ (∀ c ∈ t.fab.c4, c.opcode = 0xB0 → c.key ≠ flow.toNat) ∧
      t = { s with fab := { s.fab with flows := t.fab.flows, c4 := t.fab.c4 } }) ∧
    (f.st = .opening → ∃ t, exec (.flowOpenNak flow 0x0015) s = .next t ∧
      getFlow t flow.toNat = some { f with st := .busy, since := s.tb.time } ∧ t.fab.openBusy = min (s.fab.openBusy + 1) 0xFF ∧
      t = { s with fab := { s.fab with flows := t.fab.flows, c4 := t.fab.c4, openBusy := t.fab.openBusy } }) ∧
    (f.st = .opening → f.bulk = false → (∀ d l, (getCluster s d l).slots = []) → ∃ t, exec (.flowOpenNak flow 0x0010) s = .next t ∧ getFlow t flow.toNat = none ∧
      (∀ p a, (getStrand s p).st = .wait → (getStrand s p).wait = .credit (some flow.toNat) a → (getStrand t p).st = .frozen ∧ (getStrand t p).code = 0x20)) ∧
    (f.st = .busy → f.since + 40000 ≤ s.tb.time → ∃ t, exec (.flowOpenRetry flow) s = .next t ∧
      getFlow t flow.toNat = some { f with st := .opening, since := s.tb.time } ∧ t.out = s.out ++ sends s [.c4 (fdOf f.dst) 0xB0 f.slice flow.toNat (flowOpenBytes f.bulk f.slice f.seqNext)] ∧
      t = { s with fab := { s.fab with flows := t.fab.flows, c4 := t.fab.c4, nextId := t.fab.nextId }, out := t.out }) ∧
    (f.st = .busy → s.tb.time < f.since + 40000 → exec (.flowOpenRetry flow) s = .next s) ∧
    (f.st = .opened → f.out = [] → flowOutstanding s (nodeEp f.src) flow = 0 → f.lastUse + 40000000 ≤ s.tb.time → ∃ t, exec (.flowIdleClose flow) s = .next t ∧
      getFlow t flow.toNat = none ∧ t.out = s.out ++ sends s [.c4 (fdOf f.dst) 0xB3 f.slice flow.toNat []] ∧
      t = { s with fab := { s.fab with flows := t.fab.flows, closed := t.fab.closed, c4 := t.fab.c4, copies := t.fab.copies }, out := t.out }) ∧
    (∃ t, exec (.flowContextError flow) s = .next t ∧ (getErr t (.fd 1)).ue = min ((getErr s (.fd 1)).ue + 1) 0xFF ∧
      getFlow t flow.toNat = none ∧ t.fab.flowsFailed = min (s.fab.flowsFailed + 1) 0xFF ∧ (outsideExtent s = false → .c4 (fdOf f.dst) 0xB3 f.slice flow.toNat [] ∈ t.out))) ∧
  (∀ (s : State) (flow : BitVec 20) (g : RecvFlow), getFlow s flow.toNat = none → s.fab.recvFlows.find? (fun x => x.recv.toNat = flow.toNat) = some g → ∃ t, exec (.flowContextError flow) s = .next t ∧
    (getErr t (.fd 1)).ue = min ((getErr s (.fd 1)).ue + 1) 0xFF ∧ findRecv t g.src g.flow = none ∧ t.fab.flowsFailed = min (s.fab.flowsFailed + 1) 0xFF) ∧
  (∀ (s : State) (src flow : BitVec 20), ∃ t, exec (.flowClose src flow) s = .next t ∧ findRecv t src flow = none ∧
    (∀ ep < 5, ∀ h, findHome t ep src flow = some h → h.closed = true ∧ h.window = []) ∧ t = { s with fab := { s.fab with eps := t.fab.eps, recvFlows := t.fab.recvFlows } }) ∧
  (∀ (s : State) (id : Nat) (c : C4Out) (p : DescProg), s.fab.c4.find? (fun c => c.id = id && c.hdr.isNone) = some c →
    (s.tb.time < c.sent + 200000 → exec (.couchC4Resend id) s = .next s) ∧
    (c.sent + 200000 ≤ s.tb.time → c.resends < 3 → ∃ t, exec (.couchC4Resend id) s = .next t ∧ t.out = s.out ++ sends s [.c4 c.dst c.opcode c.slice c.key c.data] ∧
      t.fab.c4 = s.fab.c4.map (fun x => if x.id = id then { x with resends := x.resends + 1, sent := s.tb.time } else x) ∧ t = { s with fab := { s.fab with c4 := t.fab.c4 }, out := t.out }) ∧
    (c.sent + 200000 ≤ s.tb.time → 3 ≤ c.resends → c.opcode = 0xB5 → progOf s (c.key / 16) (c.key % 16) = some p → p.code = none → ∃ t, exec (.couchC4Resend id) s = .next t ∧
      (getRing t (c.key / 16)).prog = (getRing s (c.key / 16)).prog.map (fun q => if q.index = p.index && q.code.isNone then { q with code := some 0x0007, counted := 0 } else q) ∧
      t = { s with fab := { s.fab with rings := t.fab.rings, c4 := t.fab.c4 } }))

/-- R190, R191, R221, R224 to R226, R230, R231, R242 to R244: a group joins up its tree and becomes READY or times out; a quire's PI is read and its next entry started, and an operation ends by REFUSE, ABORT, DONE or its timeout. -/
def Obligations.GroupsAndEntries : Prop :=
  (∀ (s : State) (src : BitVec 20) (gid : BitVec 16) (gepoch : BitVec 8) (c : Nat) (g : Group), findGroup s gid = some (c, g) → getGroup s c = g → g.epoch = gepoch →
    ((childrenOf s g).any (fun m => m.node = fdOf src) = true →
      (g.st = .joining → g.joined.contains (fdOf src) = false → (∃ m ∈ childrenOf s g, m.node ≠ fdOf src ∧ g.joined.contains m.node = false) →
        ∃ t, exec (.groupJoin src gid gepoch (gMapcrc g.desc)) s = .next t ∧ getGroup t c = { g with joined := g.joined ++ [fdOf src] } ∧
          (∀ k, k ≠ c → getGroup t k = getGroup s k) ∧ t = { s with fab := { s.fab with groups := t.fab.groups } }) ∧
      (g.st = .joining → g.joined.contains (fdOf src) = false → (∀ m ∈ childrenOf s g, m.node = fdOf src ∨ g.joined.contains m.node = true) →
        (isRoot s g = true → 2 ≤ g.members.length → ∃ t, exec (.groupJoin src gid gepoch (gMapcrc g.desc)) s = .next t ∧ getGroup t c = { g with joined := g.joined ++ [fdOf src], st := .ready } ∧
          t.out = s.out ++ sends s [.multicast (groupBox g) 0xC9 (collHdr g 0 0 0) (readyBytes g)] ∧
          t = { s with fab := { s.fab with groups := t.fab.groups, c4 := t.fab.c4, nextId := t.fab.nextId }, out := t.out }) ∧
        (isRoot s g = false → ∃ t, exec (.groupJoin src gid gepoch (gMapcrc g.desc)) s = .next t ∧ getGroup t c = { g with joined := g.joined ++ [fdOf src] } ∧
          t.out = s.out ++ sends s [.coll (parentOf s g) 0xC8 (collHdr g 0 0 0) (readyBytes g ++ leBytes 4 (gMapcrc g.desc).toNat) false] ∧
          t = { s with fab := { s.fab with groups := t.fab.groups, c4 := t.fab.c4, nextId := t.fab.nextId }, out := t.out })) ∧
      (g.st = .ready → exec (.groupJoin src gid gepoch (gMapcrc g.desc)) s = .next { s with out := s.out ++ sends s [.coll (fdOf src) 0xC9 (collHdr g 0 0 0) (readyBytes g) false] })) ∧
    (g.st = .joining → ∃ t, exec (.groupReady gid gepoch) s = .next t ∧ getGroup t c = { g with st := .ready } ∧ (∀ k, k ≠ c → getGroup t k = getGroup s k) ∧
      t = { s with fab := { s.fab with groups := t.fab.groups, c4 := t.fab.c4 } })) ∧
  (∀ (s : State) (ctx : Fin 4096),
    let c := ctx.val
    let g := getGroup s c
    let pi := leNat (memRead s.mem.bytes (memKey (gQdie g.desc) (gPioff g.desc)) 8)
    let e := BitVec.ofNat 512 (leNat (memRead s.mem.bytes (memKey (gQdie g.desc) (quireSlot g g.next)) 64))
    (g.st = .joining → g.committed + 40000000 ≤ s.tb.time → ∃ t, exec (.joinTimeout ctx) s = .next t ∧ getGroup t c = { g with st := .error, cause := 0x0007 } ∧
      (∀ k, k ≠ c → getGroup t k = getGroup s k) ∧ t = { s with fab := { s.fab with groups := t.fab.groups, c4 := t.fab.c4 } }) ∧
    (hbmHeld s (gQdie g.desc) (gPioff g.desc) 8 = true → exec (.quireWake ctx) s = .next s) ∧
    (g.pendingBit = true → g.st = .joining ∨ g.st = .ready → hbmHeld s (gQdie g.desc) (gPioff g.desc) 8 = false → ownsHbm s (gQdie g.desc) (gPioff g.desc) 8 (gOwner g.desc) = true → poisonedAt s (memKey (gQdie g.desc) (gPioff g.desc)) 8 = false →
      ∃ t, exec (.quireWake ctx) s = .next t ∧ t = { s with fab := { s.fab with groups := t.fab.groups } } ∧ (∀ k, k ≠ c → getGroup t k = getGroup s k) ∧
        ((pi + 2 ^ 64 - g.ci) % 2 ^ 64 ≤ 2 ^ gLog2n g.desc → g.lastPi ≤ pi → getGroup t c = { g with pendingBit := false, lastPi := pi }) ∧
        ((pi + 2 ^ 64 - g.ci) % 2 ^ 64 ≤ 2 ^ gLog2n g.desc → pi < g.lastPi → getGroup t c = { g with pendingBit := false }) ∧
        (2 ^ gLog2n g.desc < (pi + 2 ^ 64 - g.ci) % 2 ^ 64 → getGroup t c = { g with pendingBit := false, st := .error, cause := 0x0013 })) ∧
    (g.st = .ready → g.op = none → g.reform = none → g.next < g.lastPi → opsInProgress s < 512 → g.early = [] → hbmHeld s (gQdie g.desc) (quireSlot g g.next) 64 = false →
      ownsHbm s (gQdie g.desc) (quireSlot g g.next) 64 (gOwner g.desc) = true → poisonedAt s (memKey (gQdie g.desc) (quireSlot g g.next)) 64 = false → isRoot s g = false → 
      (∀ status, entryCheck s g e = some status → ∃ t, exec (.entryStart ctx) s = .next t ∧ (getGroup t c).next = g.next + 1 ∧ (getGroup t c).opseq = (g.opseq + 1) % 2 ^ 32 ∧
        t.out = s.out ++ sends s [.coll (rootOf g) 0xCD (collHdr g (BitVec.ofNat 32 g.opseq) 0 (crc32c (agreement e))) (leBytes 2 status.toNat) false]) ∧
      (entryCheck s g e = none → eOp e = 6 → g.drillAbort = false → g.holdArrive = none → rootLost s g = false →
        (childrenOf s g ≠ [] → ∃ t, exec (.entryStart ctx) s = .next t ∧ t = { s with fab := { s.fab with groups := t.fab.groups } } ∧ (∀ k, k ≠ c → getGroup t k = getGroup s k) ∧
          getGroup t c = { g with next := g.next + 1, opseq := (g.opseq + 1) % 2 ^ 32, op := some { index := g.next, opseq := BitVec.ofNat 32 g.opseq, entry := e, paramcrc := crc32c (agreement e), started := s.tb.time, begun := true, lastNode := fdNode s } }) ∧
        (childrenOf s g = [] → ∃ t, exec (.entryStart ctx) s = .next t ∧ (getGroup t c).next = g.next + 1 ∧ (getGroup t c).opseq = (g.opseq + 1) % 2 ^ 32 ∧
          t.out = s.out ++ sends s [.coll (parentOf s g) 0xC4 (collHdr g (BitVec.ofNat 32 g.opseq) 0 (crc32c (agreement e))) (leBytes 4 (fdNode s).toNat ++ leBytes 1 0) false] ∧
          t = { s with fab := { s.fab with groups := t.fab.groups }, out := t.out }))) ∧
    (∀ o, g.op = some o → g.reform = none → isRoot s g = true → o.decided = false → gOpto g.desc ≠ 0 → o.started + gOpto g.desc * 4000000 ≤ s.tb.time → 2 ≤ g.members.length → quireHeld s g o.index = false → ∃ t sent, exec (.operationTimeout ctx) s = .next t ∧
      t.out = s.out ++ sends s [.multicast (groupBox g) 0xCB (opHdr g o 0) (leBytes 2 0x0003 ++ leBytes 2 0x0007 ++ leBytes 1 0)] ++ sent ∧ Retires t c g o 0x0003 0x0007 0 false)) ∧
  (∀ (s : State) (src : BitVec 20) (h : CollHdr) (c : Nat) (g : Group) (o : CollOp) (status cause : BitVec 16) (flags : BitVec 4) (drill : Bool) (time : Word), InOp s h c g o → g.reform = none → outcomeOf g h.opseq = none → quireHeld s g o.index = false →
    (isRoot s g = true → o.decided = false → 2 ≤ g.members.length →
      (∃ t sent, exec (.refuse src h status) s = .next t ∧ t.out = s.out ++ sends s [.multicast (groupBox g) 0xCB (opHdr g o 0) (leBytes 2 status.toNat ++ leBytes 2 0 ++ leBytes 1 0)] ++ sent ∧ Retires t c g o status 0 0 false) ∧
      (∃ t sent, exec (.abortReq src h cause drill) s = .next t ∧ t.out = s.out ++ sends s [.multicast (groupBox g) 0xCB (opHdr g o 0) (leBytes 2 0x0003 ++ leBytes 2 cause.toNat ++ leBytes 1 (if drill then 1 else 0))] ++ sent ∧ Retires t c g o 0x0003 cause 0 drill)) ∧
    (isRoot s g = false ∨ o.decided = true → exec (.refuse src h status) s = .next s ∧ exec (.abortReq src h cause drill) s = .next s) ∧
    (∃ t, exec (.abortI h status cause drill) s = .next t ∧ Retires t c g o status cause 0 drill) ∧
    (eOp o.entry ≠ 6 → eOp o.entry ≠ 7 → ∃ t, exec (.doneI h status flags time) s = .next t ∧ Retires t c g o status 0 flags false) ∧
    (eOp o.entry = 6 → o.t = none → ∃ t, exec (.doneI h status flags time) s = .next t ∧ (getGroup t c).op = some { o with t := some time.toNat }))

/-- R219, R234 to R236, R315: a partial chunk that passes its check is taken and acknowledged, one that fails is asked for again; a result chunk is written to the dies of the module's ranks and counted; chunks are resent, packets without an effect go again, and a lane that fails three times is fenced. -/
def Obligations.ChunksAndLanes : Prop :=
  (∀ (s : State) (src : BitVec 20) (h : CollHdr) (data : List Byte) (flags : BitVec 4) (crowd : Bool) (c : Nat) (g : Group) (o : CollOp), InOp s h c g o → g.reform = none → o.refused = false → h.part = 0 →
    (∀ m ∈ childrenOf s g, m.node = fdOf src →
      (heardHas o m.node h.chunk = false → ∃ t sent b, exec (.chunkUp src h data flags true true crowd) s = .next t ∧
        t.out = s.out ++ sends s [.coll m.node 0xC2 (opHdr g o 0) (leBytes 4 (leastAbsent ((o.heard.filter (fun x => x.1 = m.node)).map (fun x => x.2.1) ++ [h.chunk]))) b] ++ sent ∧ (crowd = true → b = true)) ∧
      ((o.rereqs.filter (fun r => r.1 = m.node && r.2.1 = h.chunk)) = [] → ∃ t, exec (.chunkUp src h data flags true false crowd) s = .next t ∧
        t.out = s.out ++ sends s [.coll m.node 0xC3 (opHdr g o 0) (leBytes 4 h.chunk) false] ∧ t.fab.coll.rereq = min (s.fab.coll.rereq + 1) 0xFFFF ∧
        t = { s with fab := { s.fab with groups := t.fab.groups, coll := t.fab.coll }, out := t.out })) ∧
    (isTreeOp (eOp o.entry) = true → dstHeld s g o.entry h.chunk = true → ∀ ok, exec (.chunkDown src h data flags true ok crowd) s = .next s) ∧
    (isTreeOp (eOp o.entry) = true → dstHeld s g o.entry h.chunk = false →
      (∀ r, isRoot s g = false → localRanks s g = [r] → chunkFor o.entry r h.chunk = true → o.counted.contains h.chunk = false → Memory.wf s.mem.bytes →
        ownsHbm s (rankDie g r) (chunkDst g o.entry r h.chunk) data.length (gOwner g.desc) = true → partialPoison s (memKey (rankDie g r) (chunkDst g o.entry r h.chunk)) data.length = false →
        ∃ t p, exec (.chunkDown src h data flags true true crowd) s = .next t ∧
          memRead t.mem.bytes (memKey (rankDie g r) (chunkDst g o.entry r h.chunk)) data.length = data ∧
          (∀ x, x < memKey (rankDie g r) (chunkDst g o.entry r h.chunk) ∨ memKey (rankDie g r) (chunkDst g o.entry r h.chunk) + data.length ≤ x → memByte t.mem.bytes x = memByte s.mem.bytes x) ∧
          (getGroup t c).op = some p ∧ p.counted = o.counted ++ [h.chunk] ∧
          t = { s with mem := { s.mem with bytes := t.mem.bytes, poison := t.mem.poison, sramPoison := t.mem.sramPoison }, fab := t.fab, ctl := { s.ctl with watermarks := t.ctl.watermarks }, out := t.out }) ∧
      ((o.rereqs.filter (fun r => r.1 = rootOf g && r.2.1 = h.chunk)) = [] → ∃ t, exec (.chunkDown src h data flags true false crowd) s = .next t ∧
        t.out = s.out ++ sends s [.coll (rootOf g) 0xC3 (opHdr g o 0) (leBytes 4 h.chunk) false] ∧
        t = { s with fab := { s.fab with groups := t.fab.groups, coll := t.fab.coll }, out := t.out }))) ∧
  (∀ (s : State) (src : BitVec 20) (h : CollHdr) (cum : Nat) (crowd : Bool) (c : Nat) (g : Group) (o : CollOp), InOp s h c g o → g.reform = none → o.refused = false →
    (h.part = 0 → isRoot s g = false → fdOf src = parentOf s g → isTreeOp (eOp o.entry) = true → totalChunks g o.entry ≤ o.sentN → totalChunks g o.entry ≤ o.formed → ∃ t p, exec (.chunkAck src h cum crowd) s = .next t ∧
      (getGroup t c).op = some p ∧ nodeVal p.acks (parentOf s g) 0 = max (nodeVal o.acks (parentOf s g) 0) cum ∧
      p.accs = o.accs.filter (fun a => !(a.sentUp && decide (a.chunk < max (nodeVal o.acks (parentOf s g) 0) cum))) ∧
      t = { s with fab := { s.fab with groups := t.fab.groups } }) ∧
    (∀ bs, o.retained.find? (fun r => r.1 = h.chunk) = some (h.chunk, bs) → ∃ t, exec (.chunkRereq src h) s = .next t ∧
      t.out = s.out ++ sends s ((chunkPackets (opHdr g o h.chunk) bs 0).map (fun p => .coll (fdOf src) 0xC1 p.1 p.2 false)) ∧ t = { s with fab := { s.fab with groups := t.fab.groups }, out := t.out })) ∧
  (∀ (s : State) (ctx : Fin 4096) (peer : BitVec 20) (chunk : Nat) (o : CollOp), (getGroup s ctx.val).op = some o → o.refused = false →
    heardHas o (fdOf peer) chunk = false → laterHeard s o (fdOf peer) chunk = true → (o.rereqs.filter (fun r => r.1 = fdOf peer && r.2.1 = chunk)) = [] →
    ∃ t, exec (.chunkMissingTimer ctx peer chunk) s = .next t ∧ t.out = s.out ++ sends s [.coll (fdOf peer) 0xC3 (opHdr (getGroup s ctx.val) o 0) (leBytes 4 chunk) false] ∧
      t.fab.coll.rereq = min (s.fab.coll.rereq + 1) 0xFFFF ∧ t = { s with fab := { s.fab with groups := t.fab.groups, coll := t.fab.coll }, out := t.out }) ∧
  (∀ (s : State) (id : Nat) (x : C4Out) (h : CollHdr), s.fab.c4.find? (fun c => c.id = id) = some x → x.hdr = some h →
    (s.tb.time < x.sent + 80000 → exec (.collC4Resend id) s = .next s) ∧
    (x.sent + 80000 ≤ s.tb.time → ∃ t, exec (.collC4Resend id) s = .next t ∧
      (x.box = none → t.out = s.out ++ sends s [.coll x.dst x.opcode h x.data false]) ∧ (∀ b, x.box = some b → t.out = s.out ++ sends s [.multicast b x.opcode h x.data]) ∧
      t.fab.c4 = s.fab.c4.map (fun y => if y.id = id then { y with resends := y.resends + 1, sent := s.tb.time } else y) ∧ t = { s with fab := { s.fab with c4 := t.fab.c4 }, out := t.out })) ∧
  (∀ (s : State) (lane : Fin 64), s.fab.coll.fencedLanes.contains lane.val = false → s.fab.coll.fencedLanes.length < 63 →
    ∃ t, exec (.laneResidueFail lane) s = .next t ∧ t.fab.coll.ruRecomp = min (s.fab.coll.ruRecomp + 1) 0xFF ∧
      Tab.getD t.fab.coll.laneFails lane.val 0 = Tab.getD s.fab.coll.laneFails lane.val 0 + 1 ∧
      (Tab.getD s.fab.coll.laneFails lane.val 0 < 2 → t.fab.coll.fencedLanes = s.fab.coll.fencedLanes ∧ t.fleet = s.fleet) ∧
      (2 ≤ Tab.getD s.fab.coll.laneFails lane.val 0 → t.fab.coll.fencedLanes = s.fab.coll.fencedLanes ++ [lane.val] ∧ Reported s t (srcKind 0xA 1) 0x04) ∧
      t = { s with fab := { s.fab with coll := t.fab.coll }, fleet := t.fleet, freeCtr := t.freeCtr })

/-- R238 to R242, R245, R264: arrivals go up the tree, RELEASE arms a comparator that opens the barrier at T, the clusters wake 50 ns before it, and a stand-in asks what became of an operation. -/
def Obligations.CollectiveBarriers : Prop :=
  (∀ (s : State) (src : BitVec 20) (h : CollHdr) (node : BitVec 20) (verdict : Bool) (c : Nat) (g : Group) (o : CollOp), InOp s h c g o → g.reform = none → o.refused = false → o.arrived.contains (fdOf src) = false →
    ((∃ m ∈ childrenOf s g, m.node ≠ fdOf src ∧ o.arrived.contains m.node = false) → ∃ t, exec (.arrive src h node verdict) s = .next t ∧
      getGroup t c = { g with op := some { o with arrived := o.arrived ++ [fdOf src], lastNode := node, verdictBad := o.verdictBad || !verdict } } ∧ t = { s with fab := { s.fab with groups := t.fab.groups } }) ∧
    ((∀ m ∈ childrenOf s g, m.node = fdOf src ∨ o.arrived.contains m.node = true) → eOp o.entry = 6 → o.begun = true → g.st = .ready → o.ownArrived = false → g.holdArrive = none → o.barHeld = none →
      (isRoot s g = false → ∃ t, exec (.arrive src h node verdict) s = .next t ∧
        t.out = s.out ++ sends s [.coll (parentOf s g) 0xC4 (opHdr g o 0) (leBytes 4 node.toNat ++ leBytes 1 (if o.verdictBad || !verdict then 1 else 0)) false] ∧
        t = { s with fab := { s.fab with groups := t.fab.groups }, out := t.out }) ∧
      (isRoot s g = true → 2 ≤ g.members.length → o.t = none → ∃ t p, exec (.arrive src h node verdict) s = .next t ∧
        t.out = s.out ++ sends s [.multicast (groupBox g) 0xC5 (opHdr g o 0) (leBytes 8 (max (s.tb.time + barLead g) (eTime o.entry)) ++ leBytes 4 node.toNat)] ++
          sends s [.multicast (groupBox g) 0xCC (opHdr g o 0) (doneBytes 0 0 (max (s.tb.time + barLead g) (eTime o.entry)))] ∧
        (getGroup t c).op = some p ∧ p.t = some (max (s.tb.time + barLead g) (eTime o.entry)) ∧ p.decided = true ∧
        t = { s with fab := { s.fab with groups := t.fab.groups, coll := t.fab.coll, c4 := t.fab.c4, nextId := t.fab.nextId }, fleet := t.fleet, out := t.out, freeCtr := t.freeCtr }))) ∧
  (∀ (s : State) (src : BitVec 20) (h : CollHdr) (rank : Nat) (bytes : List Byte) (c : Nat) (g : Group) (o : CollOp), InOp s h c g o → g.reform = none → o.refused = false → digestOf o rank = none → o.begun = false ∨ (∃ m ∈ childrenOf s g, o.arrived.contains m.node = false) →
    ∃ t, exec (.digest src h rank bytes) s = .next t ∧ getGroup t c = { g with op := some { o with digests := o.digests ++ [(rank, padTo 48 bytes)] } } ∧ t = { s with fab := { s.fab with groups := t.fab.groups } }) ∧
  (∀ (s : State) (h : CollHdr) (time : Word) (node : BitVec 20) (c : Nat) (g : Group) (o : CollOp), InOp s h c g o → g.reform = none → o.refused = false → o.released = false → outcomeOf g h.opseq = none →
    ∃ t, exec (.release h time node) s = .next t ∧ (o.t = none → (getGroup t c).op = some { o with t := some time.toNat, released := true }) ∧
      (∀ T, o.t = some T → (getGroup t c).op = some { o with released := true } ∧ t.fab.coll = s.fab.coll) ∧
      (isHere s node = true → (getGroup t c).lastBar = min (g.lastBar + 1) 0xFFFF) ∧ (isHere s node = false → (getGroup t c).lastBar = g.lastBar) ∧
      (o.t = none → time.toNat < s.tb.time → t.fab.coll.late = min (s.fab.coll.late + 1) 0x3F) ∧ (s.tb.time ≤ time.toNat → t.fab.coll = s.fab.coll) ∧
      t = { s with fab := { s.fab with groups := t.fab.groups, coll := t.fab.coll }, fleet := t.fleet, freeCtr := t.freeCtr }) ∧
  (∀ (s : State) (ctx : Fin 4096) (o : CollOp) (T : Nat),
    let c := ctx.val
    let g := getGroup s c
    let d := gQdie g.desc
    let slot := memKey d (quireSlot g o.index + 56)
    let line := memKey d (gCioff g.desc)
    g.op = some o → o.t = some T →
    (T ≤ s.tb.time + 200 ∨ T < cycleEnd s + 200 → ∃ t, exec (.barrierPrewake ctx) s = .next t ∧ t.tb = { s.tb with time := max s.tb.time (T - 200) } ∧
      (∀ k : CorePos, (barClusters s g).contains (k.die.val, k.cluster.val) = true → (getCore t k).gated = false) ∧
      (∀ k : CorePos, (∀ x ∈ barClusters s g, clIx x.1 x.2 ≠ clIx k.die.val k.cluster.val) → getCore t k = getCore s k) ∧
      t = { s with tb := t.tb, compute := { s.compute with cores := t.compute.cores, clusters := t.compute.clusters } }) ∧
    (s.tb.time + 200 < T → cycleEnd s + 200 ≤ T → exec (.barrierPrewake ctx) s = .next s) ∧
    ((s.tb.time < T ∧ cycleEnd s ≤ T) ∨ quireHeld s g o.index = true → exec (.barrierRelease ctx) s = .next s) ∧
    (T ≤ s.tb.time ∨ T < cycleEnd s → quireHeld s g o.index = false → g.reform = none → Memory.wf s.mem.bytes → eOp o.entry = 6 → ownsHbm s d (quireSlot g o.index + 56) 8 (gOwner g.desc) = true → ownsHbm s d (gCioff g.desc) 64 (gOwner g.desc) = true →
      partialPoison s slot 8 = false → partialPoison s line 64 = false → slot + 8 ≤ line ∨ line + 64 ≤ slot →
      ∃ t, exec (.barrierRelease ctx) s = .next t ∧ Retires t c g o 0 0 0 false ∧
        memRead t.mem.bytes slot 8 = leBytes 8 (quireStatus false 0 0 o.opseq 0) ∧
        memRead t.mem.bytes line 64 = leBytes 8 ((g.ci + 1) % 2 ^ 64) ++ leBytes 8 (max s.tb.time T) ++ leBytes 48 0 ∧ t.tb = { s.tb with time := max s.tb.time T } ∧
        (∀ k, k < slot ∨ slot + 8 ≤ k → k < line ∨ line + 64 ≤ k → memByte t.mem.bytes k = memByte s.mem.bytes k))) ∧
  (∀ (s : State) (src : BitVec 20) (h : CollHdr) (c : Nat) (g : Group), groupFor s h = some (c, g) → disagrees g h = false →
    ∃ t, exec (.outcomeQuery src h) s = .next t ∧
      t.out = s.out ++ sends s [.coll (fdOf src) 0xCF h (leBytes 1 (sawOutcome g h.opseq).1 ++ doneBytes (sawOutcome g h.opseq).2.1 (sawOutcome g h.opseq).2.2.1 (sawOutcome g h.opseq).2.2.2) false] ∧
      (∃ k ∈ t.fab.c4, k.opcode = 0xCF ∧ k.dst = fdOf src ∧ k.hdr = some h) ∧ t = { s with fab := { s.fab with c4 := t.fab.c4, nextId := t.fab.nextId }, out := t.out }) ∧
  (∀ (s : State) (src : BitVec 20) (h : CollHdr) (seen : Nat) (code : BitVec 16) (flags : BitVec 4) (time : Word) (c : Nat) (g : Group) (o : CollOp), InOp s h c g o → quireHeld s g o.index = false → o.querying = true → (∀ r ∈ o.replies, r.1 ≠ fdOf src) →
    (∃ m ∈ surviving s g, m.node ≠ fdNode s ∧ m.node ≠ fdOf src ∧ ∀ r ∈ o.replies, r.1 ≠ m.node) →
    ∃ t, exec (.outcomeReply src h seen code flags time) s = .next t ∧ (getGroup t c).op = some { o with replies := o.replies ++ [(fdOf src, seen, code, flags, time.toNat)] } ∧
      t = { s with fab := { s.fab with groups := t.fab.groups, c4 := t.fab.c4 } })

/-- R251 to R261, R266, R270, R535: fabric time advances and the running clocks' cycles with it, offers are announced and heard, a parent is taken, lost and chosen again, offsets step or slew the time, and the pulse per second is followed and made. A readout within an always-on cycle comes at an instant of it that the model leaves free (log entry 98). -/
def Obligations.FabricTime : Prop :=
  (∀ s : State, (∀ e ∈ s.fab.groups, ∀ o, e.2.op = some o → o.barHeld = none) → ∃ t, exec .fabricTimeTick s = .next t ∧
    t.tb = { s.tb with time := cycleEnd s % 2 ^ 64, base := cycleEnd s % 2 ^ 64, frac := (s.tb.frac + s.tb.inc) % 2 ^ 32 } ∧
    (∀ d < 4, Tab.getD t.compute.cyc d 0 = Tab.getD s.compute.cyc d 0 + 4 * dieFreq s d) ∧ Tab.getD t.compute.cyc 4 0 = Tab.getD s.compute.cyc 4 0 + 8000 ∧
    t = { s with tb := t.tb, compute := { s.compute with cyc := t.compute.cyc } }) ∧
  (∀ (s : State) (port : Fin 64) (gm : BitVec 20) (prio : BitVec 8) (hops : Nat) (state : BitVec 3),
    (∃ t, exec (.announce port gm prio hops state) s = .next t ∧ Tab.find t.tb.heard port.val = some { gm := gm, prio := prio, hops := hops, state := state, at_ := s.tb.time } ∧ t.tb.time = s.tb.time ∧ t = { s with tb := t.tb }) ∧
    (s.tb.st = .free → s.tb.heard = [] → s.tb.prioInForce = 0xFF → prio ≠ 0xFF → gm ≠ fdNode s → hops < 4 → (getLink s port.val).st = .active → ∃ t, exec (.announce port gm prio hops state) s = .next t ∧
      t.tb.st = .acquire ∧ t.tb.parent = port.val ∧ t.tb.gmNode = gm ∧ t.tb.gmPrio = prio ∧ t.tb.hops = hops + 1) ∧
    (s.tb.st = .free → s.tb.heard = [] → s.tb.prioInForce ≠ 0xFF → s.tb.prioInForce.toNat < prio.toNat → (fdNode s).toNat ≤ gm.toNat → ∃ t, exec (.announce port gm prio hops state) s = .next t ∧
      t.tb.st = .grandmaster ∧ t.tb.gmNode = fdNode s ∧ t.tb.gmPrio = s.tb.prioInForce ∧ t.tb.hops = 0)) ∧
  (∀ s : State,
    (s.tb.lastAnnounce + 4000000 ≤ s.tb.time → ∃ t, exec .announceSend s = .next t ∧ t.tb.prioInForce = s.tb.prio ∧ t.tb.lastAnnounce = s.tb.time ∧ t.tb.time = s.tb.time ∧
      t.out = s.out ++ sends s ((activePorts s).map (fun p => .neighbour p 0xD0 (announceBytes t))) ∧ t = { s with tb := t.tb, out := t.out }) ∧
    (s.tb.time < s.tb.lastAnnounce + 4000000 → exec .announceSend s = .next s) ∧
    (s.tb.st = .acquire ∨ s.tb.st = .synced → parentGone s = true → ∃ t, exec .parentLost s = .next t ∧
      t.tb.st = .holdover ∧ t.tb.lostAt = s.tb.time ∧ t.tb.inc = s.tb.inc ∧ t.tb.time = s.tb.time ∧ t.tb.slewOnly = true ∧ t = { s with tb := t.tb }) ∧
    (s.tb.st = .holdover → (∀ o, bestOffer (offers s) = some o → s.tb.prioInForce = 0xFF → ∃ t, exec .parentSelect s = .next t ∧ t.tb.st = .acquire ∧ t.tb.parent = o.port ∧ t.tb.gmNode = BitVec.ofNat 20 o.gm ∧ t.tb.slewOnly = s.tb.slewOnly ∧ t = { s with tb := t.tb })) ∧
    (s.tb.st = .holdover → bestOffer (offers s) = none → s.tb.prioInForce ≠ 0xFF → ∃ t, exec .parentSelect s = .next t ∧ t.tb.st = .grandmaster ∧ t.tb.gmNode = fdNode s ∧ t = { s with tb := t.tb }) ∧
    (s.tb.st = .acquire ∨ s.tb.st = .synced → s.tb.lastSync + 500000 ≤ s.tb.time → ∃ T, s.tb.time ≤ T ∧ (T = s.tb.time ∨ T < cycleEnd s) ∧ exec .syncReqSend s =
      .next { s with tb := { s.tb with time := T, syncT1 := some T, lastSync := T }, out := s.out ++ sends s [.neighbour s.tb.parent 0xD1 (leBytes 8 T)], freeCtr := s.freeCtr + 1 })) ∧
  (∀ (s : State) (port : Fin 64) (t1 t2 t3 : Word),
    ((getLink s port.val).afterResume = false → ∃ T2 T3, s.tb.time ≤ T2 ∧ T2 ≤ T3 ∧ (T3 = s.tb.time ∨ T3 < cycleEnd s) ∧ exec (.syncReq port t1) s =
      .next { s with tb := { s.tb with time := T3 }, out := s.out ++ sends s [.neighbour port.val 0xD2 (leBytes 8 t1.toNat ++ leBytes 8 T2 ++ leBytes 8 T3)], freeCtr := s.freeCtr + 2 }) ∧
    ((getLink s port.val).afterResume = true → exec (.syncReq port t1) s = .next s) ∧
    exec (.syncResp port t1 t2 t3 true) s = .next s ∧
    (s.tb.st = .acquire ∨ s.tb.st = .synced → s.tb.parent = port.val → s.tb.syncT1 = some t1.toNat → 549700838307 ≤ s.tb.inc → s.tb.inc ≤ 549810789469 → ∃ T : Nat, s.tb.time ≤ T ∧ (T = s.tb.time ∨ T < cycleEnd s) ∧
      ∀ x : Int, x = ((t1.toNat : Int) - t2.toNat + (T - t3.toNat)) / 2 - Tab.getD s.ctl.records.asym port.val 0 →
      ∃ t, exec (.syncResp port t1 t2 t3 false) s = .next t ∧ t.tb.offset = satOffset x ∧ t.tb.syncT1 = none ∧ t = { s with tb := t.tb, freeCtr := t.freeCtr } ∧
        (-2 ≤ x → x ≤ 2 → t.tb.time = T ∧ t.tb.goodRun = s.tb.goodRun + 1 ∧ 549700838307 ≤ t.tb.inc ∧ t.tb.inc ≤ 549810789469 ∧
          (s.tb.st = .acquire → 63 ≤ s.tb.goodRun → parentGood s = true → t.tb.st = .synced) ∧ (s.tb.st = .acquire → s.tb.goodRun < 63 ∨ parentGood s = false → t.tb.st = .acquire) ∧ (s.tb.st = .synced → t.tb.st = .synced)) ∧
        (x < -2 ∨ 2 < x → t.tb.goodRun = 0 ∧ t.tb.st = .acquire ∧
          (s.tb.st = .acquire → s.net.route.joined = false → s.tb.slewOnly = false → t.tb.time = (T - x).toNat % 2 ^ 64) ∧
          (s.tb.st = .synced ∨ s.net.route.joined = true ∨ s.tb.slewOnly = true → t.tb.time = T ∧ 549700838307 ≤ t.tb.inc ∧ t.tb.inc ≤ 549810789469 ∧ (0 < x → t.tb.inc ≤ s.tb.inc) ∧ (x < 0 → s.tb.inc ≤ t.tb.inc))))) ∧
  (∀ (s : State) (value : Word),
    (s.tb.st = .grandmaster → s.tb.ppsInEn = true → (∀ e, s.tb.lastPpsIn = some e → e + 2000000000 ≤ s.tb.time) → ∃ t, exec .ppsInEdge s = .next t ∧
      s.tb.time ≤ t.tb.time ∧ (t.tb.time = s.tb.time ∨ t.tb.time < cycleEnd s) ∧ t.tb.lastPpsIn = some t.tb.time ∧
      (t.tb.ppsLock = true ↔ t.tb.time % 4000000000 ≤ 4000 ∨ 4000000000 - t.tb.time % 4000000000 ≤ 4000) ∧ t = { s with tb := t.tb, freeCtr := t.freeCtr }) ∧
    (s.tb.ppsLock = true → (∀ e, s.tb.lastPpsIn = some e → e + 8000000000 ≤ s.tb.time) → ∃ t, exec .ppsLoss s = .next t ∧ t.tb = { s.tb with ppsLock := false, inc := 549755813888 } ∧ t = { s with tb := t.tb }) ∧
    (s.tb.ppsOutEn = true → s.tb.st = .synced ∨ s.tb.st = .grandmaster → s.tb.ppsOut = false → boundaryHere s ≤ s.tb.time ∨ boundaryHere s < cycleEnd s →
      exec .secondBoundary s = .next { s with tb := { s.tb with time := max s.tb.time (boundaryHere s), ppsOut := true, ppsRise := boundaryHere s } }) ∧
    (s.tb.time < boundaryHere s → cycleEnd s ≤ boundaryHere s → exec .secondBoundary s = .next s) ∧
    (s.tb.ppsOut = true → s.tb.ppsRise + 400000000 ≤ s.tb.time → exec .ppsOutFall s = .next { s with tb := { s.tb with ppsOut := false } }) ∧
    (∃ t, exec (.tbCtrlWrite value) s = .next t ∧ t.tb.prio = value.extractLsb' 8 8 ∧ t.tb.prioInForce = s.tb.prioInForce ∧ t.tb.ppsOutEn = value.getLsbD 1 ∧ t.tb.ppsInEn = value.getLsbD 0 ∧
      (value.getLsbD 0 = false → t.tb.ppsLock = false) ∧ t.tb.time = s.tb.time ∧ t = { s with tb := t.tb }))

/-- R275 to R281, R303, R306 to R308, R311, R312, R317, R318, R320, R326: a packet enters staging and is linked to its output, waits, escapes or is discarded; an output sends, credits come back, a copy of a residue is written, an error loses a packet; and the switch's registers are written. -/
def Obligations.SwitchCore : Prop :=
  (∀ (s : State) (port : Fin 90) (vc : Fin 10) (p : Packet) (a : Arrived) (rest : List Arrived) (o v : Nat),
    (mayEnter s port.val vc.val p = false → exec (.packetArrive port vc p) s = .next s) ∧
    (mayEnter s port.val vc.val p = true → stagingOf s port.val vc.val ≠ [] → ∃ t, exec (.packetArrive port vc p) s = .next t ∧
      stagingOf t port.val vc.val = stagingOf s port.val vc.val ++ [{ p := p, vc := vc.val }] ∧ (∀ k, k ≠ port.val → getPort t k = getPort s k) ∧ t = { s with net := { s.net with ports := t.net.ports } }) ∧
    (mayEnter s port.val vc.val p = true → stagingOf s port.val vc.val = [] → p.dst ≠ 0xFFFFF → p.comb = false → (vc.val = 5 → freeResidue s port.val ≠ none) → mustWale s p = false → routeOf s { p := p, vc := vc.val } (isWale vc.val) = .take o v → v / 2 ≠ 3 → ∃ t, exec (.packetArrive port vc p) s = .next t ∧
      stagingOf t port.val vc.val = [] ∧ queueOf t o v = queueOf s o v ++ [{ p := { p with crowd := p.crowd || marks s o (v / 2) false }, origin := some (port.val, vc.val) }] ∧
      t = { s with net := { s.net with ports := t.net.ports, portCtrs := t.net.portCtrs, route := t.net.route } }) ∧
    (stagingOf s port.val vc.val = a :: rest → vc.val = 5 → freeResidue s port.val = none → exec (.packetLink port vc) s = .next s) ∧
    (stagingOf s port.val vc.val = a :: rest → (vc.val = 5 → freeResidue s port.val ≠ none) → a.p.dst ≠ 0xFFFFF → mustWale s a.p = false →
      (routeOf s a (isWale vc.val) = .waitRoom → ∃ t, exec (.packetLink port vc) s = .next t ∧
        stagingOf t port.val vc.val = { a with waited := true } :: rest ∧ t = { s with net := { s.net with ports := t.net.ports } }) ∧
      (rest = [] → a.p.comb = false → routeOf s a (isWale vc.val) = .take o v → v / 2 ≠ 3 → ∃ t, exec (.packetLink port vc) s = .next t ∧
        stagingOf t port.val vc.val = [] ∧ queueOf t o v = queueOf s o v ++ [{ p := { a.p with crowd := a.p.crowd || marks s o (v / 2) a.waited }, origin := some (port.val, a.vc) }] ∧
        t = { s with net := { s.net with ports := t.net.ports, portCtrs := t.net.portCtrs, route := t.net.route } })) ∧
    (∀ since, stagingOf s port.val vc.val = [a] → a.vc < 10 → Tab.find (getPort s port.val).stuckSince vc.val = some since →
      (s.tb.time < since + 80000 ∨ noWay s vc.val a = false → exec (.unroutableDiscard port vc) s = .next s) ∧
      (since + 80000 ≤ s.tb.time → noWay s vc.val a = true → ∃ t, exec (.unroutableDiscard port vc) s = .next t ∧ stagingOf t port.val vc.val = [] ∧
        t.net.route.unroutable = min (s.net.route.unroutable + 1) 0xFF ∧
        Tab.getD (getPort t port.val).returned a.vc 0 = Tab.getD (getPort s port.val).returned a.vc 0 + BitVec.ofNat 16 (pktCells a.p) ∧
        t = { s with net := { s.net with ports := t.net.ports, links := t.net.links, route := t.net.route }, out := t.out }))) ∧
  (∀ (s : State) (port : Fin 90) (cls : Fin 5) (cycles o v : Nat) (a : Arrived), stagingOf s port.val (2 * cls.val) = [a] → stagingOf s port.val (2 * cls.val + 1) = [] → waitOf s port.val (2 * cls.val) ≤ cycles →
    a.p.dst ≠ 0xFFFFF → isHere s a.p.dst = false → forwards s = true → walePorts s (nodeCoord a.p.dst) ≠ [] → (∀ p w, routeOf s a false ≠ .take p w) → routeOf s a true = .take o v → v / 2 ≠ 3 → a.p.comb = false → (cls.val = 2 → freeResidue s port.val ≠ none) →
    ∃ t, exec (.waleEscape port cls cycles) s = .next t ∧ t.net.route.waleEntries = min (s.net.route.waleEntries + 1) 0xFFFF ∧
      stagingOf t port.val (2 * cls.val) = [] ∧ stagingOf t port.val (2 * cls.val + 1) = [] ∧
      queueOf t o v = queueOf s o v ++ [{ p := { a.p with crowd := a.p.crowd || marks s o (v / 2) a.waited }, origin := some (port.val, a.vc) }] ∧
      t = { s with net := { s.net with ports := t.net.ports, portCtrs := t.net.portCtrs, switchCtrs := t.net.switchCtrs, route := t.net.route } }) ∧
  (∀ (s : State) (port : Fin 90) (slot : Fin 4) (out : Fin 90) (r : Residue) (o : Nat × BitVec 3),
    let vc := 2 * pktClass r.p + 1
    Tab.find (getPort s port.val).residue slot.val = some r → r.outs.find? (fun x => x.1 = out.val) = some o →
    hasRoom s out.val vc (pktCells (copyOf r.p o.2)) = true → s.net.poolUsed + pktCells (copyOf r.p o.2) ≤ 155456 →
    ∃ t, exec (.residueWrite port slot out) s = .next t ∧
      queueOf t out.val vc = queueOf s out.val vc ++ [{ p := { copyOf r.p o.2 with crowd := r.p.crowd || marks s out.val (vc / 2) false }, origin := none }] ∧
      t.net.poolUsed = s.net.poolUsed + pktCells (copyOf r.p o.2) ∧
      (r.outs.erase o ≠ [] → Tab.find (getPort t port.val).residue slot.val = some { r with outs := r.outs.erase o } ∧ t = { s with net := t.net }) ∧
      (r.outs.erase o = [] → Tab.find (getPort t port.val).residue slot.val = none)) ∧
  (∀ (s : State) (port : Fin 90) (vc : Nat) (l : Linked) (defs : Tab Int) (turn : Nat), chooseNext s port.val = some (vc, l, defs, turn) →
    (64 ≤ port.val → ∃ t sent, exec (.outputSend port) s = .next t ∧ t.out = s.out ++ .switched port.val vc l.p :: sent ∧ queueOf t port.val vc = (queueOf s port.val vc).tail) ∧
    (port.val < 64 → pktBlocks l.p ≤ 256 → ∃ t sent, exec (.outputSend port) s = .next t ∧
      t.out = s.out ++ .segment port.val { sseq := (getLink s port.val).txSseq, kph := (getLink s port.val).kph, blocks := pktBlocks l.p, items := [.packet (vcFin vc) l.p] } :: sent ∧
      queueOf t port.val vc = (queueOf s port.val vc).tail ∧ Tab.getD (getPort t port.val).spent vc 0 = Tab.getD (getPort s port.val).spent vc 0 + pktCells l.p)) ∧
  (∀ (s : State) (port : Fin 90) (vc : Fin 10) (count : BitVec 16) (index : Nat) (l : Linked),
    (∃ t, exec (.credit port vc count) s = .next t ∧ Tab.getD (getPort t port.val).creditSeen vc.val 0 = count ∧
      Tab.getD (getPort t port.val).spent vc.val 0 = Tab.getD (getPort s port.val).spent vc.val 0 - (count - Tab.getD (getPort s port.val).creditSeen vc.val 0).toNat ∧
      (∀ k, k ≠ port.val → getPort t k = getPort s k) ∧ t = { s with net := { s.net with ports := t.net.ports } }) ∧
    ((queueOf s port.val vc.val)[index]? = some l → ∃ t, exec (.cellError port vc index) s = .next t ∧ queueOf t port.val vc.val = (queueOf s port.val vc.val).eraseIdx index ∧
      (getPort t port.val).bufLost = min ((getPort s port.val).bufLost + 1) 0xFF ∧ (getErr t (.fd 0)).ue = min ((getErr s (.fd 0)).ue + 1) 0xFF)) ∧
  (∀ (s : State) (value : Word) (slot : Fin 64) (index : Fin 720) (port : Fin 90),
    let f := fun lo n => (value.extractLsb' lo n).toNat
    (0x10 ≤ f 0 16 → ∃ t, exec (.waleWaitWrite value) s = .next t ∧ t.net.route = { s.net.route with waleWait := f 0 16 } ∧
      (∀ p v, stagingOf s p v ≠ [] → waitOf t p v = waitOf s p v) ∧ (∀ p v, Tab.find (getPort s p).staging v = none → Tab.find (getPort s p).heldWait v = none → waitOf t p v = f 0 16) ∧
      (∀ p, getPort t p = { getPort s p with heldWait := (getPort t p).heldWait }) ∧ t = { s with net := { s.net with ports := t.net.ports, route := t.net.route } }) ∧
    (f 0 16 < 0x10 → exec (.waleWaitWrite value) s = .next s) ∧
    (f 8 12 ≤ f 20 12 → (value.getLsbD 7 = true → f 8 12 ≠ 0 ∧ f 32 16 ≠ 0) → ∃ t m, exec (.swMeterWrite slot value) s = .next t ∧ Tab.find t.net.meters slot.val = some m ∧
      m.pbs = f 48 16 ∧ m.cbs = f 32 16 ∧ m.pir = f 20 12 ∧ m.cir = f 8 12 ∧ m.en = value.getLsbD 7 ∧ m.grade = f 0 3 ∧
      (∀ k, k ≠ slot.val → Tab.find t.net.meters k = Tab.find s.net.meters k) ∧ t = { s with net := { s.net with meters := t.net.meters } }) ∧
    (f 20 12 < f 8 12 ∨ value.getLsbD 7 = true ∧ (f 8 12 = 0 ∨ f 32 16 = 0) → exec (.swMeterWrite slot value) s = .next s) ∧
    (f 60 4 ≠ 0 → f 44 8 ≤ f 52 8 → f 24 8 ≤ f 32 8 → f 4 8 ≤ f 12 8 → ∃ t, exec (.swDropProfileWrite index value) s = .next t ∧
      Tab.find (getPort t (index.val / 8)).profiles (index.val % 8) = some { wexp := f 60 4, rMax := f 52 8, rMin := f 44 8, rMaxp := f 40 4, yMax := f 32 8, yMin := f 24 8, yMaxp := f 20 4, gMax := f 12 8, gMin := f 4 8, gMaxp := f 0 4 } ∧
      (∀ k, k ≠ index.val / 8 → getPort t k = getPort s k) ∧ t = { s with net := { s.net with ports := t.net.ports } }) ∧
    (f 60 4 = 0 ∨ f 52 8 < f 44 8 ∨ f 32 8 < f 24 8 ∨ f 12 8 < f 4 8 → exec (.swDropProfileWrite index value) s = .next s) ∧
    (f 12 4 ≠ 0 → f 8 4 ≠ 0 → f 4 4 ≠ 0 → f 0 4 ≠ 0 → ∃ t, exec (.swPortCtrlWrite port value) s = .next t ∧
      getPort t port.val = { getPort s port.val with crowdKb := some (f 32 8), w3 := f 12 4, w2 := f 8 4, w1 := f 4 4, w0 := f 0 4, heldW := (getPort t port.val).heldW } ∧
      (∀ k < 4, classWeight (getPort t port.val) ((getPort s port.val).turn / 4 * 4 + k) = classWeight (getPort s port.val) ((getPort s port.val).turn / 4 * 4 + k)) ∧ (∀ m, m / 4 ≠ (getPort s port.val).turn / 4 → classWeight (getPort t port.val) m = [f 0 4, f 4 4, f 8 4, f 12 4].getD (m % 4) 1) ∧ (∀ k, k ≠ port.val → getPort t k = getPort s k) ∧ t = { s with net := { s.net with ports := t.net.ports } }) ∧
    (f 12 4 = 0 ∨ f 8 4 = 0 ∨ f 4 4 = 0 ∨ f 0 4 = 0 → exec (.swPortCtrlWrite port value) s = .next s))

/-- R182, R290, R294 to R298: a lost group is probed around, a probe is answered or relayed, its silence or its answer makes a notice, a notice is forwarded once and acted on, and an old bank retires after 200 us. -/
def Obligations.LossNotices : Prop :=
  (∀ (s : State) (oe : Fin 16), (getOe s oe.val).st = .up → oePortsUp s oe.val = [] → ∃ t, exec (.groupDown oe) s = .next t ∧
    (relayPaths s oe.val ≠ [] → (getOe t oe.val).st = .down ∧ (getOe t oe.val).probeSent = some s.tb.time ∧ (getOe t oe.val).losses = min ((getOe s oe.val).losses + 1) 0xFF ∧ t.net.route.lost = s.net.route.lost) ∧
    (relayPaths s oe.val = [] → s.net.route.lost.length < 64 → oePeer s oe.val ∈ t.net.route.lost ∧ t.net.route.noticesMade = min (s.net.route.noticesMade + 1) 0xFF)) ∧
  (∀ (s : State) (port : Fin 64) (detector target : BitVec 20) (relays : List (BitVec 20)) (n : Coord) (d : Dim) (p : Nat),
    (isHere s target = true → exec (.probe port detector target relays) s = .next { s with out := s.out ++ sends s [.neighbour port.val 0xE1 (replyBytes target detector)] }) ∧
    (isHere s target = false → n = nodeCoord (relays.head?.getD target) → diffDims (hereC s) n = [d] → (oePortsUp s (oeTowards s d (coordGet n d))).head? = some p →
      exec (.probe port detector target relays) s = .next { s with out := s.out ++ sends s [.neighbour p 0xE0 (probeBytes detector target relays.tail)] }) ∧
    (isHere s detector = false → replyHop s target detector = some n → diffDims (hereC s) n = [d] → (oePortsUp s (oeTowards s d (coordGet n d))).head? = some p →
      exec (.probeReply port target detector) s = .next { s with out := s.out ++ sends s [.neighbour p 0xE1 (replyBytes target detector)] }) ∧
    (∀ sent, isHere s detector = true → diffDims (hereC s) (nodeCoord target) = [d] →
      (getOe s (oeTowards s d (coordGet (nodeCoord target) d))).probeSent = some sent → s.tb.time < sent + 60000 →
      ∃ t, exec (.probeReply port target detector) s = .next t ∧ t.net.route.noticesMade = min (s.net.route.noticesMade + 1) 0xFF ∧ t.net.route.lost = s.net.route.lost ∧
        (outsideExtent s = false → ∀ q ∈ floodPorts s none, .neighbour q 0xE3 (linkLostBytes (hereC s) (oePeer s (oeTowards s d (coordGet (nodeCoord target) d))) s.tb.time) ∈ t.out))) ∧
  (∀ (s : State) (oe : Fin 16) (sent : Nat), (getOe s oe.val).probeSent = some sent →
    (s.tb.time < sent + 60000 → exec (.probeTimeout oe) s = .next s) ∧
    (sent + 60000 ≤ s.tb.time → s.net.route.lost.length < 64 → ∃ t, exec (.probeTimeout oe) s = .next t ∧ oePeer s oe.val ∈ t.net.route.lost ∧ t.net.route.noticesMade = min (s.net.route.noticesMade + 1) 0xFF ∧
      (outsideExtent s = false → ∀ q ∈ floodPorts s none, .neighbour q 0xE2 (nodeLostBytes (oePeer s oe.val) s.tb.time) ∈ t.out))) ∧
  (∀ (s : State) (port : Fin 64) (a b : Coord) (time : Nat) (epoch : BitVec 2),
    (seenNotice s 0xE2 [entryIx a] = true → exec (.nodeLost port a time) s = .next s) ∧
    (seenNotice s 0xE2 [entryIx a] = false → s.net.route.lost.length < 64 → ∃ t, exec (.nodeLost port a time) s = .next t ∧ a ∈ t.net.route.lost ∧
      (outsideExtent s = false → ∀ q ∈ floodPorts s (some (port.val / 4)), .neighbour q 0xE2 (nodeLostBytes a time) ∈ t.out) ∧ (∀ d < 4, ∀ o ∈ (getEp t d).outst, nodeCoord o.dst ≠ a)) ∧
    (seenNotice s 0xE3 [entryIx a, entryIx b] = true → exec (.linkLost port a b time) s = .next s) ∧
    (seenNotice s 0xE3 [entryIx a, entryIx b] = false → ∃ t, exec (.linkLost port a b time) s = .next t ∧ t.net.route.lost = s.net.route.lost ∧
      (outsideExtent s = false → ∀ q ∈ floodPorts s (some (port.val / 4)), .neighbour q 0xE3 (linkLostBytes a b time) ∈ t.out) ∧ (∀ d < 4, ∀ o ∈ (getEp t d).outst, pathOver s a b o.dst = false)) ∧
    (seenNotice s 0xE4 [entryIx a] = true → exec (.nodeBack port a epoch) s = .next s) ∧
    (seenNotice s 0xE4 [entryIx a] = false → ∃ t, exec (.nodeBack port a epoch) s = .next t ∧ t.net.route.lost = s.net.route.lost.filter (fun c => c ≠ a) ∧
      t.out = s.out ++ sends s ((floodPorts s (some (port.val / 4))).map (fun q => .neighbour q 0xE4 (nodeBackBytes a epoch))) ∧
      t = { s with net := { s.net with route := t.net.route }, fleet := t.fleet, out := t.out, freeCtr := t.freeCtr })) ∧
  (∀ s : State,
    (s.net.route.oldLive = true → s.net.route.lastOld + 800000 ≤ s.tb.time → ∃ t, exec .oldBankRetire s = .next t ∧
      t.net.route.oldLive = false ∧ t.net.route.cur = s.net.route.cur ∧ t.net.route.old = s.net.route.old ∧
      (∀ (p : Fin 64) (b : Bank), s.net.route.cur = some b → inExtent b (oePeer s (p.val / 4)) = false → (getLink s p.val).st = .active → (getLink s p.val).dropping = false → outCells s p.val = 0 → (getLink t p.val).st = .off) ∧
      t = { s with net := t.net, out := t.out }) ∧
    (s.tb.time < s.net.route.lastOld + 800000 → exec .oldBankRetire s = .next s))

/-- R331, R333, R336, R337, R341 to R344: what a port scrambles, spreads over its lanes and sends as levels its receiver undoes; a segment is accepted, refused with NAK or counted a tag failure; ACK frees and NAK resends what the replay buffer holds; the eighth NAK, a NAK of what is not held and a loss take the port out of service. -/
def Obligations.LinkRetry : Prop :=
  ((∀ (st : BitVec 58) (bits : List Bool), descramblePayload st (scramblePayload st bits).1 = (bits, (scramblePayload st bits).2)) ∧
    (∀ v, v < 1024 → levelsSymbol (symbolLevels v) = v) ∧
    (∀ words : List (List Nat), words.length = 4 → (∀ w ∈ words, w.length = 170) → gather4 (spread words) = words)) ∧
  (∀ (s : State) (port : Fin 65) (sseq : Nat) (kph : Bool) (v : SegVerdict) (items : List SegItem),
    let p := port.val
    let l := getLink s p
    let link := fun (t : State) => t = { s with net := { s.net with links := t.net.links, portCtrs := t.net.portCtrs }, out := t.out } ∧ (∀ k, k ≠ p → getLink t k = getLink s k)
    (l.st ≠ .active → exec (.segmentReceive port sseq kph v items) s = .next s) ∧
    (l.st = .active → l.waiting.isSome = true → ∃ t, exec (.segmentReceive port sseq kph v items) s = .next t ∧ link t ∧ t.out = s.out ∧ (getLink t p).rxSseq = l.rxSseq ∧ (getLink t p).waiting = l.waiting ∧
      (getLink t p).cwCorr = min (l.cwCorr + v.corrected) 0xFFFF ∧ (v.codewordsOk = false → (getLink t p).cwUncorr = min (l.cwUncorr + 1) 0xFF)) ∧
    (l.st = .active → l.waiting = none → v.codewordsOk = true → v.blocksOk = true → v.closingOk sseq kph = true → v.tagOk = true → sseq = l.rxSseq → kph = l.rxKph →
      (items = [] ∨ p = 64 ∧ (∀ bs void, .host bs void ∉ items) → ∃ t, exec (.segmentReceive port sseq kph v items) s = .next t ∧ link t ∧ (getLink t p).rxSseq = sseq + 1 ∧ (getLink t p).rxKph = kph ∧ (getLink t p).naksSent = 0 ∧
        (l.unacked < 7 → t.out = s.out ∧ (getLink t p).unacked = l.unacked + 1) ∧
        (7 ≤ l.unacked → t.out = s.out ++ [.linkCtl p 0x66 ((sseq + 1) % 2 ^ 24)] ∧ (getLink t p).unacked = 0)) ∧
      (∀ vc pkt, items = [.packet vc pkt] → p < 64 → malformed vc.val pkt = false → stagingOf s p vc.val ≠ [] → ∃ t, exec (.segmentReceive port sseq kph v items) s = .next t ∧
        stagingOf t p vc.val = stagingOf s p vc.val ++ [{ p := pkt, vc := vc.val }] ∧ (getLink t p).rxSseq = sseq + 1) ∧
      (∀ vc pkt, items = [.packet vc pkt] → p < 64 → malformed vc.val pkt = true → ∃ t, exec (.segmentReceive port sseq kph v items) s = .next t ∧
        (∀ k w, stagingOf t k w = stagingOf s k w) ∧ (getLink t p).malformed = min (l.malformed + 1) 0xF ∧ Tab.getD (getPort t p).returned vc.val 0 = Tab.getD (getPort s p).returned vc.val 0 + BitVec.ofNat 16 (pktCells pkt)) ∧
      (∀ bs, p = 64 → items = [.host bs false] → ∃ t, exec (.segmentReceive port sseq kph v items) s = .next t ∧ (getLink t p).rxSseq = sseq + 1 ∧ (getLink t p).rxKph = kph ∧
        t.ctl.hl = { s.ctl.hl with cells := s.ctl.hl.cells + BitVec.ofNat 16 ((bs.length + 127) / 128), cellsSent := t.ctl.hl.cellsSent } ∧
        t = { s with net := { s.net with links := t.net.links, portCtrs := t.net.portCtrs }, ctl := { s.ctl with hl := t.ctl.hl }, out := t.out } ∧ (∀ k, k ≠ p → getLink t k = getLink s k)) ∧
      (∀ vc count, items = [.credit vc count] → p < 64 → ∃ t, exec (.segmentReceive port sseq kph v items) s = .next t ∧ Tab.getD (getPort t p).creditSeen vc.val 0 = count)) ∧
    (l.st = .active → l.waiting = none → v.codewordsOk = false ∨ (v.tagOk = true ∧ (v.blocksOk = false ∨ v.closingOk sseq kph = false ∨ kph = l.rxKph ∧ sseq ≠ l.rxSseq)) → l.naksSent < 7 →
      ∃ t, exec (.segmentReceive port sseq kph v items) s = .next t ∧ link t ∧ (getLink t p).waiting = some l.rxSseq ∧ (getLink t p).naksSent = l.naksSent + 1 ∧ (getLink t p).rxSseq = l.rxSseq ∧
        (getLink t p).naks = min (l.naks + 1) 0xFF ∧ t.out = s.out ++ [.linkCtl p 0x78 (l.rxSseq % 2 ^ 24)]) ∧
    (l.st = .active → l.waiting = none → v.codewordsOk = true → v.tagOk = false → ∃ t, exec (.segmentReceive port sseq kph v items) s = .next t ∧ (getLink t p).tagFails = min (l.tagFails + 1) 0xF ∧
      (2 ≤ (l.tagTimes.filter (fun x => s.tb.time < x + 4000000)).length → (getLink t p).st = .light) ∧
      ((l.tagTimes.filter (fun x => s.tb.time < x + 4000000)).length < 2 → l.naksSent < 7 → (getLink t p).st = .active ∧ (getLink t p).waiting = some l.rxSseq ∧ Reported s t (srcPort p) 0x0D))) ∧
  (∀ (s : State) (port : Fin 65) (sseq : BitVec 24),
    let p := port.val
    let l := getLink s p
    let link := fun (t : State) => t = { s with net := { s.net with links := t.net.links, portCtrs := t.net.portCtrs }, out := t.out } ∧ (∀ k, k ≠ p → getLink t k = getLink s k)
    (l.st = .active → 0 < l.unacked → l.unackedSince + 400 ≤ s.tb.time → ∃ t, exec (.ackTimer port) s = .next t ∧ link t ∧ getLink t p = { l with unacked := 0 } ∧ t.out = s.out ++ [.linkCtl p 0x66 (l.rxSseq % 2 ^ 24)]) ∧
    (s.tb.time < l.unackedSince + 400 → exec (.ackTimer port) s = .next s) ∧
    (l.st = .active → l.waiting.isSome = true → l.lastNak + 4000 ≤ s.tb.time →
      (l.naksSent < 7 → ∃ t, exec (.nakResendTimer port) s = .next t ∧ link t ∧ (getLink t p).naksSent = l.naksSent + 1 ∧ (getLink t p).lastNak = s.tb.time ∧ t.out = s.out ++ [.linkCtl p 0x78 (l.rxSseq % 2 ^ 24)]) ∧
      (7 ≤ l.naksSent → ∃ t, exec (.nakResendTimer port) s = .next t ∧ (getLink t p).st = .light ∧ (getLink t p).losses = min (l.losses + 1) 0xFF ∧ (getLink t p).keyed = false)) ∧
    (s.tb.time < l.lastNak + 4000 → exec (.nakResendTimer port) s = .next s) ∧
    (∀ w, l.waiting = some w →
      (w % 2 ^ 24 = sseq.toNat → ∃ t, exec (.resume port sseq) s = .next t ∧ getLink t p = { l with waiting := none, resumeAt := some w } ∧ (∀ k, k ≠ p → getLink t k = getLink s k) ∧ t = { s with net := { s.net with links := t.net.links } }) ∧
      (w % 2 ^ 24 ≠ sseq.toNat → exec (.resume port sseq) s = .next s)) ∧
    (l.waiting = none → exec (.resume port sseq) s = .next s) ∧
    (l.st = .active → p < 64 → l.dropping = false → creditsDue (getPort s p) = [] → ∃ t, exec (.ack port sseq) s = .next t ∧ getLink t p = dropOldKeys { l with replay := ackDrop sseq.toNat l.replay } ∧
      (∀ k, k ≠ p → getLink t k = getLink s k) ∧ t = { s with net := { s.net with links := t.net.links } }) ∧
    (l.st = .active → p = 64 → s.ctl.hl.outbox = [] → s.ctl.hl.cells = s.ctl.hl.cellsSent → ∃ t, exec (.ack port sseq) s = .next t ∧ getLink t p = dropOldKeys { l with replay := ackDrop sseq.toNat l.replay } ∧
      (∀ c y g, y ∈ (getChan s c).tags → g ∈ l.replay.take (l.replay.length - (ackDrop sseq.toNat l.replay).length) → y.notice = some (g.kph, g.sseq) →
        { y with delivered := y.delivered ++ [0], notice := none } ∈ (getChan t c).tags) ∧
      (∀ k, k ≠ p → getLink t k = getLink s k) ∧ t = { s with net := { s.net with links := t.net.links }, ctl := { s.ctl with channels := t.ctl.channels } }) ∧
    (l.st = .active → (∀ r, l.resumed = some r → r.1 = sseq.toNat → r.2 + 4000 ≤ s.tb.time) →
      (∀ i, l.replay.findIdx? (fun g => g.sseq % 2 ^ 24 = sseq.toNat) = some i → ∃ t, exec (.nak port sseq) s = .next t ∧ link t ∧ getLink t p = { l with resumed := some (sseq.toNat, s.tb.time) } ∧
        t.out = s.out ++ .linkCtl p 0x87 sseq.toNat :: (l.replay.drop i).map (fun g => .segment p g)) ∧
      (l.replay.findIdx? (fun g => g.sseq % 2 ^ 24 = sseq.toNat) = none → ∃ t, exec (.nak port sseq) s = .next t ∧ (getLink t p).st = .light ∧ (getLink t p).losses = min (l.losses + 1) 0xFF)) ∧
    (∀ at_, l.resumed = some (sseq.toNat, at_) → s.tb.time < at_ + 4000 → exec (.nak port sseq) s = .next s) ∧
    (∀ cause, l.st = .active → ∃ t, exec (.portDown port cause) s = .next t ∧ (getLink t p).st = .light ∧ (getLink t p).losses = min (l.losses + 1) 0xFF ∧ (getLink t p).keyed = false ∧ (getLink t p).replay = [] ∧
      (sourceOf t (srcPort p)).count = min ((sourceOf s (srcPort p)).count + 1) (2 ^ 32 - 1)))

/-- R270, R271, R347 to R350, R352, R353, R356, R357, R360, R363: a port trains state by state, holds where its peer fails or is not the one expected, is keyed anew, loses its light with a feed; and a lane's register is written. -/
def Obligations.LinkTraining : Prop :=
  (∀ (s : State) (port : Fin 65) (clean : List (BitVec 25)) (level : BitVec 4),
    let p := port.val
    let l := getLink s p
    let link := fun (t : State) => t = { s with net := { s.net with links := t.net.links } } ∧ (∀ k, k ≠ p → getLink t k = getLink s k)
    let lanes := fun (t : State) => t = { s with net := { s.net with links := t.net.links, lanes := t.net.lanes } } ∧ (∀ k, k ≠ p → getLink t k = getLink s k) ∧ (∀ i, i / 8 ≠ p → getLane t i = getLane s i)
    (l.st = .off ∨ l.st = .light → portUsed s p = true → l.retryAt ≤ s.tb.time → ∃ t, exec (.portLight port) s = .next t ∧ link t ∧ getLink t p = { l with st := .lock, since := s.tb.time }) ∧
    (portUsed s p = false → exec (.portLight port) s = .next s) ∧
    (l.st = .lock → ∃ t, exec (.lockAcquired port) s = .next t ∧ lanes t ∧ getLink t p = { l with st := .eq } ∧ (∀ i < 8, getLane t (8 * p + i) = { getLane s (8 * p + i) with cdrLock := true })) ∧
    (l.st = .lock → l.since + 40000000 ≤ s.tb.time → ∃ t, exec (.lockTimeout port) s = .next t ∧ link t ∧ getLink t p = { l with st := .light, retryAt := l.since + 400000000 }) ∧
    (s.tb.time < l.since + 40000000 → exec (.lockTimeout port) s = .next s) ∧
    (l.st = .eq → ∃ t, exec (.eqComplete port clean) s = .next t ∧ getLink t p = { l with st := .deskew } ∧
      (∀ i < 8, (getLane s (8 * p + i)).auto = false → getLane t (8 * p + i) = getLane s (8 * p + i)) ∧
      (∀ i < 8, ∀ a n, (getLane s (8 * p + i)).auto = true → 0 < n → a + n ≤ 25 → (∀ k < 25, (clean.getD i 0).getLsbD k = (decide (a ≤ k) && decide (k < a + n))) →
        getLane t (8 * p + i) = { getLane s (8 * p + i) with peak := a + (n - 1) / 2 }) ∧
      t = { s with net := { s.net with links := t.net.links, lanes := t.net.lanes }, freeCtr := t.freeCtr }) ∧
    (l.st = .deskew →
      (0 < level.toNat → ∃ t, exec (.deskewComplete port level true) s = .next t ∧ ∃ m, t.out = s.out ++ [.keyx p 0xF0 m] ∧ m.random.length = 32 ∧ m.pub.length = 97 ∧ m.sig.length = 96 ∧ m.cred = s.ctl.trust.fc ∧
        getLink t p = { l with st := .keying, level := 1, ownRandom := m.random } ∧ (∀ k, k ≠ p → getLink t k = getLink s k) ∧
        t = { s with net := { s.net with links := t.net.links }, out := t.out, freeCtr := t.freeCtr }) ∧
      (level = 0 → ∃ t, exec (.deskewComplete port level true) s = .next t ∧ (getLink t p).st = .levelFailed ∧ (getLink t p).retryAt = s.tb.time + 40000000000) ∧
      (∃ t, exec (.deskewComplete port level false) s = .next t ∧ (getLink t p).st = .light)) ∧
    (l.st = .authFailed ∨ l.st = .levelFailed → l.retryAt ≤ s.tb.time → ∃ t, exec (.trainingRetry port) s = .next t ∧ link t ∧ getLink t p = { l with st := .light, since := s.tb.time }) ∧
    (s.tb.time < l.retryAt → exec (.trainingRetry port) s = .next s) ∧
    (l.st = .active → l.keyed = true → l.rekeying = false → 2 ^ 32 ≤ l.txSseq ∨ 2 ^ 32 ≤ l.rxSseq ∨ l.keyedAt + 345600000000000 ≤ s.tb.time → ∃ t m, exec (.rekeyStart port) s = .next t ∧
      t.out = s.out ++ [.keyx p 0xF1 m] ∧ m.random.length = 32 ∧ m.pub.length = 97 ∧ m.sig.length = 96 ∧ m.cred = s.ctl.trust.fc ∧
      getLink t p = { l with rekeying := true, ownRandom := m.random } ∧ t = { s with net := { s.net with links := t.net.links }, out := t.out, freeCtr := t.freeCtr }) ∧
    (l.txSseq < 2 ^ 32 → l.rxSseq < 2 ^ 32 → s.tb.time < l.keyedAt + 345600000000000 → exec (.rekeyStart port) s = .next s)) ∧
  (∀ (s : State) (port : Fin 65) (chainOk sigOk : Bool) (op : Word) (nb : Nat),
    let p := port.val
    let l := getLink s p
    let good := p = 64 ∨ chainOk = true ∧ sigOk = true ∧ op = keyDigest s.ctl.trust.opKey ∧ ∀ now, timeOfDay s = some now → nb ≤ now + 60
    (l.st = .keying →
      (good → p < 64 → ∃ t, exec (.lkKeyx port chainOk sigOk op nb) s = .next t ∧ (getLink t p).st = .ident ∧ (getLink t p).keyed = true ∧ (getLink t p).keyedAt = s.tb.time ∧ (getLink t p).txSseq = 0 ∧ (getLink t p).rxSseq = 0 ∧ (getLink t p).kph = false ∧
        (∃ secret peer, secret.length = 48 ∧ peer.length = 32 ∧ (getLink t p).keys = deriveKeys secret l.ownRandom peer (keyInfo s p) (decide ((fdNode s).toNat < (coordNode (oePeer s (p / 4)) 4).toNat))) ∧
        t.out = s.out ++ [.ident p (hereC s) (p / 4) (p % 4)] ∧ (∀ k, k ≠ p → getLink t k = getLink s k) ∧ t = { s with net := { s.net with links := t.net.links }, out := t.out, freeCtr := t.freeCtr }) ∧
      (p = 64 → ∃ t, exec (.lkKeyx port chainOk sigOk op nb) s = .next t ∧ (getLink t p).st = .active ∧ (getLink t p).keyed = true ∧
        (∃ secret peer, secret.length = 48 ∧ peer.length = 32 ∧ (getLink t p).keys = deriveKeys secret l.ownRandom peer (keyInfo s p) false)) ∧
      (¬ good → ∃ t, exec (.lkKeyx port chainOk sigOk op nb) s = .next t ∧ (getLink t p).st = .authFailed ∧ (getLink t p).keyed = false ∧ (getLink t p).retryAt = s.tb.time + 40000000000 ∧ Reported s t (srcPort p) 0x0D)) ∧
    (l.st ≠ .keying → exec (.lkKeyx port chainOk sigOk op nb) s = .next s) ∧
    (l.st = .active →
      (good → ∃ t, exec (.lkRekey port chainOk sigOk op nb) s = .next t ∧ (getLink t p).kph = !l.kph ∧ (getLink t p).txSseq = 0 ∧ (getLink t p).newKeys = true ∧ (getLink t p).rekeying = false ∧ (getLink t p).replay = l.replay ∧
        (getLink t p).rxSseq = l.rxSseq ∧ (getLink t p).keyedAt = s.tb.time ∧ (l.rekeying = true → t.out = s.out) ∧ (l.rekeying = false → ∃ m, t.out = s.out ++ [.keyx p 0xF1 m] ∧ m.random = (getLink t p).ownRandom) ∧ (getLink t p).oldKeys = some l.keys ∧
        (∀ k, k ≠ p → getLink t k = getLink s k) ∧ t = { s with net := { s.net with links := t.net.links }, out := t.out, freeCtr := t.freeCtr }) ∧
      (¬ good → ∃ t, exec (.lkRekey port chainOk sigOk op nb) s = .next t ∧ (getLink t p).st = .authFailed ∧ (getLink t p).keyed = false))) ∧
  (∀ (s : State) (port : Fin 64) (peer : Coord) (oe : Fin 16) (index : Fin 4),
    (getLink s port.val).st = .ident →
    (peer = oePeer s (port.val / 4) → oe.val = engineOfHere s (port.val / 4) → index.val = port.val % 4 → ∃ t, exec (.identCheck port peer oe index) s = .next t ∧
      getLink t port.val = { getLink s port.val with st := .active, peerPort := index.val } ∧ (∀ k, k ≠ port.val → getLink t k = getLink s k) ∧ (getOe t (port.val / 4)).st = .up ∧
      (∀ v, Tab.getD (getPort t port.val).spent v 0 = 0)) ∧
    (peer ≠ oePeer s (port.val / 4) ∨ oe.val ≠ engineOfHere s (port.val / 4) ∨ index.val ≠ port.val % 4 → ∃ t, exec (.identCheck port peer oe index) s = .next t ∧
      getLink t port.val = { getLink s port.val with st := .miswired, peerPort := index.val } ∧ (∀ k, k ≠ port.val → getLink t k = getLink s k) ∧ t = { s with net := { s.net with links := t.net.links, route := t.net.route } } ∧
      ((∀ i < 4, 4 * (port.val / 4) + i ≠ port.val → (getLink s (4 * (port.val / 4) + i)).st = .miswired) → (getOe t (port.val / 4)).st = .miswired))) ∧
  (∀ (s : State) (oe : Fin 16) (a b : Int),
    (56 ≤ a → 56 ≤ b → (getOptic s oe.val).mode = 0 → ∃ t, exec (.feedMeasure oe a b) s = .next t ∧
      getOptic t oe.val = { getOptic s oe.val with feedA := feedField a, feedB := feedField b, lowA := 0, lowB := 0, mode := 0, lit := 15 } ∧
      (∀ k, k ≠ oe.val → getOptic t k = getOptic s k) ∧ t = { s with net := { s.net with optics := t.net.optics } }) ∧
    (a < 56 → 56 ≤ b → (getOptic s oe.val).mode = 0 → (getOptic s oe.val).lowA = 0 → ∃ t, exec (.feedMeasure oe a b) s = .next t ∧ (getOptic t oe.val).mode = 0 ∧ (getOptic t oe.val).lowA = 1 ∧
      t = { s with net := { s.net with optics := t.net.optics } }) ∧
    (a < 56 → 56 ≤ b → (getOptic s oe.val).mode = 0 → 1 ≤ (getOptic s oe.val).lowA → ∃ t, exec (.feedMeasure oe a b) s = .next t ∧ (getOptic t oe.val).mode = 2 ∧ (getOptic t oe.val).lit = 15 ∧
      (getOptic t oe.val).switchovers = min ((getOptic s oe.val).switchovers + 1) 0xFF ∧
      (∀ i < 2, (getLink s (4 * oe.val + i)).st = .active → (getLink t (4 * oe.val + i)).st = .light) ∧
      (∀ i, 2 ≤ i → i < 4 → (getLink t (4 * oe.val + i)).st = (getLink s (4 * oe.val + i)).st) ∧
      (sourceOf t (srcKind 8 oe.val)).count = min ((sourceOf s (srcKind 8 oe.val)).count + 1) (2 ^ 32 - 1)) ∧
    (a < 56 → b < 56 → 1 ≤ (getOptic s oe.val).lowA → 1 ≤ (getOptic s oe.val).lowB → ∃ t, exec (.feedMeasure oe a b) s = .next t ∧ (getOptic t oe.val).mode = 3 ∧ (getOptic t oe.val).lit = 0 ∧
      ((getOptic s oe.val).mode < 3 → ∀ i < 4, (getLink s (4 * oe.val + i)).st = .active → (getLink t (4 * oe.val + i)).st = .light))) ∧
  (∀ (s : State) (index : Fin 512) (value : Word),
    ((value.extractLsb' 0 5).toNat ≤ 24 → ∃ t, exec (.lkLaneWrite index value) s = .next t ∧ getLane t index.val = { getLane s index.val with auto := value.getLsbD 8, peak := (value.extractLsb' 0 5).toNat } ∧
      (∀ k, k ≠ index.val → getLane t k = getLane s k) ∧ t = { s with net := { s.net with lanes := t.net.lanes } }) ∧
    (24 < (value.extractLsb' 0 5).toNat → exec (.lkLaneWrite index value) s = .next s))

/-- R368, R370, R372, R374 to R379, R381: a packet that fails a check is answered with REJECTED set and does nothing else; an accepted command holds a tag, is counted, and ends with a status whose first part goes at once. -/
def Obligations.HostAcceptance : Prop :=
  (∀ (s : State) (h : Hdr), let o : OpInfo := { code := 0x0000, chan := .any, recovery := true }
    ((getLink s 64).st ≠ .active → exec (.nop h) s = .next s) ∧
    (Granted s h o → Ends s (.nop h) (accept s h o) h 0 []) ∧
    (∀ st, (getLink s 64).st = .active → rejects s h o = some st → ∃ t, exec (.nop h) s = .next t ∧ t.ctl.hl.rejected = min (s.ctl.hl.rejected + 1) 0xFF ∧ t.ctl.hl.accepted = s.ctl.hl.accepted ∧
      (∀ c, (getChan t c).tags.map (fun y => { y with notice := none }) = (getChan s c).tags.map (fun y => { y with notice := none })) ∧ (st = 0x0015 → (getChan t h.channel.toNat).busy = min ((getChan s h.channel.toNat).busy + 1) 0xFF) ∧
      StatusSent s t (.status h.channel.toNat 0 h.tag h.slice 1 st (hlFlags false false true (chanSession s h.channel.toNat)) 0 [] s.tb.time) ∧
      t = { s with ctl := { s.ctl with hl := t.ctl.hl, channels := t.ctl.channels, slices := t.ctl.slices }, net := { s.net with links := t.net.links, portCtrs := t.net.portCtrs }, fleet := t.fleet, out := t.out, freeCtr := t.freeCtr })) ∧
  (∀ (s : State) (h : Hdr) (o : OpInfo),
    (h.version ≠ 1 → rejects s h o = some 0x00FF) ∧
    (h.version = 1 → 64 < h.channel.toNat → rejects s h o = some 0x0010) ∧
    (h.version = 1 → o.chan = .adminSigned → h.isSigned = false ∨ h.channel ≠ 64 → rejects s h o = some 0x0010) ∧
    (h.version = 1 → h.channel ≠ 64 → (getChan s h.channel.toNat).slice = 0xFFFF ∨ h.slice ≠ (getChan s h.channel.toNat).slice → rejects s h o = some 0x0010) ∧
    (h.version = 1 → h.channel = 64 → o.chan = .adminSigned → h.isSigned = true → h.isSealed = false → h.sigOk = false ∨ h.target ≠ s.ctl.trust.identity ∨ h.ocount.toNat ≤ s.ctl.trust.ocount → rejects s h o = some 0x0012) ∧
    (∀ x, h.version = 1 → h.channel = 64 → o.chan = .any → h.isSigned = false → h.isSealed = false → x ∈ (getChan s 64).tags → x.tag = h.tag → rejects s h o = some 0x0011) ∧
    (h.version = 1 → h.channel = 64 → o.chan = .any → h.isSigned = false → h.isSealed = false → (∀ x ∈ (getChan s 64).tags, x.tag ≠ h.tag) → 256 ≤ (getChan s 64).tags.length → rejects s h o = some 0x0015)) ∧
  (∀ (s : State) (h : Hdr) (o : OpInfo),
    (accept s h o).ctl.hl.accepted = min (s.ctl.hl.accepted + 1) 0xFFFF ∧
    (getChan (accept s h o) h.channel.toNat).tags = (getChan s h.channel.toNat).tags ++ [{ tag := h.tag, opcode := o.code, slice := h.slice, version := h.version, reserve := o.reserve, rel := h.rel, isSealed := h.isSealed }] ∧
    (h.isSigned = true → (accept s h o).ctl.trust.ocount = h.ocount.toNat) ∧ (h.isSigned = false → (accept s h o).ctl.trust = s.ctl.trust) ∧
    (∀ z, getSlice s h.channel.toNat = some z → ∃ y, getSlice (accept s h o) h.channel.toNat = some y ∧ y.usage.hostBytes = z.usage.hostBytes + h.length ∧
      (∀ x, h.isSealed = true → z.session = some x → y.session = some { x with scountIn := h.scount.toNat })) ∧
    accept s h o = { s with ctl := { s.ctl with hl := (accept s h o).ctl.hl, channels := (accept s h o).ctl.channels, trust := (accept s h o).ctl.trust, slices := (accept s h o).ctl.slices } }) ∧
  (∀ (s : State) (c : Nat) (tag st : BitVec 16) (bytes : List Byte) (x : Tag), (getChan s c).tags.find? (fun x => x.tag = tag) = some x →
    let flags := hlFlags (decide (4032 < bytes.length)) false false (chanSession s c)
    ((getLink s 64).st ≠ .active → (finishTag s c tag st bytes).out = s.out) ∧
    ((getLink s 64).st = .active → StatusSent s (finishTag s c tag st bytes) (.status c x.opcode tag x.slice x.version st flags bytes.length (bytes.take 4032) s.tb.time)) ∧
    ((getLink s 64).st = .active → s.ctl.hl.outbox = [] → (getLink s 64).replay = [] → ∃ g, (getLink (finishTag s c tag st bytes) 64).replay.getLast? = some g ∧
      g.items = [.host (statusPacket s c x.opcode tag x.slice x.version st flags bytes.length (bytes.take 4032)) false] ∧
      (x.rel = false ∨ 4032 < bytes.length → ∃ y, findTag (finishTag s c tag st bytes) c tag = some y ∧ y.notice = some (g.kph, g.sseq))) ∧
    (x.rel = true → bytes.length ≤ 4032 → ∀ y ∈ (getChan (finishTag s c tag st bytes) c).tags, y.tag ≠ tag) ∧
    (x.rel = false ∨ 4032 < bytes.length → ∃ y, findTag (finishTag s c tag st bytes) c tag = some y ∧ y = { x with status := some st, reply := bytes, notice := y.notice }) ∧
    (∀ z, (getLink s 64).st = .active → getSlice s c = some z → ∃ y, getSlice (finishTag s c tag st bytes) c = some y ∧ y.usage.hostBytes = z.usage.hostBytes + (bytes.take 4032).length + (if z.session.isSome then 24 else 0) ∧
      (∀ q, z.session = some q → y.session = some { q with scountOut := q.scountOut + 1 })) ∧
    finishTag s c tag st bytes = { s with
      ctl := { s.ctl with hl := (finishTag s c tag st bytes).ctl.hl, channels := (finishTag s c tag st bytes).ctl.channels, slices := (finishTag s c tag st bytes).ctl.slices }
      net := { s.net with links := (finishTag s c tag st bytes).net.links, portCtrs := (finishTag s c tag st bytes).net.portCtrs }
      out := (finishTag s c tag st bytes).out }) ∧
  (∀ (s : State) (r : RawHdr), (getLink s 64).st = .active →
    (r.kind ≠ 1 ∨ r.reserved = true ∨ 4096 < r.lengthField ∨ r.lengthField ≠ r.lengthSent ∨ r.vc ≠ 0 → exec (.commandRejected r) s = .next (reject s r.h r.opcode 0x0013)) ∧
    (r.kind = 1 → r.reserved = false → r.lengthField ≤ 4096 → r.lengthField = r.lengthSent → r.vc = 0 → r.h.version ≠ 1 ∨ r.opcode.toNat ∉ assignedOpcodes → exec (.commandRejected r) s = .next (reject s r.h r.opcode 0x00FF)) ∧
    (∀ st, ∃ t, t = reject s r.h r.opcode st ∧ t.ctl.hl.rejected = min (s.ctl.hl.rejected + 1) 0xFF ∧
      StatusSent s t (.status r.h.channel.toNat r.opcode r.h.tag r.h.slice 1 st (hlFlags false false true (chanSession s r.h.channel.toNat)) 0 [] s.tb.time)))

/-- R7 to R9, R260, R273, R380 to R382, R389, R392, R470: the general commands: IDENTIFY, registers, results, ABORT, TIME_SET, COORD_SET and LINK_RETRAIN; in recovery and in the steward's reset they are refused. -/
def Obligations.HostGeneral : Prop :=
  (∀ (s : State) (h : Hdr), let o : OpInfo := { code := 0x0001, chan := .any, reserve := 32, recovery := true }
    Granted s h o → Ends s (.identify h) (accept s h o) h 0 (identifyBytes (accept s h o) h.channel.toNat)) ∧
  (∀ (s : State) (h : Hdr) (sel : Word) (n : Nat), let o : OpInfo := { code := 0x0002, chan := .admin, reserve := 8 * min n 64, recovery := true }
    Granted s h o →
    (n = 0 ∨ 64 < n ∨ selOk sel n = false → Ends s (.regRead h sel n) (accept s h o) h 0x0013 []) ∧
    (1 ≤ n → n ≤ 64 → selOk sel n = true → selDown s sel n = true → Ends s (.regRead h sel n) (accept s h o) h 0x0011 []) ∧
    (1 ≤ n → n ≤ 64 → selOk sel n = true → selDown s sel n = false → ∃ t, Ends s (.regRead h sel n) t h 0 ((List.range n).flatMap (fun k => leBytes 8 (regRead t (selBlock sel) (selNumber sel) (selIndex sel + k)).toNat)) ∧
      t = { accept s h o with net := { s.net with lanes := t.net.lanes }, tb := { s.tb with time := t.tb.time }, freeCtr := t.freeCtr } ∧
      (t.tb.time = s.tb.time ∨ s.tb.time < t.tb.time ∧ t.tb.time < cycleEnd s) ∧ (selBlock sel ≠ 8 ∨ selNumber sel ≠ 0 → t.tb.time = s.tb.time) ∧ (∀ i, (getLane t i).peak = (getLane s i).peak ∧ (getLane t i).auto = (getLane s i).auto ∧ (getLane t i).cdrLock = (getLane s i).cdrLock))) ∧
  (∀ (s : State) (h : Hdr) (sel value : Word), let o : OpInfo := { code := 0x0003, chan := .admin }
    Granted s h o →
    (selOk sel 1 = false → Ends s (.regWrite h sel value) (accept s h o) h 0x0013 []) ∧
    (selOk sel 1 = true → selDown s sel 1 = true → Ends s (.regWrite h sel value) (accept s h o) h 0x0011 []) ∧
    (selOk sel 1 = true → selDown s sel 1 = false →
      (regWrite (accept s h o) (selBlock sel) (selNumber sel) (selIndex sel) value = none → Ends s (.regWrite h sel value) (accept s h o) h 0x0013 []) ∧
      (∀ t, regWrite (accept s h o) (selBlock sel) (selNumber sel) (selIndex sel) value = some t → Ends s (.regWrite h sel value) t h 0 []))) ∧
  (∀ (s : State) (h : Hdr) (tag : BitVec 16) (part : Nat) (x : Tag), let o : OpInfo := { code := 0x0004, chan := .any, reserve := 4040, recovery := true }
    Granted s h o → tag ≠ h.tag →
    (findTag s h.channel.toNat tag = none → Ends s (.resultRead h tag part) (accept s h o) h 0x0011 []) ∧
    (findTag s h.channel.toNat tag = some x → x.status = none → Ends s (.resultRead h tag part) (accept s h o) h 0x0001 (leBytes 2 tag.toNat ++ leBytes 2 x.opcode.toNat ++ leBytes 2 0x0001 ++ leBytes 1 part ++ leBytes 1 0)) ∧
    (∀ st, findTag s h.channel.toNat tag = some x → x.status = some st → 0 < part → x.reply.length ≤ 4032 * part → Ends s (.resultRead h tag part) (accept s h o) h 0x0013 []) ∧
    (∀ st, findTag s h.channel.toNat tag = some x → x.status = some st → part = 0 ∨ 4032 * part < x.reply.length → ∃ t, Ends s (.resultRead h tag part) t h 0
        (leBytes 2 tag.toNat ++ leBytes 2 x.opcode.toNat ++ leBytes 2 st.toNat ++ leBytes 1 part ++ leBytes 1 ((if part ∈ x.delivered then 1 else 0) + (if 4032 * (part + 1) < x.reply.length then 2 else 0)) ++ (x.reply.drop (4032 * part)).take 4032) ∧
      findTag t h.channel.toNat tag = some { x with delivered := x.delivered ++ [part] } ∧ t = { accept s h o with ctl := { (accept s h o).ctl with channels := t.ctl.channels } })) ∧
  (∀ (s : State) (h : Hdr) (tag : BitVec 16), let o : OpInfo := { code := 0x0005, chan := .any, recovery := true }
    Granted s h o → tag ≠ h.tag →
    (findTag s h.channel.toNat tag = none ∨ (∃ x, findTag s h.channel.toNat tag = some x ∧ x.status = none) → Ends s (.resultRelease h tag) (accept s h o) h 0x0011 []) ∧
    (∀ x st, findTag s h.channel.toNat tag = some x → x.status = some st → ∃ t, Ends s (.resultRelease h tag) t h 0 [] ∧
      (getChan t h.channel.toNat).tags = (getChan (accept s h o) h.channel.toNat).tags.filter (fun y => y.tag ≠ tag) ∧ t = { accept s h o with ctl := { (accept s h o).ctl with channels := t.ctl.channels } })) ∧
  (∀ (s : State) (h : Hdr) (tag : BitVec 16) (x : Tag), let o : OpInfo := { code := 0x0006, chan := .any, recovery := true }
    Granted s h o → tag ≠ h.tag →
    (findTag s h.channel.toNat tag = none → Ends s (.abortCommand h tag) (accept s h o) h 0x0011 []) ∧
    (∀ st, findTag s h.channel.toNat tag = some x → x.status = some st → Ends s (.abortCommand h tag) (accept s h o) h 0x0002 []) ∧
    (findTag s h.channel.toNat tag = some x → x.status = none → ∃ t, Ends s (.abortCommand h tag) t h 0 [] ∧
      StatusSent s t (.status h.channel.toNat x.opcode tag x.slice x.version 0x0003 (hlFlags false false false (chanSession s h.channel.toNat)) 0 [] s.tb.time) ∧
      (∀ y ∈ t.ctl.txns, y.channel = h.channel.toNat → ∀ p, y.commit = some p → p.2 ≠ tag) ∧ (∀ e ∈ t.ctl.trust.batch, e.channel = h.channel.toNat → e.tag ≠ tag) ∧
      (∀ w ∈ s.ctl.memWaits, w.channel ≠ h.channel.toNat ∨ w.tag ≠ tag → w ∈ t.ctl.memWaits) ∧
      (∀ w ∈ t.ctl.memWaits, w.channel = h.channel.toNat → w.tag = tag → w.aborted = true ∧ ((∃ v ∈ s.ctl.memWaits, w = { v with aborted := true } ∧ ∃ x d, v.op = .write x d) ∨ w ∈ s.ctl.memWaits)) ∧
      t = { s with ctl := { s.ctl with hl := t.ctl.hl, channels := t.ctl.channels, memWaits := t.ctl.memWaits, slices := t.ctl.slices, txns := t.ctl.txns, trust := t.ctl.trust }, net := { s.net with links := t.net.links, portCtrs := t.net.portCtrs }, out := t.out })) ∧
  (∀ (s : State) (h : Hdr) (seconds : Word), let o : OpInfo := { code := 0x0007, chan := .adminSigned }
    (Granted s h o → s.net.route.joined = true → Ends s (.timeSet h seconds) (accept s h o) h 0x0011 []) ∧
    (Granted s h o → s.net.route.joined = false → Ends s (.timeSet h seconds) { accept s h o with tb := { s.tb with tod := some seconds.toNat } } h 0 []) ∧
    ((getLink s 64).st = .active → rejects s h o = none → s.ctl.trust.recovery = true → Ends s (.timeSet h seconds) (accept s h o) h 0x0010 []) ∧
    ((getLink s 64).st = .active → rejects s h o = none → s.ctl.trust.recovery = false → (∃ b ∈ s.rst.busy, b.1 = 5) → Ends s (.timeSet h seconds) (accept s h o) h 0x0015 [])) ∧
  (∀ (s : State) (h : Hdr) (w x y z : Nat), let o : OpInfo := { code := 0x3000, chan := .admin }
    Granted s h o →
    (s.net.route.joined = true → Ends s (.coordSet h w x y z) (accept s h o) h 0x0011 []) ∧
    (s.net.route.joined = false → 3 < w ∨ 3 < x ∨ 5 < y ∨ 5 < z → Ends s (.coordSet h w x y z) (accept s h o) h 0x0013 []) ∧
    (s.net.route.joined = false → w ≤ 3 → x ≤ 3 → y ≤ 5 → z ≤ 5 → Ends s (.coordSet h w x y z) { accept s h o with net := { s.net with route := { s.net.route with w := w, x := x, y := y, z := z, source := 2 } } } h 0 [])) ∧
  (∀ (s : State) (h : Hdr) (port : Nat), let o : OpInfo := { code := 0x3002, chan := .admin }
    Granted s h o →
    (63 < port → Ends s (.linkRetrain h port) (accept s h o) h 0x0013 []) ∧
    (port ≤ 63 → (getLink s port).st = .off → Ends s (.linkRetrain h port) (accept s h o) h 0 []) ∧
    (port ≤ 63 → (getLink s port).st ≠ .off → ∃ t, Ends s (.linkRetrain h port) t h 0 [] ∧ (getLink t port).st = .light ∧ (getLink t port).keyed = false ∧ ((getLink s port).st = .active → (getLink t port).losses = min ((getLink s port).losses + 1) 0xFF)))

/-- R385 to R388: a transaction opens, takes items that no other holds, is checked, is committed at a fabric time as a whole or not at all, is discarded, and expires. -/
def Obligations.Transactions : Prop :=
  (∀ (s : State) (h : Hdr), let o : OpInfo := { code := 0x0010, chan := .either, reserve := 2 }
    Granted s h o →
    (8 ≤ s.ctl.txns.length → Ends s (.txnOpen h) (accept s h o) h 0x0015 []) ∧
    (s.ctl.txns.length < 8 → ∃ t k, k < 65536 ∧ (∀ x ∈ s.ctl.txns, x.handle.toNat ≠ k) ∧ Ends s (.txnOpen h) t h 0 (leBytes 2 k) ∧
      t = { accept s h o with ctl := { (accept s h o).ctl with txns := s.ctl.txns ++ [{ handle := BitVec.ofNat 16 k, channel := h.channel.toNat, lastCmd := s.tb.time }] }, freeCtr := t.freeCtr })) ∧
  (∀ (s : State) (h : Hdr) (handle gid : BitVec 16) (b : List Byte) (x : Txn),
    ∀ e ∈ [(Instr.sliceStage h handle b, ({ code := 0x1000, chan := .adminSigned } : OpInfo), Item.slice b, b.length = 192, False),
        (.routeStage h handle b, { code := 0x3001, chan := .admin }, .route b, b.length = 1216, s.net.route.oldLive = true),
        (.groupStage h handle b, { code := 0x4000, chan := .either }, .group b none, b.length = 64, False),
        (.groupDeleteStage h handle gid, { code := 0x4001, chan := .either }, .groupDelete gid, True, False)],
    let o := e.2.1
    let item := e.2.2.1
    let fits := e.2.2.2.1
    let a := accept s h o
    let a' := modTxn a handle (fun t => { t with lastCmd := s.tb.time })
    Granted s h o →
    (findTxn s h handle = none → Ends s e.1 a h 0x0013 []) ∧
    (findTxn s h handle = some x → x.commit.isSome = true → Ends s e.1 a' h 0x0015 []) ∧
    (findTxn s h handle = some x → x.commit = none → ¬ fits → Ends s e.1 a' h 0x0013 []) ∧
    (findTxn s h handle = some x → x.commit = none → fits → itemDenied s x.channel item = true → Ends s e.1 a' h 0x0010 []) ∧
    (findTxn s h handle = some x → x.commit = none → fits → itemDenied s x.channel item = false →
      (e.2.2.2.2 ∨ 64 ≤ x.items.length ∨ 65536 < stagedBytes x + itemSize item ∨ lockedElsewhere s handle item = true → Ends s e.1 a' h 0x0015 []) ∧
      (¬ e.2.2.2.2 → x.items.length < 64 → stagedBytes x + itemSize item ≤ 65536 → lockedElsewhere s handle item = false →
        Ends s e.1 (modTxn a' handle (fun t => { t with items := t.items ++ [item], checked := false })) h 0 []))) ∧
  (∀ (s : State) (h : Hdr) (handle : BitVec 16) (x : Txn), let o : OpInfo := { code := 0x0011, chan := .either, reserve := 2 }
    let a := accept s h o
    let a' := modTxn a handle (fun t => { t with lastCmd := s.tb.time })
    let r := checkItems true x.channel 0 a' x.items
    Granted s h o →
    (findTxn s h handle = none → Ends s (.txnCheck h handle) a h 0x0013 []) ∧
    (findTxn s h handle = some x → x.commit = none → r.failed = none → Ends s (.txnCheck h handle) (modTxn a' handle (fun t => { t with checked := true, items := r.items })) h 0 []) ∧
    (∀ f, findTxn s h handle = some x → x.commit = none → r.failed = some f → f.2 ≠ 0x0010 → Ends s (.txnCheck h handle) (modTxn a' handle (fun t => { t with checked := false })) h f.2 (leBytes 2 f.1))) ∧
  (∀ (s : State) (h : Hdr) (handle : BitVec 16) (T : Word) (x : Txn), let o : OpInfo := { code := 0x0012, chan := .either, reserve := 16 }
    let a := accept s h o
    let a' := modTxn a handle (fun t => { t with lastCmd := s.tb.time })
    let r := checkItems false x.channel 0 a' x.items
    let late := decide (T.toNat + T.toNat % 2 < s.tb.time)
    Granted s h o → findTxn s h handle = some x → x.commit = none →
    (x.checked = false → Ends s (.txnCommitAt h handle T) a' h 0x0011 []) ∧
    (x.checked = true → s.tb.time + 240000000000 < T.toNat → Ends s (.txnCommitAt h handle T) a' h 0x0013 []) ∧
    (x.checked = true → T.toNat ≤ s.tb.time + 240000000000 → s.tb.time < T.toNat + T.toNat % 2 → exec (.txnCommitAt h handle T) s = .next (modTxn a' handle (fun t => { t with commit := some (T.toNat, h.tag) }))) ∧
    (x.checked = true → T.toNat + T.toNat % 2 ≤ s.tb.time →
      (r.failed = none → Ends s (.txnCommitAt h handle T) (dropTxn r.after handle) h 0 (commitBytes r.after s.tb.time late 0)) ∧
      (∀ f, r.failed = some f → f.2 ≠ 0x0010 → Ends s (.txnCommitAt h handle T) (modTxn a' handle (fun t => { t with checked := false, commit := none })) h f.2 (commitBytes s s.tb.time late f.1)))) ∧
  (∀ (s : State) (handle : BitVec 16) (x : Txn) (T : Nat) (tag : BitVec 16),
    s.ctl.txns.find? (fun t => t.handle = handle) = some x → x.commit = some (T, tag) →
    let due := T + T % 2
    let u : State := { s with tb := { s.tb with time := max s.tb.time due } }
    let r := checkItems false x.channel 0 u x.items
    (s.tb.time < due → cycleEnd s ≤ due → exec (.txnCommitFire handle) s = .next s) ∧
    (due ≤ s.tb.time ∨ due < cycleEnd s →
      (r.failed = none → exec (.txnCommitFire handle) s = .next (finishTag (dropTxn r.after handle) x.channel tag 0 (commitBytes r.after u.tb.time (decide (due < s.tb.time)) 0))) ∧
      (∀ f, r.failed = some f → f.2 ≠ 0x0010 → exec (.txnCommitFire handle) s =
        .next (finishTag (modTxn u handle (fun t => { t with checked := false, commit := none })) x.channel tag f.2 (commitBytes u u.tb.time (decide (due < s.tb.time)) f.1))))) ∧
  (∀ (s : State) (h : Hdr) (handle : BitVec 16) (x : Txn), let o : OpInfo := { code := 0x0013, chan := .either }
    (Granted s h o → findTxn s h handle = some x → x.commit = none → Ends s (.txnDiscard h handle) (dropTxn (accept s h o) handle) h 0 []) ∧
    (Granted s h o → findTxn s h handle = none → Ends s (.txnDiscard h handle) (accept s h o) h 0x0013 []) ∧
    (Granted s h o → findTxn s h handle = some x → x.commit.isSome = true → Ends s (.txnDiscard h handle) (modTxn (accept s h o) handle (fun t => { t with lastCmd := s.tb.time })) h 0x0015 []) ∧
    (s.ctl.txns.find? (fun t => t.handle = handle) = some x → x.commit = none → x.lastCmd + 2400000000000 ≤ s.tb.time → exec (.txnExpire handle) s = .next (dropTxn s handle)) ∧
    (s.ctl.txns.find? (fun t => t.handle = handle) = some x → x.commit.isSome = true ∨ s.tb.time < x.lastCmd + 2400000000000 → exec (.txnExpire handle) s = .next s)) ∧
  (∀ (s : State) (b : List Byte), sdTimesliced b = true → (∀ d < 4, (getPwDie s d).pwr ≠ 0) → sliceCheck s b = 0 → ∃ t, t = (checkItems false 64 0 s [.slice b]).after ∧ (checkItems false 64 0 s [.slice b]).failed = none ∧
    getSlice t (sdSlot b) = some (sliceOf s b) ∧ (getChan t (sdSlot b)).slice = sdId b ∧ (∀ g ∈ sdGranules b, (getGran t (g / 16) (g % 16)).st = .owned ∧ (getGran t (g / 16) (g % 16)).owner = sdId b) ∧
    (∀ k ∈ sdBlocks b, Tab.find (getEp t k.1).counterOwner k.2 = some (sdId b)))

/-- R67, R389 to R391, R402, R410, R411, R482 to R485: a slice's status, launch, strands, stop and restart; and the memory commands, which act within what the slice owns, and wait while the memory holds them back (R147) or an earlier one comes first. -/
def Obligations.SliceCommands : Prop :=
  (∀ (s : State) (h : Hdr) (id : BitVec 16), let o : OpInfo := { code := 0x1001, chan := .adminSigned }
    Granted s h o →
    (findSlice (accept s h o) id = none → Ends s (.sliceRepulp h id) (accept s h o) h 0x0013 []) ∧
    (∀ e, findSlice (accept s h o) id = some e → e.2.st = .scrubbing → Ends s (.sliceRepulp h id) (accept s h o) h 0x0011 []) ∧
    (∀ e, findSlice (accept s h o) id = some e → getSlice (accept s h o) e.1 = some e.2 → e.2.st ≠ .scrubbing → ∃ t, Ends s (.sliceRepulp h id) t h 0 [] ∧ (getChan t e.1).slice = 0xFFFF ∧ (getChan t e.1).tags = [] ∧
      (∀ d g, (getGran t d g).owner = id → (getGran t d g).st ≠ .owned) ∧ (∀ k x, Tab.find t.fab.deckles k = some x → x.valid = true → x.owner ≠ id) ∧ (∀ m ∈ t.fab.mouldKeys, m.2.slice ≠ id) ∧
      (∀ d < 4, ∀ k ∈ (getEp t d).counterOwner, k.2 ≠ id) ∧ Tab.find t.net.meters e.1 = none)) ∧
  (∀ (s : State) (h : Hdr) (e : Nat × Slice), let o : OpInfo := { code := 0x1002, chan := .either, reserve := 64 }
    Granted s h o →
    (concerned (accept s h o) h = some e → Ends s (.sliceStatus h) (accept s h o) h 0 (statusBytes (accept s h o) e.1 e.2)) ∧
    (h.channel = 64 → concerned (accept s h o) h = none → Ends s (.sliceStatus h) (accept s h o) h 0x0013 [])) ∧
  (∀ (s : State) (h : Hdr) (offset arg : Word) (e : Nat × Slice), let o : OpInfo := { code := 0x1003, chan := .slice }
    let a := accept s h o
    Granted s h o → concerned a h = some e →
    (offset.toNat % 4 ≠ 0 → Ends s (.sliceLaunch h offset arg) a h 0x0013 []) ∧
    (offset.toNat % 4 = 0 → (∃ c ∈ e.2.clusters, physCluster s c.1 c.2 = 0xF) ∨ (∃ i ∈ launchIxs e.2, (sliceStrand s e.2 i).st ≠ .free) → Ends s (.sliceLaunch h offset arg) a h 0x0011 []) ∧
    (offset.toNat % 4 = 0 → holdsClusters e.2 = true → (∀ c ∈ e.2.clusters, physCluster s c.1 c.2 ≠ 0xF) → (∀ i ∈ launchIxs e.2, (sliceStrand s e.2 i).st = .free) → ∃ t, Ends s (.sliceLaunch h offset arg) t h 0 [] ∧
      (∀ i ∈ launchIxs e.2, ∃ n, Tab.getD t.compute.strands i {} = startStrand n offset arg [] 0) ∧
      (∀ i, i ∉ launchIxs e.2 → Tab.getD t.compute.strands i {} = Tab.getD s.compute.strands i {}) ∧ t = { a with compute := { s.compute with strands := t.compute.strands } })) ∧
  (∀ (s : State) (h : Hdr) (die cluster core strand action : Nat) (offset : Word) (e : Nat × Slice), let o : OpInfo := { code := 0x1004, chan := .slice }
    let a := accept s h o
    let i := strandIx die cluster core strand
    Granted s h o → concerned a h = some e →
    (1 < action ∨ strandNamed e.2 die cluster core strand = false ∨ offset.toNat % 4 ≠ 0 → Ends s (.strandCtrl h die cluster core strand action offset) a h 0x0013 []) ∧
    (action ≤ 1 → strandNamed e.2 die cluster core strand = true → offset.toNat % 4 = 0 →
      ((sliceStrand s e.2 i).st ≠ .trapped → (sliceStrand s e.2 i).st ≠ .frozen → Ends s (.strandCtrl h die cluster core strand action offset) a h 0x0011 []) ∧
      (holdsClusters e.2 = true → (sliceStrand s e.2 i).st = .trapped ∨ (sliceStrand s e.2 i).st = .frozen → ∃ t, Ends s (.strandCtrl h die cluster core strand action offset) t h 0 [] ∧
        t = { a with compute := { s.compute with strands := t.compute.strands } } ∧ (∀ k, k ≠ i → Tab.getD t.compute.strands k {} = Tab.getD s.compute.strands k {}) ∧
        (action = 0 → (Tab.getD t.compute.strands i {}).st = .free) ∧ (action = 1 → (Tab.getD t.compute.strands i {}).st = .ready ∧ (Tab.getD t.compute.strands i {}).pc = offset) ∧
        (Tab.getD t.compute.strands i {}).epc = (Tab.getD s.compute.strands i {}).epc ∧ (Tab.getD t.compute.strands i {}).inHandler = false))) ∧
  (∀ (s : State) (h : Hdr) (e : Nat × Slice),
    (let o : OpInfo := { code := 0x1005, chan := .either };
      Granted s h o → concerned (accept s h o) h = some e → ∃ t, Ends s (.jobStop h) t h 0 [] ∧ t.fleet.serial = (s.fleet.serial + 1) % 2 ^ 32 ∧
        (outsideExtent s = false → ∀ q ∈ floodPorts s none, .neighbour q 0xE8 (stopBytes e.2.job (fdNode s) t.fleet.serial 0x0003 s.tb.time) ∈ t.out)) ∧
    (let o : OpInfo := { code := 0x1006, chan := .slice };
      Granted s h o → concerned (accept s h o) h = some e →
      (countStrands s e.2 .stopped = 0 → Ends s (.jobRestart h) (accept s h o) h 0x0011 []) ∧
      (0 < countStrands s e.2 .stopped → holdsClusters e.2 = true → ∃ t, Ends s (.jobRestart h) t h 0 [] ∧
        (∀ k, ixInClusters e.2.clusters k = true → (Tab.getD s.compute.strands k {}).st = .stopped → Tab.getD t.compute.strands k {} = { st := .free, gen := (Tab.getD s.compute.strands k {}).gen }) ∧
        (∀ k, ixInClusters e.2.clusters k = false ∨ (Tab.getD s.compute.strands k {}).st ≠ .stopped → Tab.getD t.compute.strands k {} = Tab.getD s.compute.strands k {}) ∧
        t = { accept s h o with compute := { s.compute with strands := t.compute.strands }, ctl := { (accept s h o).ctl with slices := t.ctl.slices } }))) ∧
  (∀ (s : State) (h : Hdr) (addr value : Word) (data : List Byte) (len die counter : Nat) (e : Nat × Slice),
    (let o : OpInfo := { code := 0x2000, chan := .slice };
      let a := accept s h o;
      Granted s h o → concerned a h = some e →
      (memCmdOk addr data.length = false → Ends s (.memWrite h addr data) a h 0x0013 []) ∧
      (memMustWait a h.channel.toNat e.2 (.write addr data) = true → exec (.memWrite h addr data) s = .next { a with ctl := { a.ctl with memWaits := s.ctl.memWaits ++ [{ channel := h.channel.toNat, tag := h.tag, op := .write addr data }] } }) ∧
      (memCmdOk addr data.length = true → memMustWait a h.channel.toNat e.2 (.write addr data) = false → memCmdKey s addr data.length e.2.id = none → Ends s (.memWrite h addr data) a h 0x0004 []) ∧
      (∀ k, memCmdOk addr data.length = true → memMustWait a h.channel.toNat e.2 (.write addr data) = false → memCmdKey s addr data.length e.2.id = some k → Memory.wf s.mem.bytes → ∃ t, Ends s (.memWrite h addr data) t h 0 [] ∧
        Machine.memRead t.mem.bytes k data.length = data ∧ (∀ x, x < k ∨ k + data.length ≤ x → memByte t.mem.bytes x = memByte s.mem.bytes x) ∧
        t = { a with mem := { s.mem with bytes := t.mem.bytes, poison := t.mem.poison, sramPoison := t.mem.sramPoison }, fab := { s.fab with rings := t.fab.rings, groups := t.fab.groups } })) ∧
    (let o : OpInfo := { code := 0x2001, chan := .slice, reserve := min len 4032 };
      let a := accept s h o;
      Granted s h o → concerned a h = some e →
      (memCmdOk addr len = false → Ends s (.memRead h addr len) a h 0x0013 []) ∧
      (memMustWait a h.channel.toNat e.2 (.read addr len) = true → exec (.memRead h addr len) s = .next { a with ctl := { a.ctl with memWaits := s.ctl.memWaits ++ [{ channel := h.channel.toNat, tag := h.tag, op := .read addr len }] } }) ∧
      (memCmdOk addr len = true → memMustWait a h.channel.toNat e.2 (.read addr len) = false → memCmdKey s addr len e.2.id = none → Ends s (.memRead h addr len) a h 0x0004 []) ∧
      (∀ k, memCmdOk addr len = true → memMustWait a h.channel.toNat e.2 (.read addr len) = false → memCmdKey s addr len e.2.id = some k →
        (poisonedAt s k len = true ∨ sramBad s k len = true → Ends s (.memRead h addr len) a h 0x0005 []) ∧
        (poisonedAt s k len = false → sramBad s k len = false → Ends s (.memRead h addr len) a h 0 (Machine.memRead s.mem.bytes k len)))) ∧
    (let o : OpInfo := { code := 0x2002, chan := .slice, reserve := 8 };
      let a := accept s h o;
      Granted s h o → concerned a h = some e →
      (3 < die ∨ 16383 < counter ∨ 2 ^ 63 ≤ value.toNat → Ends s (.counterAdd h die counter value) a h 0x0013 []) ∧
      (memMustWait a h.channel.toNat e.2 (.add die counter value) = true → exec (.counterAdd h die counter value) s = .next { a with ctl := { a.ctl with memWaits := s.ctl.memWaits ++ [{ channel := h.channel.toNat, tag := h.tag, op := .add die counter value }] } }) ∧
      (die ≤ 3 → counter ≤ 16383 → value.toNat < 2 ^ 63 → memMustWait a h.channel.toNat e.2 (.add die counter value) = false → ownsCounter s die counter e.2.id = false → Ends s (.counterAdd h die counter value) a h 0x0004 []) ∧
      (die ≤ 3 → counter ≤ 16383 → value.toNat < 2 ^ 63 → memMustWait a h.channel.toNat e.2 (.add die counter value) = false → ownsCounter s die counter e.2.id = true → ∃ t, Ends s (.counterAdd h die counter value) t h 0 (leBytes 8 (counterVal s die counter).toNat) ∧
        (counterVal t die counter).toNat = min ((counterVal s die counter).toNat + value.toNat) (2 ^ 64 - 1) ∧ (∀ k, k ≠ counter → counterVal t die k = counterVal s die k) ∧
        t = { a with fab := { s.fab with eps := t.fab.eps }, ctl := { a.ctl with watermarks := t.ctl.watermarks } }))) ∧
  (∀ (s : State) (w : MemWait) (sl : Slice), s.ctl.memWaits = [w] → getSlice s w.channel = some sl →
    (memHeld s sl w.op = true → pumpMem s = s) ∧
    (memHeld s sl w.op = false → w.aborted = false → ∀ t st bytes, memDo s sl w.op = (t, .done st bytes) →
      pumpMem s = { finishTag t w.channel w.tag st bytes with ctl := { (finishTag t w.channel w.tag st bytes).ctl with memWaits := [] } }))

/-- R402, R405 to R409, R434: a slice past its quantum makes way once its requests have drained, another becomes RESIDENT on its clusters, and usage is summed at every minute. -/
def Obligations.SliceResidency : Prop :=
  (∀ (s : State) (slot : Fin 64) (sl : Slice), getSlice s slot.val = some sl →
    (sl.st ≠ .resident → exec (.sliceSwitchOut slot) s = .next s) ∧
    (sl.st = .resident → quantumPast s sl = false → needsSpare s sl = false → exec (.sliceSwitchOut slot) s = .next s) ∧
    (sl.st = .resident → (quantumPast s sl = true ∧ waiterFor s sl = true) ∨ needsSpare s sl = true → ∃ t z, exec (.sliceSwitchOut slot) s = .next t ∧
      getSlice t slot.val = some z ∧ z = { sl with st := .switching, changed := s.tb.time, usage := summed s sl } ∧ (∀ k, k ≠ slot.val → getSlice t k = getSlice s k) ∧
      (∀ k, ixInClusters sl.clusters k = true → Tab.getD t.compute.strands k {} = parkStrand s.tb.time (Tab.getD s.compute.strands k {})) ∧
      (∀ k, ixInClusters sl.clusters k = false → Tab.getD t.compute.strands k {} = Tab.getD s.compute.strands k {}) ∧
      t = { s with compute := { s.compute with strands := t.compute.strands, clusters := t.compute.clusters }, ctl := { s.ctl with slices := t.ctl.slices } }) ∧
    (sl.st ≠ .switching ∨ drainedSlice s sl = false → exec (.switchOutDrained slot) s = .next s) ∧
    (sl.st = .switching → drainedSlice s sl = true → ∃ t z, exec (.switchOutDrained slot) s = .next (pumpMem t) ∧ getSlice t slot.val = some z ∧ z.st = .out ∧ z.switches = sl.switches + 1 ∧ z.usage.switches = sl.usage.switches + 1 ∧ z.changed = s.tb.time ∧
      (∀ e ∈ z.savedStrands, ∃ x, (e.1, x) ∈ s.compute.strands ∧ e.2 = parkStrand s.tb.time x ∧ ixInClusters sl.clusters e.1 = true) ∧
      (∀ k, ixInClusters sl.clusters k = false → Tab.getD t.compute.strands k {} = Tab.getD s.compute.strands k {}) ∧
      (∀ k, k ≠ slot.val → getSlice t k = getSlice s k)) ∧
    (sl.st ≠ .out ∨ clustersFree s sl = false → exec (.sliceSwitchIn slot) s = .next s) ∧
    (sl.st = .out → clustersFree s sl = true → (∀ e ∈ s.ctl.slices, e.1 ≠ slot.val → e.2.st = .out → sharesCluster e.2 sl = true → canBeFreed s e.2 = true → goesBefore e (slot.val, sl) = false) →
      ∃ t z, exec (.sliceSwitchIn slot) s = .next t ∧ getSlice t slot.val = some z ∧ z.st = .resident ∧ z.since = s.tb.time ∧ z.everIn = true ∧ z.savedStrands = [])) ∧
  (∀ s : State,
    (129 ≤ s.tb.time % 240000000000 → exec .usageSnapshot s = .next s) ∧
    (s.tb.time % 240000000000 < 129 → ∃ t, exec .usageSnapshot s = .next t ∧ t = { s with ctl := { s.ctl with slices := t.ctl.slices } } ∧
      (∀ k sl, getSlice s k = some sl → sl.st ≠ .scrubbing → snapDue s.tb.time sl = true → ∃ z, getSlice t k = some z ∧ z.usage.granuleMs = (summed s sl).granuleMs ∧ ∃ u, z.snapshots.head? = some u ∧ u.time = s.tb.time / 240000000000 * 240000000000 ∧ u.granuleMs = (summed s sl).granuleMs)))

/-- R174, R175, R178, R188 to R190, R212, R222, R243, R389, R432, R433: rings, deckles and mould key slots are defined, read, reset and freed; a group's operation is aborted and its status read. -/
def Obligations.SliceObjects : Prop :=
  (∀ (s : State) (h : Hdr) (ring die log2n weight : Nat) (base pi ci : Word) (e : Nat × Slice), let o : OpInfo := { code := 0x2010, chan := .either }
    let a := accept s h o
    Granted s h o → concerned a h = some e →
    (ringParamsOk s e.2.id ring die log2n weight base pi ci = false → Ends s (.ringDefine h ring die log2n weight base pi ci) a h 0x0013 []) ∧
    (ringParamsOk s e.2.id ring die log2n weight base pi ci = true → (getRing s ring).st ≠ .undefined → Ends s (.ringDefine h ring die log2n weight base pi ci) a h 0x0011 []) ∧
    (ringParamsOk s e.2.id ring die log2n weight base pi ci = true → (getRing s ring).st = .undefined → e.2.maxRings ≤ (ringsOf s e.2.id).length ∨ 4096 ≤ (getEp s die).monitors.length → Ends s (.ringDefine h ring die log2n weight base pi ci) a h 0x0015 []) ∧
    (ringParamsOk s e.2.id ring die log2n weight base pi ci = true → (getRing s ring).st = .undefined → (ringsOf s e.2.id).length < e.2.maxRings → (getEp s die).monitors.length < 4096 → Memory.wf s.mem.bytes →
      ∃ t, Ends s (.ringDefine h ring die log2n weight base pi ci) t h 0 [] ∧
        getRing t ring = { st := .active, owner := e.2.id, die := die, base := base.toNat, log2n := log2n, piLine := pi.toNat, ciLine := ci.toNat, weight := weight, pendingBit := true } ∧
        (pi.toNat / 64, .ring ring) ∈ (getEp t die).monitors ∧ Machine.memRead t.mem.bytes (memKey die ci.toNat) 64 = ciBytes 0 s.tb.time)) ∧
  (∀ (s : State) (h : Hdr) (ring : Nat) (x : Ring), x = getRing s ring →
    (let o : OpInfo := { code := 0x2011, chan := .either, reserve := 4 };
      Granted s h o →
      (ringNamed s h ring = false → Ends s (.ringReset h ring) (accept s h o) h 0x0013 []) ∧
      (ringNamed s h ring = true → ∃ t, Ends s (.ringReset h ring) t h (if x.lastPi - x.ci = 0 then 0x0002 else 0) (leBytes 4 (x.lastPi - x.ci)) ∧
        (getRing t ring).st = .active ∧ (getRing t ring).ci = x.lastPi ∧ (getRing t ring).next = x.lastPi ∧ (getRing t ring).prog = [])) ∧
    (let o : OpInfo := { code := 0x2012, chan := .either };
      Granted s h o →
      (ringNamed s h ring = false → Ends s (.ringDelete h ring) (accept s h o) h 0x0013 []) ∧
      (ringNamed s h ring = true → ∃ t, Ends s (.ringDelete h ring) t h 0 [] ∧ (getRing t ring).st = .undefined ∧ (∀ m ∈ (getEp t x.die).monitors, m.2 ≠ .ring ring)))) ∧
  (∀ (s : State) (h : Hdr) (endpoint log2size : Nat) (perm : BitVec 4) (same : Bool) (base : Word) (e : Nat × Slice), let o : OpInfo := { code := 0x2020, chan := .session, reserve := 8 }
    let a := accept s h o
    Granted s h o → concerned a h = some e →
    (deckleParamsOk endpoint log2size base = false → Ends s (.deckleDefine h endpoint log2size perm same base) a h 0x0013 []) ∧
    (deckleParamsOk endpoint log2size base = true → e.2.maxDeckles ≤ ((validDeckles s).filter (fun x => x.2.owner = e.2.id)).length → Ends s (.deckleDefine h endpoint log2size perm same base) a h 0x0015 []) ∧
    (deckleParamsOk endpoint log2size base = true → ((validDeckles s).filter (fun x => x.2.owner = e.2.id)).length < e.2.maxDeckles → (validDeckles s).length < 262144 →
      ∃ (t : State) (j : Nat) (secret : BitVec 46), j < 262144 ∧ (getDeckle s j).valid = false ∧ Ends s (.deckleDefine h endpoint log2size perm same base) t h 0 (leBytes 8 (secret.toNat * 2 ^ 18 + j)) ∧
        getDeckle t j = { secret := secret, owner := e.2.id, log2size := log2size, base := BitVec.ofNat 26 (base.toNat / 65536), endpoint := endpoint, sameSlice := same, perm := perm, valid := true, changed := s.tb.time } ∧
        (∀ k, k ≠ j → getDeckle t k = getDeckle s k) ∧ t = { a with fab := { s.fab with deckles := t.fab.deckles }, freeCtr := t.freeCtr })) ∧
  (∀ (s : State) (h : Hdr) (index : Nat),
    (let o : OpInfo := { code := 0x2021, chan := .either };
      Granted s h o →
      (deckleNamed s h index = false → Ends s (.deckleRevoke h index) (accept s h o) h 0x0013 []) ∧
      (deckleNamed s h index = true → ∃ t, Ends s (.deckleRevoke h index) t h 0 [] ∧ getDeckle t index = { getDeckle s index with valid := false, secret := 0, changed := s.tb.time } ∧
        (∀ k, k ≠ index → getDeckle t k = getDeckle s k) ∧ t = { accept s h o with fab := { s.fab with deckles := t.fab.deckles } })) ∧
    (let o : OpInfo := { code := 0x2022, chan := .either, reserve := 32 };
      Granted s h o →
      (262143 < index ∨ (h.channel ≠ 64 ∧ deckleNamed s h index = false) → Ends s (.deckleRead h index) (accept s h o) h 0x0013 []) ∧
      (index ≤ 262143 → h.channel = 64 ∨ deckleNamed s h index = true → Ends s (.deckleRead h index) (accept s h o) h 0 (deckleBytes (getDeckle s index))))) ∧
  (∀ (s : State) (h : Hdr) (mkh : Nat) (keyId : BitVec 32) (ok : Bool) (e : Nat × Slice),
    (let o : OpInfo := { code := 0x2030, chan := .session };
      Granted s h o → concerned (accept s h o) h = some e →
      (∀ k, Tab.find s.fab.mouldKeys (mkh % 256) = some k → Ends s (.mouldKeyLoad h mkh keyId ok) (accept s h o) h (if k.slice = e.2.id then 0x0011 else 0x0010) []) ∧
      (Tab.find s.fab.mouldKeys (mkh % 256) = none → s.ctl.trust.testUnlocked = true → Ends s (.mouldKeyLoad h mkh keyId ok) (accept s h o) h 0x0011 []) ∧
      (Tab.find s.fab.mouldKeys (mkh % 256) = none → s.ctl.trust.testUnlocked = false → ok = false → Ends s (.mouldKeyLoad h mkh keyId ok) (accept s h o) h 0x0012 []) ∧
      (Tab.find s.fab.mouldKeys (mkh % 256) = none → s.ctl.trust.testUnlocked = false → ok = true → ∃ t key, Ends s (.mouldKeyLoad h mkh keyId ok) t h 0 [] ∧
        Tab.find t.fab.mouldKeys (mkh % 256) = some { slice := e.2.id, keyId := keyId, key := key } ∧ t = { accept s h o with fab := { s.fab with mouldKeys := t.fab.mouldKeys }, freeCtr := t.freeCtr })) ∧
    (let o : OpInfo := { code := 0x2031, chan := .either };
      Granted s h o → concerned (accept s h o) h = some e →
      (Tab.find s.fab.mouldKeys (mkh % 256) = none ∨ (∃ k, Tab.find s.fab.mouldKeys (mkh % 256) = some k ∧ k.slice ≠ e.2.id) → Ends s (.mouldKeyDrop h mkh) (accept s h o) h 0x0011 []) ∧
      (∀ k, Tab.find s.fab.mouldKeys (mkh % 256) = some k → k.slice = e.2.id → mouldInUse s (mkh % 256) = true → Ends s (.mouldKeyDrop h mkh) (accept s h o) h 0x0015 []) ∧
      (∀ k, Tab.find s.fab.mouldKeys (mkh % 256) = some k → k.slice = e.2.id → mouldInUse s (mkh % 256) = false →
        Ends s (.mouldKeyDrop h mkh) { accept s h o with fab := { s.fab with mouldKeys := Tab.erase s.fab.mouldKeys (mkh % 256) } } h 0 []))) ∧
  (∀ (s : State) (h : Hdr) (gid : BitVec 16) (opseq : BitVec 32) (c : Nat) (g : Group),
    (let o : OpInfo := { code := 0x4002, chan := .either };
      Granted s h o →
      (findGroup s gid = none → Ends s (.groupAbort h gid opseq) (accept s h o) h 0x0013 []) ∧
      (findGroup s gid = some (c, g) → h.channel ≠ 64 → gOwner g.desc ≠ boundSlice s h.channel.toNat → Ends s (.groupAbort h gid opseq) (accept s h o) h 0x0010 []) ∧
      (findGroup s gid = some (c, g) → h.channel = 64 →
        (g.op = none ∨ (∃ x, g.op = some x ∧ x.opseq ≠ opseq) → Ends s (.groupAbort h gid opseq) (accept s h o) h (if opseq.toNat < g.opseq then 0x0002 else 0x0011) []) ∧
        (∀ x, g.op = some x → x.opseq = opseq → x.decided = true ∨ x.t.isSome = true → Ends s (.groupAbort h gid opseq) (accept s h o) h 0x0002 []) ∧
        (∀ x, g.op = some x → x.opseq = opseq → x.decided = false → x.t = none → exec (.groupAbort h gid opseq) s =
          .next (raiseAbort (modGroup (accept s h o) c (fun g => { g with aborters := g.aborters ++ [(64, h.tag)] })) c 0x0003 false)))) ∧
    (let o : OpInfo := { code := 0x4003, chan := .either, reserve := 12 };
      Granted s h o →
      (findGroup s gid = none → Ends s (.groupStatus h gid) (accept s h o) h 0x0013 []) ∧
      (findGroup s gid = some (c, g) → h.channel = 64 ∨ gOwner g.desc = boundSlice s h.channel.toNat → Ends s (.groupStatus h gid) (accept s h o) h 0 (leBytes 8 (regGroup s c).toNat ++ leBytes 4 g.opseq))))

/-- R417 to R430, R434, R435: evidence and usage records wait for a batch and are signed in it, certificates are read, sessions open and close, the operator key is rotated, and the attestation key is renewed. -/
def Obligations.TrustCommands : Prop :=
  (∀ (s : State) (h : Hdr) (nonce : List Byte) (e : Nat × Slice),
    (let o : OpInfo := { code := 0x5000, chan := .either, reserve := 16384, recovery := true };
      let a := accept s h o;
      Granted s h o →
      (s.ctl.trust.noIdentity = true → Ends s (.attest h nonce) a h 0x0012 []) ∧
      (s.ctl.trust.noIdentity = false → h.channel = 64 → h.slice = 0xFFFF →
        exec (.attest h nonce) s = .next { a with ctl := { a.ctl with trust := { a.ctl.trust with batch := s.ctl.trust.batch ++ [{ channel := 64, tag := h.tag, body := evidenceBody a none nonce }] } } }) ∧
      (s.ctl.trust.noIdentity = false → h.channel ≠ 64 → concerned a h = some e →
        exec (.attest h nonce) s = .next { a with ctl := { a.ctl with trust := { a.ctl.trust with batch := s.ctl.trust.batch ++ [{ channel := h.channel.toNat, tag := h.tag, body := evidenceBody a (some e) nonce }] } } })) ∧
    (let o : OpInfo := { code := 0x5004, chan := .either, reserve := 16384 };
      let a := accept s h o;
      Granted s h o → h.channel ≠ 64 → concerned a h = some e → ∃ t, exec (.usageRead h nonce) s = .next t ∧
        t.ctl.trust.batch = s.ctl.trust.batch ++ [{ channel := h.channel.toNat, tag := h.tag, body := usageBody a nonce e.1 e.2.id e.2.job e.2.desc (summed a e.2) e.2.snapshots }] ∧
        getSlice t e.1 = some { e.2 with usage := summed a e.2 } ∧ t = { a with ctl := { a.ctl with slices := t.ctl.slices, trust := { a.ctl.trust with batch := t.ctl.trust.batch } } })) ∧
  (∀ s : State,
    (s.ctl.trust.batch = [] → exec .evidenceBatch s = .next s) ∧
    (∀ x, s.ctl.trust.lastBatch = some x → s.tb.time < x + 400000000 → exec .evidenceBatch s = .next s) ∧
    (∀ r : EvidenceReq, s.ctl.trust.batch = [r] → (∀ x, s.ctl.trust.lastBatch = some x → x + 400000000 ≤ s.tb.time) → (∀ b ∈ s.rst.busy, b.1 ≠ 6) → s.ctl.trust.recovery = false → s.ctl.trust.aklReady = false →
      ∃ sig hss : List Byte, sig.length = 96 ∧ hss.length = 5716 ∧ ∃ n, exec .evidenceBatch s =
        .next (finishTag { s with ctl := { s.ctl with trust := { s.ctl.trust with attLeft := s.ctl.trust.attLeft - 1, batch := [], lastBatch := some s.tb.time } }, freeCtr := n } r.channel r.tag 0 (envelope r.body 0 s.tb.time [] sig hss))) ∧
    (s.ctl.trust.attLeft < 65536 → s.ctl.trust.aklReady = false → s.ctl.trust.recovery = false → 5 ≤ s.rst.step →
      ∃ n, exec .aklRenew s = .next { s with ctl := { s.ctl with trust := { s.ctl.trust with idLeft := s.ctl.trust.idLeft - 1, aklReady := true, aklNext := n } }, freeCtr := s.freeCtr + 1 }) ∧
    (65536 ≤ s.ctl.trust.attLeft → exec .aklRenew s = .next s)) ∧
  (∀ (s : State) (h : Hdr) (index : Nat), let o : OpInfo := { code := 0x5001, chan := .either, reserve := 16384, recovery := decide (index ≤ 3) }
    Granted s h o →
    (6 < index → Ends s (.certRead h index) (accept s h o) h 0x0013 []) ∧
    (index ≤ 6 → ∃ bytes, bytes = certBytes index (certMade (accept s h o).ctl.trust index) ∧ 1 ≤ bytes.length ∧ bytes.length ≤ 16384 ∧ Ends s (.certRead h index) (accept s h o) h 0 bytes)) ∧
  (∀ (s : State) (h : Hdr) (payload : List Byte) (pointOk sigOk : Bool) (e : Nat × Slice), let o : OpInfo := { code := 0x5002, chan := .unsealed, reserve := 4096 }
    let a := accept s h o
    Granted s h o → concerned a h = some e →
    (payload.length ≠ 336 → Ends s (.sessionOpen h payload pointOk sigOk) a h 0x0013 []) ∧
    (payload.length = 336 → e.2.session.isSome = true ∨ sliceInUse a e.2 = true ∨ s.ctl.trust.testUnlocked = true → Ends s (.sessionOpen h payload pointOk sigOk) a h 0x0011 []) ∧
    (payload.length = 336 → e.2.session = none → sliceInUse a e.2 = false → s.ctl.trust.testUnlocked = false →
      (sha384 ((payload.drop 136).take 97) ≠ (e.2.desc.drop 104).take 48 → Ends s (.sessionOpen h payload pointOk sigOk) a h 0x0010 []) ∧
      (sha384 ((payload.drop 136).take 97) = (e.2.desc.drop 104).take 48 → pointOk = false → Ends s (.sessionOpen h payload pointOk sigOk) a h 0x0013 []) ∧
      (sha384 ((payload.drop 136).take 97) = (e.2.desc.drop 104).take 48 → pointOk = true → sigOk = false → Ends s (.sessionOpen h payload pointOk sigOk) a h 0x0012 []) ∧
      (sha384 ((payload.drop 136).take 97) = (e.2.desc.drop 104).take 48 → pointOk = true → sigOk = true → ∃ (t : State) (own secret b : List Byte) (z : Slice) (q : Session), exec (.sessionOpen h payload pointOk sigOk) s = .next t ∧
        own.length = 129 ∧ secret.length = 48 ∧ b = hkdf384 secret (payload.take 32 ++ own.take 32) (sessionInfo s h.slice q.th) 120 ∧
        StatusSent s t (.status h.channel.toNat 0x5002 h.tag h.slice h.version 0 (hlFlags false false false false) 192 (own ++ leBytes 15 0 ++ hmac384 (b.drop 72) q.th) s.tb.time) ∧
        getSlice t e.1 = some z ∧ z.session = some q ∧ q.th = sha384 (payload ++ (own ++ leBytes 15 0)) ∧ q.scountIn = 0 ∧ q.scountOut = 0 ∧ q.releaseKey.length = 97 ∧
        q.keyIn = b.take 32 ∧ q.keyOut = (b.drop 32).take 32 ∧ q.saltIn = (b.drop 64).take 4 ∧ q.saltOut = (b.drop 68).take 4))) ∧
  (∀ (s : State) (h : Hdr) (e : Nat × Slice), let o : OpInfo := { code := 0x5003, chan := .slice }
    let a := accept s h o
    Granted s h o → concerned a h = some e →
    (e.2.session = none → Ends s (.sessionClose h) a h 0x0011 []) ∧
    (e.2.session.isSome = true → otherPending a h = true → Ends s (.sessionClose h) a h 0x0015 []) ∧
    (e.2.session.isSome = true → otherPending a h = false → ∃ t z, exec (.sessionClose h) s = .next t ∧ getSlice t e.1 = some z ∧ z.session = none ∧ (getChan t e.1).tags = [] ∧
      StatusSent s t (.status h.channel.toNat 0x5003 h.tag h.slice h.version 0 (hlFlags false false false true) 0 [] s.tb.time))) ∧
  (∀ (s : State) (h : Hdr) (newKey : List Byte) (ok : Bool), let o : OpInfo := { code := 0x5005, chan := .adminSigned }
    let a := accept s h o
    Granted s h o →
    (newKey.length ≠ 97 → Ends s (.opkeyRotate h newKey ok) a h 0x0013 []) ∧
    (newKey.length = 97 → ok = false → Ends s (.opkeyRotate h newKey ok) a h 0x0012 []) ∧
    (newKey.length = 97 → ok = true → Ends s (.opkeyRotate h newKey ok) { a with ctl := { a.ctl with trust := { a.ctl.trust with opKey := newKey } } } h 0 []))

/-- R447, R448, R450, R458: the rack's and the host's caps are held within 900 to 4,400 W and the lower is in force; a fall of more than 10% brakes; the I3C target takes its address, and telemetry is read. -/
def Obligations.PowerCaps : Prop :=
  State.reset.caps.rack = 4400 ∧ State.reset.caps.host = 4400 ∧
  (∀ (s : State) (h : Hdr) (cap : BitVec 32), let o : OpInfo := { code := 0x6000, chan := .admin, reserve := 4 }
    let a := accept s h o
    let host := max 900 (min 4400 cap.toNat)
    Granted s h o → ∃ t, Ends s (.pwrCapSet h cap) t h (if cap.toNat < 900 then 0x0016 else 0) (leBytes 4 (min s.caps.rack host)) ∧
      t.caps = { s.caps with host := host, hostLow := decide (cap.toNat < 900), inForce := min s.caps.rack host } ∧
      (s.pw.selfBrake = 16 → min s.caps.rack host * 10 < capAt s (s.tb.time - 4000000) * 9 → t.pw.selfBrake = brakeDuty t ∧ t.pw.selfBrakes = min (s.pw.selfBrakes + 1) 0xFF ∧ t.pw.lent = false) ∧
      (capAt s (s.tb.time - 4000000) * 9 ≤ min s.caps.rack host * 10 → t.pw.selfBrake = s.pw.selfBrake ∧ t.pw.lent = s.pw.lent ∧ t.pwDies = s.pwDies) ∧
      t.pins = { s.pins with alertN := !alertHolds t } ∧ t = { a with caps := t.caps, pw := t.pw, pwDies := t.pwDies, pins := t.pins, out := t.out }) ∧
  (∀ (s : State) (h : Hdr), let o : OpInfo := { code := 0x6001, chan := .either, reserve := 1024 }
    Granted s h o → (h.channel = 64 → Ends s (.pwrStatus h) (accept s h o) h 0 (telemetry (accept s h o))) ∧ (h.channel ≠ 64 → Ends s (.pwrStatus h) (accept s h o) h 0 (telemetrySlice (accept s h o)))) ∧
  (∀ (s : State) (l u : Byte) (lo : Option Byte) (addr : BitVec 7),
    let rack := max 900 (min 4400 (l.toNat + 256 * u.toNat))
    (i3cAnswers s = false → ∀ hi, exec (.rackCapWrite lo hi) s = .next s) ∧
    (i3cAnswers s = true → exec (.rackCapWrite lo none) s = .next { s with pw := { s.pw with i3cIndex := 0 } }) ∧
    (i3cAnswers s = true → ∃ t, exec (.rackCapWrite (some l) (some u)) s = .next t ∧
      t.caps = { s.caps with rack := rack, rackLow := decide (l.toNat + 256 * u.toNat < 900), inForce := min rack s.caps.host } ∧ t.pw.i3cWrites = (s.pw.i3cWrites + 1) % 256 ∧ t.pw.i3cIndex = 0 ∧
      (s.pw.selfBrake = 16 → min rack s.caps.host * 10 < capAt s (s.tb.time - 4000000) * 9 → t.pw.selfBrake = brakeDuty t) ∧
      (capAt s (s.tb.time - 4000000) * 9 ≤ min rack s.caps.host * 10 → t.pw.selfBrake = s.pw.selfBrake) ∧
      t.pins = { s.pins with alertN := !alertHolds t } ∧ t = { s with caps := t.caps, pw := t.pw, pwDies := t.pwDies, pins := t.pins, out := t.out }) ∧
    (s.rst.step = 0 → exec (.entdaa addr) s = .next s) ∧
    (s.rst.step ≠ 0 → exec (.entdaa addr) s = .next { s with pw := { s.pw with i3cDyn := some addr } }))

/-- R264, R443, R445, R446, R449 to R456: samples are read and brake or raise an alert, a failed rail or a die at its trip point stops what it feeds, operating points step, THROTTLE_N brakes and lets go, power is lent and withdrawn, and idle clusters and dies are gated. -/
def Obligations.PowerControl : Prop :=
  (∀ (s : State) (rails : List RailRead) (dieT stackT oeT : List Nat) (fdT : Nat), rails.length = 6 → dieT.length = 4 →
    ((∀ k < 6, ∀ x, rails[k]? = some x → x.answered = true ∧ x.fault = false ∧ (getRail s k).target * 95 ≤ x.voltage * 100 ∧ x.voltage * 100 ≤ (getRail s k).target * 105) → ∃ t, exec (.powerSample rails dieT stackT oeT fdT) s = .next t ∧
      (∀ k < 6, ∀ x, rails[k]? = some x → (getRail t k).current = x.current ∧ (getRail t k).voltage = x.voltage) ∧ (∀ d < 4, ∀ x, dieT[d]? = some x → (getPwDie t d).temp = x) ∧
      t.pw.fdTemp = fdT ∧ t.pw.stackTemp = stackT.foldl max 0 ∧ t.pw.oeTemp = oeT.foldl max 0 ∧ t.pw.lastSample = s.tb.time ∧ t.pw.power = (computeMw t + otherMw t) / 1000 ∧
      (s.pw.windowCount = 99 → t.pw.power10 = (s.pw.windowSum + t.pw.power) / 100 ∧ t.pw.windowCount = 0 ∧ t.pw.windowSum = 0 ∧ t.pw.lastWindow = s.tb.time) ∧
      (s.pw.windowCount ≠ 99 → t.pw.windowCount = s.pw.windowCount + 1 ∧ t.pw.windowSum = s.pw.windowSum + t.pw.power ∧ t.pw.power10 = s.pw.power10) ∧
      (s.pw.selfBrake = 16 → s.caps.inForce * 105 < t.pw.power * 100 → t.pw.selfBrake = brakeDuty t ∧ t.pw.selfBrakes = min (s.pw.selfBrakes + 1) 0xFF ∧ t.pw.lent = false ∧ t.pins.alertN = !alertHolds t) ∧
      (s.pw.selfBrake = 16 → t.pw.power * 100 ≤ s.caps.inForce * 105 → t.pw.selfBrake = 16 ∧ t.pw.lent = s.pw.lent) ∧
      t = { s with rails := t.rails, pwDies := t.pwDies, pw := t.pw, pins := t.pins, out := t.out, freeCtr := t.freeCtr }) ∧
    (∀ k x, 3 ≤ k → k < 6 → rails[k]? = some x → x.answered = false → (getRail s k).st = 2 →
      (∀ j < 6, j ≠ k → ∀ y, rails[j]? = some y → y.answered = true ∧ y.fault = false ∧ (getRail s j).target * 95 ≤ y.voltage * 100 ∧ y.voltage * 100 ≤ (getRail s j).target * 105) →
      ∃ t, exec (.powerSample rails dieT stackT oeT fdT) s = .next t ∧ t.pins.faultN = false ∧ t.pins.transmitters = false ∧ (getRail t k).st = 3 ∧ (getRail t k).faults = min ((getRail s k).faults + 1) 0xF)) ∧
  (∀ (s : State) (dieT oeT : List Nat) (fdT : Nat), dieT.length = 4 → oeT.length = 16 → fdT < 92 →
    ((∀ x ∈ dieT, x < 92) → (∀ x ∈ oeT, x < 72) → ∃ t, exec (.thermalSample dieT oeT fdT) s = .next t ∧
      (∀ d < 4, ∀ x, dieT[d]? = some x → getPwDie t d = { getPwDie s d with temp := x, warn := false, cutW := 780 }) ∧ t.pw.fdTemp = fdT ∧ t.pw.fdWarn = false ∧ t.pw.fdLimit = false ∧ t.pw.oeWarn = 0 ∧
      t.pins = { s.pins with alertN := !alertHolds t } ∧ t = { s with pwDies := t.pwDies, pw := t.pw, pins := t.pins, net := { s.net with optics := t.net.optics } }) ∧
    (∀ d x, d < 4 → dieT[d]? = some x → ∃ t, exec (.thermalSample dieT oeT fdT) s = .next t ∧
      (95 ≤ x → (getPwDie t d).warn = true ∧ t.pins.alertN = false) ∧
      (105 ≤ x → x < 115 → (getPwDie s d).cutW = 780 ∨ (getPwDie s d).cutAt + 4000000 ≤ s.tb.time → (getPwDie t d).cutW = (getPwDie s d).cutW * 9 / 10) ∧
      (115 ≤ x → (getPwDie s d).tripped = false → (getPwDie s d).pwr = 2 → (getPwDie t d).pwr = 0 ∧ (getPwDie t d).tripped = true ∧ t.pins.faultN = false)) ∧
    (∀ k x, k < 16 → oeT[k]? = some x → 85 ≤ x → (∀ y ∈ dieT, y < 95) → ∃ t, exec (.thermalSample dieT oeT fdT) s = .next t ∧ (∀ i < 4, (getLink s (4 * k + i)).st = .active → (getLink t (4 * k + i)).st = .light))) ∧
  (∀ (s : State) (die : Fin 4),
    (lowerDue s die.val = true → ∃ t, exec (.dvfsStep die .down) s = .next t ∧ (getPwDie t die.val).point = (getPwDie s die.val).point - 100 ∧ (∀ d, d ≠ die.val → getPwDie t d = getPwDie s d) ∧
      (vcdNeed t (dieRail die.val) ≠ 0 → (getRail t (dieRail die.val)).target = vcdNeed t (dieRail die.val)) ∧
      t = { s with rails := t.rails, pwDies := t.pwDies, pw := t.pw, pins := t.pins, out := t.out, freeCtr := t.freeCtr }) ∧
    (lowerDue s die.val = false → exec (.dvfsStep die .down) s = .next s) ∧
    (raiseDue s die.val = true → ∃ t, exec (.dvfsStep die .up) s = .next t ∧ (getPwDie t die.val).point = (getPwDie s die.val).point + 100 ∧ (∀ d, d ≠ die.val → getPwDie t d = getPwDie s d) ∧
      t.pw = { s.pw with lastRaise := s.tb.time } ∧ t = { s with rails := t.rails, pwDies := t.pwDies, pw := t.pw, out := t.out }) ∧
    (raiseDue s die.val = false → exec (.dvfsStep die .up) s = .next s)) ∧
  (∀ s : State,
    (s.rst.step = 0 ∨ s.pw.throttle = true → exec .throttleNAssert s = .next { s with pins := { s.pins with throttleN := false } }) ∧
    (s.rst.step ≠ 0 → s.pw.throttle = false → ∃ t, exec .throttleNAssert s = .next t ∧ t.pins = { s.pins with throttleN := false } ∧ t.pw = { s.pw with throttle := true, lent := false, throttles := min (s.pw.throttles + 1) 0xFF } ∧
      (∀ d < 4, (getPwDie s d).pwr = 2 → (getPwDie t d).thrDuty = some (min 16 (16 * (getPwDie s d).point / 1600)) ∧ (getPwDie t d).point = (getPwDie s d).point) ∧
      (∀ d < 4, (getPwDie s d).pwr ≠ 2 → (getPwDie t d).thrDuty = (getPwDie s d).thrDuty) ∧ t = { s with pins := t.pins, pw := t.pw, pwDies := t.pwDies }) ∧
    (∃ t, exec .throttleNRelease s = .next t ∧ t.pins = { s.pins with throttleN := true } ∧ t.pw = { s.pw with throttle := false } ∧ (∀ d, getPwDie t d = { getPwDie s d with thrDuty := none }) ∧ t = { s with pins := t.pins, pw := t.pw, pwDies := t.pwDies }) ∧
    (s.pw.lent = false → lendWanted s ≠ [] → braked s = false → s.pw.fdLimit = false → s.pw.power + 80 < s.caps.inForce → ∃ t, exec .lendRequest s = .next t ∧ t.pw = { s.pw with lent := true } ∧
      (∀ d < 4, (getPwDie t d).lendW = if lendClusters s = [] then 0 else 80 * ((lendClusters s).filter (fun c => c.1 = d)).length / (lendClusters s).length) ∧ t = { s with pw := t.pw, pwDies := t.pwDies }) ∧
    (s.pw.lent = true ∨ lendWanted s = [] ∨ braked s = true ∨ s.pw.fdLimit = true ∨ s.caps.inForce ≤ s.pw.power + 80 → exec .lendRequest s = .next s) ∧
    (s.pw.lent = true → lendOver s = true → ∃ t, exec .lendWithdraw s = .next t ∧ t.pw = { s.pw with lent := false } ∧ (∀ d, getPwDie t d = { getPwDie s d with lendW := 0 }) ∧ t = { s with pw := t.pw, pwDies := t.pwDies }) ∧
    (lendOver s = false → exec .lendWithdraw s = .next s)) ∧
  (∀ (s : State) (die : Fin 4) (cluster : Fin 12),
    ((∀ k < 16, (Tab.getD s.compute.cores (16 * clIx die.val cluster.val + k) {}).gated = true ∧ (Tab.getD s.compute.cores (16 * clIx die.val cluster.val + k) {}).engGated = 15) → (getCluster s die.val cluster.val).pllDown = false →
      barrierHolds s die.val cluster.val = false → (getCluster s die.val cluster.val).idleSince + 400000 ≤ s.tb.time → ∃ t, exec (.clusterPllGate die cluster) s = .next t ∧
      getCluster t die.val cluster.val = { getCluster s die.val cluster.val with pllDown := true } ∧ t = { s with compute := { s.compute with clusters := t.compute.clusters } }) ∧
    (barrierHolds s die.val cluster.val = true ∨ s.tb.time < (getCluster s die.val cluster.val).idleSince + 400000 → exec (.clusterPllGate die cluster) s = .next s) ∧
    ((getPwDie s die.val).pwr = 2 → s.rst.step = 10 → s.rst.busy = [] → dieIdle s die.val = true → (getPwDie s die.val).idleSince + 40000000 ≤ s.tb.time → ∃ t, exec (.diePowerGate die) s = .next t ∧
      getPwDie t die.val = { getPwDie s die.val with pwr := 0 } ∧ (∀ d < 4, t.rst.dieOut.getLsbD d = (s.rst.dieOut.getLsbD d && decide (d ≠ die.val))) ∧ t = { s with pwDies := t.pwDies, rst := { s.rst with dieOut := t.rst.dieOut } }) ∧
    (dieIdle s die.val = false ∨ s.tb.time < (getPwDie s die.val).idleSince + 40000000 → exec (.diePowerGate die) s = .next s))

/-- R426, R509 to R513: breakpoints are set and cleared, strands halted and resumed, a halted strand's dump is written once what it has outstanding is over, and event rings are frozen. -/
def Obligations.DebugCommands : Prop :=
  (∀ (s : State) (h : Hdr) (b : BkptCfg) (n : Nat) (e : Nat × Slice),
    (let o : OpInfo := { code := 0x7000, chan := .either, reserve := 2 };
      let a := accept s h o;
      Granted s h o → concerned a h = some e →
      (debugDenied h e.2 = true → Ends s (.bkptSet h b) a h 0x0010 []) ∧
      (debugDenied h e.2 = false →
        (bkptCores e.2 b = [] ∨ (b.kind ≠ 1 ∧ b.kind ≠ 2) ∨ 1 < b.scope → Ends s (.bkptSet h b) a h 0x0013 []) ∧
        (bkptCores e.2 b ≠ [] → b.kind = 1 ∨ b.kind = 2 → b.scope ≤ 1 → (∃ c ∈ bkptCores e.2 b, 4 ≤ (sliceCore s e.2 c).bkpts.length) → Ends s (.bkptSet h b) a h 0x0015 []) ∧
        (bkptCores e.2 b ≠ [] → b.kind = 1 ∨ b.kind = 2 → b.scope ≤ 1 → (∀ c ∈ bkptCores e.2 b, (sliceCore s e.2 c).bkpts.length < 4) → holdsClusters e.2 = true → (bkptsInUse s).length < 3072 → ∃ (t : State) (m : Nat), Ends s (.bkptSet h b) t h 0 (leBytes 2 m) ∧
          (∀ x ∈ bkptsInUse s, x.1 ≠ m) ∧ (∀ c ∈ bkptCores e.2 b, ({ number := m, slice := e.2.id, kind := b.kind, mask32 := b.mask32, access := b.access &&& 0xF, scope := b.scope, value := b.value, mask := b.mask } : Bkpt) ∈ (Tab.getD t.compute.cores c {}).bkpts) ∧
          (∀ c, c ∉ bkptCores e.2 b → Tab.getD t.compute.cores c {} = Tab.getD s.compute.cores c {}) ∧ t = { a with compute := { s.compute with cores := t.compute.cores }, freeCtr := t.freeCtr }))) ∧
    (let o : OpInfo := { code := 0x7001, chan := .either };
      let a := accept s h o;
      Granted s h o → concerned a h = some e → debugDenied h e.2 = false →
      ((∀ c ∈ coresOfSlice e.2, ∀ k ∈ (sliceCore s e.2 c).bkpts, k.number ≠ n) → Ends s (.bkptClear h n) a h 0x0013 []) ∧
      ((∃ c ∈ coresOfSlice e.2, ∃ k ∈ (sliceCore s e.2 c).bkpts, k.number = n) → holdsClusters e.2 = true → ∃ t, Ends s (.bkptClear h n) t h 0 [] ∧
        (∀ c ∈ coresOfSlice e.2, (Tab.getD t.compute.cores c {}).bkpts = (Tab.getD s.compute.cores c {}).bkpts.filter (fun k => k.number ≠ n)) ∧
        (∀ c, c ∉ coresOfSlice e.2 → Tab.getD t.compute.cores c {} = Tab.getD s.compute.cores c {}) ∧ t = { a with compute := { s.compute with cores := t.compute.cores } }))) ∧
  (∀ (s : State) (h : Hdr) (die cluster core strand : Nat) (e : Nat × Slice),
    let i := strandIx die cluster core strand
    (let o : OpInfo := { code := 0x7002, chan := .either };
      let a := accept s h o;
      Granted s h o → concerned a h = some e → debugDenied h e.2 = false →
      (strandNamed e.2 die cluster core strand = false → Ends s (.strandHalt h die cluster core strand) a h 0x0013 []) ∧
      (strandNamed e.2 die cluster core strand = true → (sliceStrand s e.2 i).st ≠ .ready → (sliceStrand s e.2 i).st ≠ .wait → Ends s (.strandHalt h die cluster core strand) a h 0x0011 []) ∧
      (strandNamed e.2 die cluster core strand = true → (sliceStrand s e.2 i).st = .ready ∨ (sliceStrand s e.2 i).st = .wait → holdsClusters e.2 = true → getSlice a e.1 = some e.2 → ∃ t, Ends s (.strandHalt h die cluster core strand) t h 0 [] ∧
        Tab.getD t.compute.strands i {} = haltStrand s.tb.time (Tab.getD s.compute.strands i {}) ∧ (∀ k, k ≠ i → Tab.getD t.compute.strands k {} = Tab.getD s.compute.strands k {}) ∧
        (∀ b ∈ (Tab.getD t.compute.cores (i / 32) {}).barriers, strand ∉ b.2.arrived) ∧ t = { a with compute := { s.compute with strands := t.compute.strands, cores := t.compute.cores } })) ∧
    (let o : OpInfo := { code := 0x7003, chan := .either };
      let a := accept s h o;
      Granted s h o → concerned a h = some e → debugDenied h e.2 = false →
      (strandNamed e.2 die cluster core strand = false → Ends s (.strandResume h die cluster core strand) a h 0x0013 []) ∧
      (strandNamed e.2 die cluster core strand = true → (sliceStrand s e.2 i).st ≠ .halted → Ends s (.strandResume h die cluster core strand) a h 0x0011 []) ∧
      (strandNamed e.2 die cluster core strand = true → (sliceStrand s e.2 i).st = .halted → holdsClusters e.2 = true → ∃ t x, Ends s (.strandResume h die cluster core strand) t h 0 [] ∧ x = Tab.getD s.compute.strands i {} ∧
        Tab.getD t.compute.strands i {} = { x with st := if x.haltWait then .wait else .ready, deadline := if x.haltWait && e.2.st = .resident then x.remain.map (fun r => s.tb.time + r) else none, remain := if x.haltWait && e.2.st ≠ .resident then x.remain else none, skipBkpt := x.haltBk.toList ++ x.skipBkpt, haltBk := none, haltWait := false, drained := true } ∧
        (∀ k, k ≠ i → Tab.getD t.compute.strands k {} = Tab.getD s.compute.strands k {}) ∧ t = { a with compute := { s.compute with strands := t.compute.strands } }))) ∧
  (∀ (s : State) (p : Pos) (e : Nat × Slice), strandSlice s p = some e → getSlice s e.1 = some e.2 →
    ((getStrand s p).st ≠ .halted ∨ (getStrand s p).drained = true ∨ haltEmpty s p = false → exec (.haltDrained p) s = .next s) ∧
    ((getStrand s p).st = .halted → (getStrand s p).drained = false → haltEmpty s p = true → ∃ t, exec (.haltDrained p) s = .next t ∧ getStrand t p = { getStrand s p with drained := true } ∧ (∀ q, q ≠ p → getStrand t q = getStrand s q) ∧
      (e.2.evRing.frozen = true → ownsHbm s p.die (dumpOff e.2 p) 2048 e.2.id = true → Memory.wf s.mem.bytes → Machine.memRead t.mem.bytes (memKey p.die (dumpOff e.2 p)) 2048 = dumpBytes t p) ∧
      t = { s with compute := { s.compute with strands := t.compute.strands, cores := t.compute.cores }, mem := { s.mem with bytes := t.mem.bytes, poison := t.mem.poison, sramPoison := t.mem.sramPoison }, fab := { s.fab with rings := t.fab.rings, groups := t.fab.groups }, ctl := { s.ctl with slices := t.ctl.slices }, freeCtr := t.freeCtr })) ∧
  (∀ (s : State) (h : Hdr) (source : BitVec 16) (action kind : Nat) (e : Nat × Slice), let o : OpInfo := { code := 0x7006, chan := .either }
    let a := accept s h o
    Granted s h o →
    (source = 0xFFFF → concerned a h = some e → debugDenied h e.2 = false →
      (2 < action ∨ (action = 2 ∧ (kind = 0 ∨ 9 < kind)) → Ends s (.eventFreeze h source action kind) a h 0x0013 []) ∧
      (action ≤ 1 ∨ (action = 2 ∧ 1 ≤ kind ∧ kind ≤ 9) → getSlice a e.1 = some e.2 → ∃ t, Ends s (.eventFreeze h source action kind) t h 0 [] ∧
        getSlice t e.1 = some { e.2 with evRing := { e.2.evRing with frozen := if action = 0 then false else if action = 1 then true else e.2.evRing.frozen, armed := if action = 2 then some kind else e.2.evRing.armed } } ∧
        t = { a with ctl := { a.ctl with slices := t.ctl.slices } })) ∧
    (source ≠ 0xFFFF →
      (h.channel ≠ 64 → Ends s (.eventFreeze h source action kind) a h 0x0010 []) ∧
      (h.channel = 64 → sourceDefined source.toNat = false ∨ 2 < action ∨ (action = 2 ∧ (kind = 0 ∨ 0x1D < kind)) → Ends s (.eventFreeze h source action kind) a h 0x0013 []) ∧
      (h.channel = 64 → sourceDefined source.toNat = true → action ≤ 1 ∨ (action = 2 ∧ 1 ≤ kind ∧ kind ≤ 0x1D) → ∃ t, Ends s (.eventFreeze h source action kind) t h 0 [] ∧
        (Tab.getD t.fleet.rings source.toNat {}).frozen = (if action = 0 then false else if action = 1 then true else (Tab.getD s.fleet.rings source.toNat {}).frozen) ∧
        (Tab.getD t.fleet.rings source.toNat {}).armed = (if action = 2 then some kind else (Tab.getD s.fleet.rings source.toNat {}).armed) ∧ t = { a with fleet := { s.fleet with rings := t.fleet.rings } })))

/-- R504 to R508, R514 to R518: samplers are enabled, triggered and write their samples; watermark units are enabled and write each step they close. -/
def Obligations.Observation : Prop :=
  (∀ (s : State) (h : Hdr) (c : SamplerCfg) (e : Nat × Slice), let o : OpInfo := { code := 0x7004, chan := .either }
    let a := accept s h o
    let x := getSampler s c.sampler
    Granted s h o → concerned a h = some e →
    (255 < c.sampler ∨ 1 < c.action → Ends s (.samplerCfg h c) a h 0x0013 []) ∧
    (c.sampler ≤ 255 → c.action ≤ 1 → x.st ≠ 0 → x.owner ≠ e.2.id ∨ c.action = 1 → Ends s (.samplerCfg h c) a h 0x0015 []) ∧
    (c.sampler ≤ 255 → c.action = 0 → x.st = 0 ∨ x.owner = e.2.id → ∃ t, Ends s (.samplerCfg h c) t h 0 [] ∧ getSampler t c.sampler = { x with st := 0 } ∧ t = { a with ctl := { a.ctl with samplers := t.ctl.samplers } }) ∧
    (c.sampler ≤ 255 → c.action = 1 → x.st = 0 →
      ((setInstances s e.2 c.set).isSome = true → samplerAllowed s h e.2 c = false → Ends s (.samplerCfg h c) a h 0x0010 []) ∧
      (samplerAllowed s h e.2 c = true → samplerFieldsOk s e.2 c = false → Ends s (.samplerCfg h c) a h 0x0013 []) ∧
      (samplerAllowed s h e.2 c = true → samplerFieldsOk s e.2 c = true → ∃ t, Ends s (.samplerCfg h c) t h 0 [] ∧
        getSampler t c.sampler = { owner := e.2.id, cfg := some c, st := if c.trigger = 1 ∨ c.trigger = 2 then 1 else 2, lastAt := s.tb.time, base := kindCount e.2 c.event } ∧
        (∀ k, k ≠ c.sampler → getSampler t k = getSampler s k) ∧ t = { a with ctl := { a.ctl with samplers := t.ctl.samplers } }))) ∧
  (∀ (s : State) (unit : Fin 256) (event : Nat) (x : Sampler) (c : SamplerCfg), x = getSampler s unit.val → x.cfg = some c →
    (c.trigger = 1 → x.st = 1 → c.t ≤ s.tb.time → ∃ t, exec (.samplerTrigger unit event) s = .next t ∧ getSampler t unit.val = { x with st := 2, trig := true, lastAt := s.tb.time } ∧ t = { s with ctl := { s.ctl with samplers := t.ctl.samplers } }) ∧
    (c.trigger = 1 → s.tb.time < c.t → exec (.samplerTrigger unit event) s = .next s) ∧
    (c.trigger ≠ 1 → event ≠ c.event → exec (.samplerTrigger unit event) s = .next s) ∧
    (c.trigger = 2 → x.st = 1 → event = c.event → eventCame s x c = true → ∃ t, exec (.samplerTrigger unit event) s = .next t ∧ getSampler t unit.val = { x with st := 2, trig := true, lastAt := s.tb.time }) ∧
    (c.trigger = 3 → x.st = 2 → event = c.event → eventCame s x c = true → ∃ t, exec (.samplerTrigger unit event) s = .next t ∧ getSampler t unit.val = { x with st := if c.post = 0 then 0 else 3, trig := true, postLeft := c.post })) ∧
  (∀ (s : State) (unit : Fin 256) (x : Sampler) (c : SamplerCfg) (e : Nat × Slice) (status : BitVec 16), x = getSampler s unit.val → x.cfg = some c → findSlice s x.owner = some e →
    (sampleDue s.tb.time x c = false → exec (.samplerSample unit status) s = .next s) ∧
    (sampleDue s.tb.time x c = true → x.st = 4 → ∃ t, exec (.samplerSample unit status) s = .next t ∧ getSampler t unit.val = { x with dropped := min (x.dropped + 1) 0xFFFF, lastAt := s.tb.time }) ∧
    (sampleDue s.tb.time x c = true → x.st = 2 ∨ x.st = 3 →
      (ownsHbm s c.die c.buf (2 ^ c.log2size) e.2.id = false ∨ status ≠ 0 → ∃ t, exec (.samplerSample unit status) s = .next t ∧ getSampler t unit.val = { x with st := 5 }) ∧
      (ownsHbm s c.die c.buf (2 ^ c.log2size) e.2.id = true → status = 0 → c.mode = 0 → Memory.wf s.mem.bytes → ∃ t y, exec (.samplerSample unit status) s = .next t ∧ y = getSampler t unit.val ∧ y.k = x.k + 1 ∧ y.trig = false ∧ y.lastAt = s.tb.time ∧
        (x.st = 2 → y.st = 2) ∧ (x.st = 3 → y.postLeft = x.postLeft - 1 ∧ y.st = if x.postLeft ≤ 1 then 0 else 3) ∧
        Machine.memRead t.mem.bytes (memKey c.die (c.buf + 64 + sampleBytes c * (x.k % sampleSlots c))) 64 = sampleHead s e.2 x c ∧ Machine.memRead t.mem.bytes (memKey c.die c.buf) 64 = bufferHead s y c))) ∧
  (∀ (s : State) (h : Hdr) (c : WatermarkCfg) (e : Nat × Slice), let o : OpInfo := { code := 0x7005, chan := .either }
    let a := accept s h o
    let w := getWm s c.unit
    Granted s h o → concerned a h = some e →
    (255 < c.unit ∨ 1 < c.action → Ends s (.watermarkCfg h c) a h 0x0013 []) ∧
    (c.unit ≤ 255 → c.action ≤ 1 → w.st ≠ 0 → w.owner ≠ e.2.id ∨ c.action = 1 → Ends s (.watermarkCfg h c) a h 0x0015 []) ∧
    (c.unit ≤ 255 → c.action = 1 → w.st = 0 → debugDenied h e.2 = true → Ends s (.watermarkCfg h c) a h 0x0010 []) ∧
    (c.unit ≤ 255 → c.action = 1 → w.st = 0 → debugDenied h e.2 = false →
      (wmFieldsOk s e.2 c = false → Ends s (.watermarkCfg h c) a h 0x0013 []) ∧ (wmFieldsOk s e.2 c = true → wmAllowed s e.2 c = false → Ends s (.watermarkCfg h c) a h 0x0010 []) ∧
      (wmFieldsOk s e.2 c = true → wmAllowed s e.2 c = true → ∃ t, Ends s (.watermarkCfg h c) t h 0 [] ∧ getWm t c.unit = { owner := e.2.id, cfg := some c, st := 1 } ∧ (∀ k, k ≠ c.unit → getWm t k = getWm s k) ∧ t = { a with ctl := { a.ctl with watermarks := t.ctl.watermarks } }))) ∧
  (∀ (s : State) (unit : Fin 256) (w : Watermark) (c : WatermarkCfg) (step at_ : Nat) (acc : WmAcc) (rest : List (Nat × Nat × WmAcc)) (status : BitVec 16), w = getWm s unit.val → w.cfg = some c → w.closed = (step, at_, acc) :: rest →
    let d := unit.val / 64
    let out := c.result + 128 * (step % 2 ^ c.log2slots)
    (w.st ≠ 1 → exec (.watermarkClose unit status) s = .next s) ∧
    (w.st = 1 → status ≠ 0 → ∃ t, exec (.watermarkClose unit status) s = .next t ∧ getWm t unit.val = { w with st := 2, closed := [] }) ∧
    (w.st = 1 → status = 0 → c.ref = 0 → ownsHbm s d out 128 w.owner = true → partialPoison s (memKey d out) 128 = false → Memory.wf s.mem.bytes → ∃ t, exec (.watermarkClose unit status) s = .next t ∧
      Machine.memRead t.mem.bytes (memKey d out) 128 = wmResult s step at_ acc false ∧ (∀ k, k < memKey d out ∨ memKey d out + 128 ≤ k → memByte t.mem.bytes k = memByte s.mem.bytes k) ∧
      (ownsCounter s d c.doneCtr w.owner = true → (counterVal t d c.doneCtr).toNat = min ((counterVal s d c.doneCtr).toNat + 1) (2 ^ 64 - 1)) ∧
      (ownsCounter s d c.doneCtr w.owner = false → getWm t unit.val = { w with closed := rest }) ∧
      t = { s with mem := { s.mem with bytes := t.mem.bytes, poison := t.mem.poison, sramPoison := t.mem.sramPoison }, fab := { s.fab with eps := t.fab.eps, rings := t.fab.rings, groups := t.fab.groups }, ctl := { s.ctl with watermarks := t.ctl.watermarks }, freeCtr := t.freeCtr }))

/-- R480 to R483, R489 to R493, R497, R500 to R502: a job-stop notice is forwarded once and stops its job, records are written and read, a source in storm makes its own, and drills are scheduled, announced and fired. -/
def Obligations.FleetHealth : Prop :=
  (∀ (s : State) (port : Fin 64) (job serial : BitVec 32) (origin : BitVec 20) (status : BitVec 16) (at_ : Nat),
    (seenStop s origin serial = true → exec (.stopNotice port job origin serial status at_) s = .next s) ∧
    (seenStop s origin serial = false → ∃ t, exec (.stopNotice port job origin serial status at_) s = .next t ∧ (origin, serial, s.tb.time) ∈ t.fleet.stops ∧
      (outsideExtent s = false → ∀ q ∈ floodPorts s (some (port.val / 4)), .neighbour q 0xE8 (stopBytes job origin serial.toNat status at_) ∈ t.out) ∧
      (∀ k sl, getSlice s k = some sl → sl.job = job → sl.lastRestart ≤ at_ → holdsClusters sl = true → ∀ i, ixInClusters sl.clusters i = true → (Tab.getD s.compute.strands i {}).st ≠ .free → (Tab.getD t.compute.strands i {}).st = .stopped))) ∧
  (∀ (s : State) (source : BitVec 16) (x : Source), x = getSource s source →
    (x.storm = true → x.enterDue = true → tenMs s x = true → ∃ t r, exec (.stormEnter source) s = .next t ∧ t.fleet.accepted = s.fleet.accepted ++ [r] ∧ r.event = evStormEnter ∧ r.source = source ∧ r.time = s.tb.time ∧ r.seq = s.fleet.nextSeq ∧
      (getSource t source).enterDue = false ∧ (getSource t source).storm = true ∧ (getSource t source).count = x.count ∧ (getSource t source).sinceRec = 0) ∧
    (x.storm = false ∨ x.enterDue = false → exec (.stormEnter source) s = .next s) ∧
    (x.storm = true → x.enterDue = false → x.stormRec + 4000000000 ≤ s.tb.time → ∃ t r, exec (.stormSummary source) s = .next t ∧ t.fleet.accepted = s.fleet.accepted ++ [r] ∧ r.event = evSummary ∧ r.source = source ∧ r.aux = BitVec.ofNat 64 x.sinceRec ∧
      (getSource t source).storm = true ∧ (getSource t source).sinceRec = 0 ∧ (getSource t source).stormRec = s.tb.time) ∧
    (s.tb.time < x.stormRec + 4000000000 → exec (.stormSummary source) s = .next s) ∧
    (x.storm = true → x.enterDue = false → x.lastErr + 4000000000 ≤ s.tb.time → tenMs s x = true → ∃ t r, exec (.stormExit source) s = .next t ∧ t.fleet.accepted = s.fleet.accepted ++ [r] ∧ r.event = evStormExit ∧ r.source = source ∧
      (getSource t source).storm = false ∧ (getSource t source).suppressed = 0) ∧
    (s.tb.time < x.lastErr + 4000000000 → exec (.stormExit source) s = .next s)) ∧
  (∀ (s : State) (r : BbRec) (rest : List BbRec),
    (s.fleet.accepted = [] → exec .blackboxWrite s = .next s) ∧
    (s.fleet.accepted = r :: rest → ∃ t, exec .blackboxWrite s = .next t ∧ t.fleet.accepted = rest ∧ t.fleet.records = (s.fleet.records ++ [r]).drop (s.fleet.records.length + 1 - 131072) ∧
      t.out = s.out ++ [.consoleRecord ((recBytes r).take 32)] ∧ (r.event ≠ evContinuation → (getSource t r.source).lastSeq = r.seq) ∧
      t = { s with fleet := { s.fleet with accepted := t.fleet.accepted, records := t.fleet.records, sources := t.fleet.sources }, out := t.out })) ∧
  (∀ (s : State) (h : Hdr) (start : Word) (n kind : Nat), let o : OpInfo := { code := 0x7007, chan := .admin, reserve := 16384, recovery := true }
    let a := accept s h o
    Granted s h o →
    (kind = 0 → 1 ≤ n → n ≤ 255 → Ends s (.blackboxRead h start n kind) a h 0 (bbPrefix s ++ ((s.fleet.records.filter (fun r => decide (start.toNat ≤ r.seq))).take n).flatMap recBytes)) ∧
    (kind = 1 → 1 ≤ n → n ≤ 255 → start.toNat < allSources.length → Ends s (.blackboxRead h start n kind) a h 0 (bbPrefix s ++ (sourceRange start.toNat n).flatMap (sourceBytes s))) ∧
    (kind = 2 → start = 0 → n = 1 → Ends s (.blackboxRead h start n kind) a h 0 (bbPrefix s ++ healthBytes s)) ∧
    (kind = 3 → 1 ≤ n → n ≤ 255 → start.toNat < allSources.length → ∃ t, Ends s (.blackboxRead h start n kind) t h 0 (bbPrefix s) ∧ t = { a with fleet := { s.fleet with sources := t.fleet.sources } } ∧
      (∀ k, Tab.getD t.fleet.sources k {} = if k ∈ sourceRange start.toNat n then clearFirst (Tab.getD s.fleet.sources k {}) else Tab.getD s.fleet.sources k {})) ∧
    (3 < kind ∨ (kind ≠ 2 ∧ (n = 0 ∨ 255 < n)) ∨ (kind = 2 ∧ (start ≠ 0 ∨ n ≠ 1)) → Ends s (.blackboxRead h start n kind) a h 0x0013 [])) ∧
  (∀ (s : State) (h : Hdr) (d : DrillCfg), let o : OpInfo := { code := 0x7008, chan := .adminSigned }
    Granted s h o →
    (drillFieldsOk s d = false → Ends s (.drillSchedule h d) (accept s h o) h 0x0013 []) ∧
    (drillFieldsOk s d = true → 16 ≤ s.fleet.drills.length → Ends s (.drillSchedule h d) (accept s h o) h 0x0015 []) ∧
    (drillFieldsOk s d = true → s.fleet.drills.length < 16 → Ends s (.drillSchedule h d) { accept s h o with fleet := { s.fleet with drills := s.fleet.drills ++ [d] } } h 0 [])) ∧
  (∀ (s : State) (id : Word) (d : DrillCfg) (port : Fin 64),
    (s.fleet.drills.find? (fun d => d.id = id && isPortDrill d) = some d →
      (s.tb.time + 80000 < d.t ∨ id ∈ s.fleet.noted → exec (.drillNoteSend id) s = .next s) ∧
      (d.t ≤ s.tb.time + 80000 → id ∉ s.fleet.noted → (getLink s d.port).st = .active → exec (.drillNoteSend id) s =
        .next { s with fleet := { s.fleet with noted := s.fleet.noted ++ [id] }, out := s.out ++ sends s [.neighbour d.port 0xF2 []] })) ∧
    (∃ t, exec (.drillNote port) s = .next t ∧ (getSource t (srcPort port.val)).drillFrom = s.tb.time + 80000 ∧ (getSource t (srcPort port.val)).drillUntil = s.tb.time + 80000 + 400000000 ∧ t = { s with fleet := { s.fleet with sources := t.fleet.sources } }) ∧
    (s.fleet.drills.find? (fun d => d.id = id) = some d →
      (s.tb.time < d.t → exec (.drillFire id) s = .next s) ∧
      (d.t ≤ s.tb.time → isPortDrill d = false ∨ id ∈ s.fleet.noted →
        (drillHolds s d = false → ∃ t, exec (.drillFire id) s = .next t ∧ t.fleet.drills = s.fleet.drills.erase d ∧ Reported s t (srcKind 0xE 0) evDrill ∧ t = { s with fleet := t.fleet, freeCtr := t.freeCtr }) ∧
        (drillHolds s d = true → d.kind = 1 → ∃ t, exec (.drillFire id) s = .next t ∧ t.fleet.drills = s.fleet.drills.erase d ∧ t.out = s.out ++ [.flitCorrupt d.port] ∧ t.net = s.net) ∧
        (drillHolds s d = true → d.kind = 2 → ∃ t, exec (.drillFire id) s = .next t ∧ t.fleet.drills = s.fleet.drills.erase d ∧ ((getLink t d.port).dropping = true ∨ (getLink t d.port).st = .light)) ∧
        (∀ c, drillGroup s d.gid = some c → d.kind = 4 → ∃ t, exec (.drillFire id) s = .next t ∧ t.fleet.drills = s.fleet.drills.erase d ∧ getGroup t c = { getGroup s c with holdArrive := some (d.amount * 4) }) ∧
        (∀ c, drillGroup s d.gid = some c → d.kind = 5 → (getGroup s c).op = none → ∃ t, exec (.drillFire id) s = .next t ∧ t.fleet.drills = s.fleet.drills.erase d ∧ getGroup t c = { getGroup s c with drillAbort := true }))))

/-- R470, R473 to R477: an image is staged, written, verified and activated; the slots' status is read; the test port is unlocked, and a TCK cycle moves its controller. -/
def Obligations.FirmwareAndTest : Prop :=
  (∀ (s : State) (h : Hdr) (slot kind length : Nat), let o : OpInfo := { code := 0x8000, chan := .admin, recovery := true }
    let a := accept s h o
    let busy := s.ctl.fw.staged.any (fun x => x.opened)
    Granted s h o →
    (runningSlot s kind slot = true → Ends s (.fwStageBegin h slot kind length) a h 0x0011 []) ∧
    (runningSlot s kind slot = false → busy = true → Ends s (.fwStageBegin h slot kind length) a h 0x0015 []) ∧
    (runningSlot s kind slot = false → busy = false → beginParam slot kind length = true → Ends s (.fwStageBegin h slot kind length) a h 0x0013 []) ∧
    (runningSlot s kind slot = false → busy = false → beginParam slot kind length = false → ∃ t, Ends s (.fwStageBegin h slot kind length) t h 0 [] ∧
      t.ctl.fw.staged = some { kind := kind, slot := slot, length := length } ∧ t.ctl.fw.active = s.ctl.fw.active ∧ (kind = 1 → slotOf t.ctl.fw slot = { changed := s.tb.time }) ∧ (kind ≠ 1 → t.ctl.fw.other = { changed := s.tb.time }) ∧
      t = { a with ctl := { a.ctl with fw := t.ctl.fw } })) ∧
  (∀ (s : State) (h : Hdr) (offset : Nat) (data : List Byte) (x : Staged), let o : OpInfo := { code := 0x8001, chan := .admin, recovery := true }
    let a := accept s h o
    Granted s h o →
    (s.ctl.fw.staged = none ∨ (s.ctl.fw.staged = some x ∧ x.opened = false) → Ends s (.fwStageData h offset data) a h 0x0011 []) ∧
    (s.ctl.fw.staged = some x → x.opened = true → x.length < offset + data.length → Ends s (.fwStageData h offset data) a h 0x0013 []) ∧
    (s.ctl.fw.staged = some x → x.opened = true → offset + data.length ≤ x.length → ∃ (t : State) (b : List Byte), Ends s (.fwStageData h offset data) t h 0 [] ∧ t.ctl.fw = { s.ctl.fw with staged := some { x with bytes := b } } ∧
      (b.drop offset).take data.length = data ∧ (offset ≤ x.bytes.length → b.take offset = x.bytes.take offset) ∧ b.drop (offset + data.length) = x.bytes.drop (offset + data.length) ∧
      t = { a with ctl := { a.ctl with fw := t.ctl.fw }, freeCtr := t.freeCtr })) ∧
  (∀ (s : State) (h : Hdr) (ok : Bool) (x : Staged), let o : OpInfo := { code := 0x8002, chan := .admin, reserve := 1024, recovery := true }
    let a := accept s h o
    Granted s h o →
    (s.ctl.fw.staged = none ∨ (s.ctl.fw.staged = some x ∧ x.opened = false) → Ends s (.fwStageEnd h ok) a h 0x0011 []) ∧
    (s.ctl.fw.staged = some x → x.opened = true → x.bytes.length = x.length →
      (imageOk s x.kind x.bytes ok = true → ∃ t, Ends s (.fwStageEnd h ok) t h 0 (stageReport x x.bytes 0) ∧ t.ctl.fw.staged = some { x with opened := false, verified := true, svn := imgSvn x.bytes } ∧ Reported a t (srcKind 0xC (firmwareUnit x.kind)) evFirmware) ∧
      (imageOk s x.kind x.bytes ok = false → ∃ t, Ends s (.fwStageEnd h ok) t h 0x0012 (stageReport x x.bytes 0x0012) ∧ t.ctl.fw.staged = none ∧ t = { a with ctl := { a.ctl with fw := t.ctl.fw } }))) ∧
  (∀ (s : State) (h : Hdr) (slot : Nat) (x : Staged), let o : OpInfo := { code := 0x8003, chan := .adminSigned, recovery := true }
    let a := accept s h o
    let sent := Emit.status 64 0x8003 h.tag h.slice h.version 0 (hlFlags false false false (chanSession s 64)) 0 [] s.tb.time
    Granted s h o →
    (s.ctl.fw.staged = none ∨ (s.ctl.fw.staged = some x ∧ (x.verified = false ∨ x.slot ≠ slot)) → Ends s (.fwActivate h slot) a h 0x0011 []) ∧
    (s.ctl.fw.staged = some x → x.verified = true → x.slot = slot →
      (x.kind = 6 → Ends s (.fwActivate h slot) a h 0x0013 []) ∧
      (s.ctl.trust.recovery = false → x.kind = 1 → ∃ t, exec (.fwActivate h slot) s = .next t ∧ t.ctl.fw.active = slot ∧ t.ctl.fw.previous = s.ctl.fw.active ∧ t.ctl.fw.activatedAt = some s.tb.time ∧ t.ctl.fw.staged = none ∧ (5, s.tb.time) ∈ t.rst.busy ∧ t.ctl.txns = [] ∧ sent ∈ t.out) ∧
      (s.ctl.trust.recovery = false → x.kind = 2 → ∃ t, exec (.fwActivate h slot) s = .next t ∧ t.ctl.fw.patchDigest = sha384 x.bytes ∧ Tab.find t.ctl.records.minSvn 2 = some x.svn ∧ t.ctl.fw.staged = none ∧ (6, s.tb.time) ∈ t.rst.busy ∧ sent ∈ t.out) ∧
      (s.ctl.trust.recovery = false → x.kind = 3 ∨ x.kind = 4 ∨ x.kind = 5 → ∃ t, exec (.fwActivate h slot) s = .next t ∧ Tab.find t.ctl.records.written x.kind = some (imgBody x.bytes) ∧ t.ctl.fw.staged = none ∧ t.rst = s.rst ∧ t.out = s.out ++ [sent]))) ∧
  (∀ (s : State) (h : Hdr), let o : OpInfo := { code := 0x8004, chan := .admin, reserve := 1024, recovery := true }
    Granted s h o → Ends s (.fwStatus h) (accept s h o) h 0 (slotBytes s.ctl.fw.slotA ++ slotBytes s.ctl.fw.slotB ++ slotBytes s.ctl.fw.other)) ∧
  (∀ (s : State) (h : Hdr) (digest : List Byte) (x : Staged), let o : OpInfo := { code := 0x7009, chan := .adminSigned }
    let a := accept s h o
    Granted s h o →
    (s.ctl.slices ≠ [] ∨ s.ctl.trust.testUnlocked = true → Ends s (.testUnlock h digest) a h 0x0011 []) ∧
    (s.ctl.slices = [] → s.ctl.trust.testUnlocked = false → unlockImage s digest = none → Ends s (.testUnlock h digest) a h 0x0012 []) ∧
    (s.ctl.slices = [] → s.ctl.trust.testUnlocked = false → unlockImage s digest = some x → ∃ t, Ends s (.testUnlock h digest) t h 0 [] ∧ t.ctl.trust.testUnlocked = true ∧ t.ctl.trust.scopeBits = BitVec.ofNat 16 (leAt (imgBody x.bytes) 0 2) ∧
      t.ctl.trust.unlockSerial = leAt (imgBody x.bytes) 8 8 ∧ t.ctl.trust.idLeft = s.ctl.trust.idLeft - 1 ∧ t.fab = { s.fab with mouldKeys := [] } ∧ t.ctl.fw.staged = none ∧ t.fleet.accepted.length = s.fleet.accepted.length + 183)) ∧
  (∀ (s : State) (tms tdi trstN : Bool) (pins : Nat), let n := tapNext s.ctl.tap.st tms
    (s.ctl.trust.testUnlocked = false ∨ trstN = false → exec (.tck tms tdi trstN pins) s = .next { s with ctl := { s.ctl with tap := tapReset s.ctl.tap } }) ∧
    (s.ctl.trust.testUnlocked = true → trstN = true →
      (n ≠ .updateIr → ∃ t, exec (.tck tms tdi trstN pins) s = .next t ∧ t.ctl.tap.st = n ∧ t = { s with ctl := { s.ctl with tap := t.ctl.tap }, freeCtr := t.freeCtr } ∧
        (s.ctl.tap.st = .shiftDr ∨ s.ctl.tap.st = .shiftIr → t.ctl.tap.shift = s.ctl.tap.shift.drop 1 ++ [tdi]) ∧ (n = .shiftDr ∨ n = .shiftIr → t.ctl.tap.tdo = t.ctl.tap.shift.head?) ∧
        (s.ctl.tap.st = .captureDr → tapSelects s.ctl.trust.scopeBits s.ctl.tap.ir = 0 → t.ctl.tap.shift = [false]) ∧ (s.ctl.tap.st = .captureDr → tapSelects s.ctl.trust.scopeBits s.ctl.tap.ir ≠ 0 → t.ctl.tap.shift = landLevels pins) ∧
        (n = .updateDr → tapSelects s.ctl.trust.scopeBits s.ctl.tap.ir ≠ 0 → t.ctl.tap.boundary = s.ctl.tap.shift)) ∧
      (n = .updateIr → tapSelects s.ctl.trust.scopeBits s.ctl.tap.shift ≠ 3 → ∃ t, exec (.tck tms tdi trstN pins) s = .next t ∧ t.ctl.tap.ir = s.ctl.tap.shift ∧ t.ctl.tap.st = .updateIr) ∧
      (n = .updateIr → tapSelects s.ctl.trust.scopeBits s.ctl.tap.shift = 3 → exec (.tck tms tdi trstN pins) s = .refused .factoryInstruction)))

/-- R465 to R470, R476, R529, R533, R537: the reset domains lose what each must, the pins and REFCLK hold and release the module, rails come up in order, start-up goes step by step, a dead steward is reset or its image taken back, and a reset ends. -/
def Obligations.Resets : Prop :=
  (∀ (s : State) (h : Hdr) (domain : BitVec 8), let o : OpInfo := { code := 0x0008, chan := .adminSigned, recovery := decide (domain = 8) }
    let sent := Emit.status 64 0x0008 h.tag h.slice h.version 0 (hlFlags false false false (chanSession s 64)) 0 [] s.tb.time
    Granted s h o →
    (domain = 0 ∨ 8 < domain.toNat → Ends s (.domainReset h domain) (accept s h o) h 0x0013 []) ∧
    (1 ≤ domain.toNat → domain.toNat ≤ 4 → slicesOnDie s (domain.toNat - 1) ≠ [] → Ends s (.domainReset h domain) (accept s h o) h 0x0011 []) ∧
    (domain = 7 → s.ctl.slices ≠ [] → Ends s (.domainReset h domain) (accept s h o) h 0x0011 []) ∧
    (5 ≤ domain.toNat → domain.toNat ≤ 6 → resetBusy s domain.toNat = true → Ends s (.domainReset h domain) (accept s h o) h 0x0015 []) ∧
    (domainRefused s domain.toNat = none → ∃ t, exec (.domainReset h domain) s = .next t ∧ sent ∈ t.out ∧
      (∀ p : Pos, p.die.val + 1 = domain.toNat → getStrand t p = {} ∧ (∀ g < 16, (getGran t p.die g).st = .scrubbing ∨ (getGran t p.die g).st = .retired ∨ (getGran t p.die g).st = .absent) ∧ t.rst.dieUp.getLsbD p.die.val = false ∧ (domain.toNat, s.tb.time) ∈ t.rst.busy) ∧
      (domain = 5 → t.ctl.txns = [] ∧ (5, s.tb.time) ∈ t.rst.busy ∧ t.compute = s.compute ∧ (∀ c, getGroup t c = { getGroup s c with aborters := [] }) ∧ t.fab = { s.fab with groups := t.fab.groups } ∧ t.mem = s.mem) ∧
      (domain = 6 → (6, s.tb.time) ∈ t.rst.busy ∧ t.compute = s.compute ∧ t.fab = s.fab ∧ t.mem = s.mem) ∧
      (domain = 7 → t.rst.step = 4 ∧ (7, s.tb.time) ∈ t.rst.busy ∧ t.fab = {} ∧ t.compute.strands = [] ∧ t.net.ports = [] ∧ t.pins.transmitters = false ∧ t.tb.time = s.tb.time) ∧
      (domain = 8 → s.rst.resetN = true → s.rst.pwrOk = true → s.rst.refclk = true → t.rst.step = 1 ∧ t.rst.busy = [(8, 0)] ∧ t.tb.time = 0 ∧ t.compute = State.reset.compute ∧ t.fab = State.reset.fab ∧ t.ctl.slices = [] ∧ t.mem.bytes = []))) ∧
  (∀ (s : State) (pwrOk : Bool) (straps : List (Option (BitVec 4))),
    (s.rst.resetN = true → s.rst.pwrOk = true → ∃ t, exec (.resetNAssert pwrOk) s = .next t ∧ t.rst = { resetN := false, pwrOk := pwrOk, refclk := s.rst.refclk, straps := s.rst.straps, boot := (s.rst.boot + 1) % 2 ^ 16, busy := [(8, 0)] } ∧
      t.compute = State.reset.compute ∧ t.fab = State.reset.fab ∧ t.net = State.reset.net ∧ t.pw = State.reset.pw ∧ t.caps = State.reset.caps ∧ t.mem = { repairQueue := s.mem.repairQueue } ∧ t.pins = { throttleN := s.pins.throttleN } ∧ t.tb.time = 0 ∧ t.tb.st = .free ∧
      t.ctl.slices = [] ∧ t.ctl.txns = [] ∧ t.ctl.channels = [] ∧ t.ctl.trust.opKey = s.ctl.trust.opKey ∧ t.ctl.trust.ocount = s.ctl.trust.ocount ∧ t.ctl.trust.identity = s.ctl.trust.identity ∧ t.ctl.trust.recovery = false ∧
      t.ctl.fw = { s.ctl.fw with staged := s.ctl.fw.staged.filter (fun x => x.verified), activatedAt := none } ∧ t.fleet.records = s.fleet.records ∧ t.out = s.out ∧ t.pending = s.pending) ∧
    (s.rst.resetN = false ∨ s.rst.pwrOk = false → exec (.resetNAssert pwrOk) s = .next { s with rst := { s.rst with resetN := false, pwrOk := pwrOk } }) ∧
    (s.rst.resetN = true → exec (.resetNRelease straps) s = .next s) ∧
    (s.rst.resetN = false → s.rst.refclk = false → exec (.resetNRelease straps) s = .next { s with rst := { s.rst with resetN := true, pwrOk := true, straps := straps } }) ∧
    (s.rst.resetN = false → s.rst.refclk = true → ∃ t, exec (.resetNRelease straps) s = .next t ∧ t.rst = { s.rst with resetN := true, pwrOk := true, straps := straps, step := 1, stopped := false, busy := [(8, 0)] } ∧ (getRail t 5).st = 2 ∧
      (∀ v, s.ctl.records.coords.getD 0 none = none → straps.getD 0 none = some v → v.toNat < 4 → t.net.route.w = v.toNat) ∧ (s.ctl.records.coords.getD 0 none = none → straps.getD 0 none = none → t.net.route.w = 0xF) ∧
      t.pw.throttle = (s.pw.throttle || !s.pins.throttleN) ∧ t.out = s.out ++ [.console 1 [0x0D, 0x0A]]) ∧
    (s.rst.refclk = true → ∃ t, exec .refclkLoss s = .next t ∧ t.rst.refclk = false ∧ t.rst.step = 0 ∧ t.rst.busy = [(8, 0)] ∧ t.tb.time = 0 ∧ (∃ r : BbRec, t.fleet.accepted = s.fleet.accepted ++ [r] ∧ r.source = srcKind 0xA 2 ∧ r.event = evReset ∧ r.status = 0x0007)) ∧
    (s.rst.refclk = false → exec .refclkLoss s = .next s) ∧
    (s.rst.refclk = true → exec .refclkValid s = .next s) ∧
    (s.rst.refclk = false → s.rst.resetN = true → s.rst.pwrOk = true → ∃ t, exec .refclkValid s = .next t ∧ t.rst = { s.rst with refclk := true, step := 1, stopped := false, busy := [(8, 0)] }) ∧
    (s.rst.refclk = false → s.rst.resetN = false ∨ s.rst.pwrOk = false → exec .refclkValid s = .next { s with rst := { s.rst with refclk := true } })) ∧
  (∀ (s : State) (rail : Fin 6) (ok : Bool) (unitsOk : BitVec 16) (dies : BitVec 4) (id : Bool), let n := s.rst.step + 1
    (railOrder[s.rst.rails]? = some rail.val → (getRail s rail.val).st = 1 → s.rst.stopped = false → (∃ t, exec (.railUp rail true) s = .next t ∧ t.rst.rails = s.rst.rails + 1 ∧ (getRail t rail.val).st = 2 ∧
        (∀ k, railOrder[s.rst.rails + 1]? = some k → s.ctl.trust.recovery = false → (getRail t k).st = 1 ∧ (getRail t k).target = recordMv s.ctl.records k ∧ t.out = s.out ++ [.avs k (recordMv s.ctl.records k)])) ∧
      (∃ t, exec (.railUp rail false) s = .next t ∧ t.rst.stopped = true ∧ t.pins.faultN = false ∧ Reported s t (srcKind 0xB rail.val) evRailFault)) ∧
    (railOrder[s.rst.rails]? ≠ some rail.val ∨ (getRail s rail.val).st ≠ 1 ∨ s.rst.stopped = true → ∀ b, exec (.railUp rail b) s = .next s) ∧
    (n < 2 ∨ 10 < n ∨ s.rst.stopped = true ∨ (∀ b ∈ s.rst.busy, b.1 < 7) ∨ stepReady s n = false → exec (.startUpStep ok unitsOk dies id) s = .next s) ∧
    (2 ≤ n → n ≤ 10 → s.rst.stopped = false → (∃ b ∈ s.rst.busy, 7 ≤ b.1) → stepReady s n = true → ∃ t sent, exec (.startUpStep ok unitsOk dies id) s = .next t ∧ t.rst.step = n ∧ t.out = s.out ++ sent ++ [.console n [0x0D, 0x0A]] ∧
      (n = 2 → t.ctl.trust.recovery = (s.ctl.trust.recovery || !id)) ∧ (n = 3 ∨ n = 4 → t.ctl.trust.recovery = (s.ctl.trust.recovery || !ok)) ∧
      (n = 5 → t.pins.transmitters = true ∧ (s.ctl.trust.recovery = false → ok = true → t.ctl.trust.idLeft = s.ctl.trust.idLeft - (if s.ctl.trust.akl = none then 1 else 0) ∧ t.ctl.trust.akl.isSome = true ∧ ∃ m, t.ctl.trust.fc = { made := m, subject := s.ctl.trust.identity, opDigest := sha384 s.ctl.trust.opKey, notBefore := timeOfDay s })) ∧
      (n = 5 → s.ctl.trust.recovery = false → ok = false → (slotOf s.ctl.fw (1 - s.ctl.fw.active)).st ≠ 1 → t.ctl.trust.recovery = true) ∧
      (n = 3 → ok = true → t.rst.variant = s.ctl.records.variant ∧ t.rst.stepping = s.ctl.records.stepping) ∧ (n = 3 → ok = false → t.rst.variant = s.rst.variant ∧ t.rst.stepping = s.rst.stepping) ∧
      (n = 6 → t.rst.oeOk = unitsOk) ∧ (n = 8 → t.rst.hbmOk = unitsOk) ∧ (n = 10 → t.rst.dieUp = s.rst.dieOut &&& dies) ∧
      (n = 7 → ∀ d < 4, (dies.getLsbD d = true → (getRail s (dieRail d)).st = 2 → t.rst.dieOut.getLsbD d = true ∧ (getPwDie t d).pwr = 2) ∧ (t.rst.spareUsed.getLsbD d = decide ((servicePcls s d).length < 13 ∧ 12 ∈ servicePcls s d)) ∧ ∀ l < 12, physCluster t d l = (servicePcls s d).getD l 0xF))) ∧
  (∀ (s : State) (die : Fin 4) (cause : CdResetCause),
    (resetBusy s (die.val + 1) = true ∨ cdResetDue s die.val cause = false → exec (.autonomousCdReset die cause) s = .next s) ∧
    (resetBusy s (die.val + 1) = false → cdResetDue s die.val cause = true → ∃ t, exec (.autonomousCdReset die cause) s = .next t ∧ (die.val + 1, s.tb.time) ∈ t.rst.busy ∧ t.rst.dieUp.getLsbD die.val = false ∧
      (∀ p : Pos, p.die = die → getStrand t p = {}) ∧ (getPwDie t die.val).pwr = 2 ∧ (getPwDie t die.val).point = 1600)) ∧
  (∀ s : State,
    (resetBusy s 5 = true ∨ s.ctl.trust.recovery = true ∨ s.rst.step < 5 → exec .stewardHeartbeatTimeout s = .next s) ∧
    (resetBusy s 5 = false → s.ctl.trust.recovery = false → 5 ≤ s.rst.step → s.ctl.fw.activatedAt = none → ∃ t, exec .stewardHeartbeatTimeout s = .next t ∧ t.ctl.txns = [] ∧ (5, s.tb.time) ∈ t.rst.busy ∧ t.ctl.fw = s.ctl.fw ∧ t.compute = s.compute) ∧
    (∀ a, resetBusy s 5 = false → s.ctl.trust.recovery = false → 5 ≤ s.rst.step → s.ctl.fw.activatedAt = some a → a + 20000000000 ≤ s.tb.time → ∃ t, exec .stewardHeartbeatTimeout s = .next t ∧ t.ctl.fw.active = s.ctl.fw.previous ∧ t.ctl.fw.activatedAt = none ∧ t.ctl.txns = [] ∧ (5, s.tb.time) ∈ t.rst.busy) ∧
    (∀ a, s.ctl.fw.activatedAt = some a → s.tb.time < a + 20000000000 → exec .stewardHeartbeatTimeout s = .next s) ∧
    (s.ctl.fw.activatedAt = none → exec .fwConfirm s = .next s) ∧
    (∀ a, s.ctl.fw.activatedAt = some a → s.tb.time < a + 240000000000 → exec .fwConfirm s = .next s) ∧
    (∀ a, s.ctl.fw.activatedAt = some a → a + 240000000000 ≤ s.tb.time → resetBusy s 5 = false → ∃ t, exec .fwConfirm s = .next t ∧ (slotOf t.ctl.fw s.ctl.fw.active).confirmed = true ∧ t.ctl.fw.activatedAt = none ∧ t.ctl.fw.active = s.ctl.fw.active ∧
      Tab.find t.ctl.records.minSvn 1 = some (slotOf s.ctl.fw s.ctl.fw.active).svn ∧ Reported s t (srcKind 0xC 1) evFirmware)) ∧
  (∀ (s : State) (domain : BitVec 4),
    ((∀ b ∈ s.rst.busy, b.1 ≠ domain.toNat) ∨ resetDone s domain.toNat = false → exec (.resetComplete domain) s = .next s) ∧
    ((∃ b ∈ s.rst.busy, b.1 = domain.toNat) → resetDone s domain.toNat = true → ∃ t, exec (.resetComplete domain) s = .next t ∧ t.rst.busy = s.rst.busy.filter (fun b => b.1 ≠ domain.toNat) ∧
      (1 ≤ domain.toNat → domain.toNat ≤ 4 → t.rst.dieUp.getLsbD (domain.toNat - 1) = true ∧ t.rst.dieOut.getLsbD (domain.toNat - 1) = true) ∧ (domain = 6 → t.ctl.trust.idLeft = s.ctl.trust.idLeft ∧ ∃ m, t.ctl.trust.fc = { made := m, subject := s.ctl.trust.identity, opDigest := sha384 s.ctl.trust.opKey, notBefore := timeOfDay s }) ∧
      (∀ d < 4, domain.toNat = d + 1 → (getHbm t d).patrolOn = true ∧ ((getHbm s d).patrolOn = false → ∀ k < 4, (getStack t (4 * d + k)).link = if s.rst.hbmOk.getLsbD (4 * d + k) then 1 else 2)) ∧
      t = { s with rst := t.rst, pwDies := t.pwDies, mem := { s.mem with dies := t.mem.dies, stks := t.mem.stks }, ctl := { s.ctl with trust := t.ctl.trust }, freeCtr := t.freeCtr }))

/-- The Reset columns (R6): what the registers read at the end of a MODULE reset, before start-up, where the column gives a number. Each row holds block, register, a mask that leaves out the fields whose column names a source, and the value. At reset every strand is FREE with p0 alone set (R69, R70), no slice, transaction, ring or group is defined, fabric time is 0, every port is OFF, and both caps are 4,400 W (R447). That s1 to s63 start at 0, that no byte of memory is listed, and that no command waits are the model's own choices (log entries 11, 10 and 1). -/
def Obligations.ResetRegisters : Prop :=
  (∀ x ∈ ([(1, 0, 0xFFFFFFFFFFFFFFF0, 0xF0), (1, 1, 0xFFF0000000000000, 0), (1, 2, 0xFFFFFFFFFFFFFFFF, 0), (1, 3, 0xFFFFFFFFFFFFFFFF, 0), (1, 4, 0xFFFFFFFFFFFFFFFF, 0),
      (2, 0, 0xFFFFFFFFFFFFFFFF, 2), (2, 1, 0xFFFFFFFFFFFFFFFF, 0), (2, 2, 0xFFFFFFFFFFFFFFFF, 0), (2, 3, 0xFFFFFFFFFFF0FFFF, 0x18000000),
      (3, 0, 0xFFFFFFFFFFFF00F0, 0x10000), (3, 1, 0xFFFFFFFFFFFFFFFF, 0), (3, 2, 0xFFFFFFFFFFFFFFFF, 0),
      (4, 0, 0xFFFFFFFFFFF03FFF, 0), (4, 1, 0xFFFFFFFFFFF0000F, 0), (4, 2, 0xFFFFFFFFFFFFFFFF, 0x100), (4, 3, 0xFFFFFFFFFFFFFFFF, 0), (4, 4, 0xFFFFFFFFFFFFFFFF, 0), (4, 5, 0xFFFFFFFFFFFFFFFF, 0),
      (4, 6, 0xFFFFFFFFFFFFFFFF, 0x92008F4020760303), (4, 8, 0xFFFFFFFFFFFFFFFF, 0),
      (5, 0, 0xFFFFFFFFFFFFFFFF, 0), (5, 1, 0xFFFFFFFFFFFFFFE0, 0x80000100), (5, 2, 0xFFFFFFFFFFFFFFFF, 0x8080000000000000),
      (6, 0, 0xFFFFFFFFFFFFFFFF, 0), (6, 1, 0xFFFFFFFFFFFFFFFF, 0), (7, 0, 0xFFFFFFFFFFFFFFFF, 0), (7, 1, 0xFFFFFFFFFFFFFFFF, 0),
      (8, 0, 0xFFFFFFFFFFFFFFFF, 0), (8, 1, 0xFFFFFFFFFFFFFFFF, 0), (8, 2, 0xFFFFFFFFFFFF00FF, 2),
      (9, 0, 0xFFFFFFFFFFFFFFFF, 0), (9, 2, 0xFFFFFFFFFFFFFFE0, 0x80000100), (10, 0, 0xFFFFFFFFFFFF0000, 0), (10, 1, 0xFFFFF800003FFFFF, 0x8000000000000000),
      (11, 0, 0xFFFFFFFFFFFFFFFF, 0), (11, 1, 0xFFFFFFFFFFFFFFFF, 0x113011301130), (11, 2, 0xFFFFFFFF0000FFFF, 0), (11, 3, 0xFFFFFFFFFFFFFFFF, 0),
      (12, 0, 0xFFFFFFFFFFFFFFFF, 0xFFFF000000000000), (12, 1, 0xFFFFFFFFFFFFFFFF, 0xFFFF000000000000)] : List (Nat × Nat × Word × Word)),
    ∀ i, regExists x.1 x.2.1 i = true → regRead State.reset x.1 x.2.1 i &&& x.2.2.1 = x.2.2.2) ∧
  (∀ i < 90, regRead State.reset 4 7 i = if i < 64 then 0x2000001322 else 0x1000001322) ∧
  (∀ i < 65, regRead State.reset 9 1 i = if i < 64 then 0xFFFF000004000000 else 0xFFFF000010000000) ∧
  (∀ i, regExists 12 2 i = true → regRead State.reset 12 2 i = if i % 4 = 2 then 0xFFFF000000000000 else 0) ∧
  (∀ p, getStrand State.reset p = {} ∧ (getStrand State.reset p).st = .free ∧ rdP (getStrand State.reset p) 0 = true ∧ ∀ r, rd (getStrand State.reset p) r = 0) ∧
  (∀ p k, rdKey (getStrand State.reset p) k = 0 ∧ (getStrand State.reset p).wto = 0 ∧ (getStrand State.reset p).tvec = 0 ∧ (getStrand State.reset p).epc = 0 ∧ (getStrand State.reset p).flags = 0 ∧ (getStrand State.reset p).tval = 0) ∧
  Memory.wf State.reset.mem.bytes ∧ State.reset.mem.bytes = [] ∧ State.reset.ctl.slices = [] ∧ State.reset.ctl.txns = [] ∧ State.reset.tb.time = 0 ∧ State.reset.pending = [] ∧
  State.reset.caps = { rack := 4400, host := 4400, rackLow := false, hostLow := false, inForce := 4400 } ∧ (∀ p, (getLink State.reset p).st = .off) ∧ (∀ c, (getGroup State.reset c).st = .undefined) ∧ (∀ r, (getRing State.reset r).st = .undefined)

/-- A step takes the command at the front of the queue and answers what exec answers on the rest; on an empty queue the block idles (log entry 1). -/
def Obligations.StepRunsFront : Prop :=
  (∀ (s : State) (c : Instr) (rest : List Instr), s.pending = c :: rest → step s = exec c { s with pending := rest }) ∧
  (∀ s : State, s.pending = [] → step s = .next s) ∧
  (∀ (s : State) (c : Instr) (rest : List Instr) (t : State), s.pending = c :: rest → step s = .next t → t.pending = rest)

/-- The memory's canonical form is an invariant of every step: addresses strictly rise and no byte that reads 0 is listed. At State.reset it holds. -/
def Obligations.EveryStepKeepsMemory : Prop :=
  Memory.wf State.reset.mem.bytes ∧ ∀ s t : State, Memory.wf s.mem.bytes → step s = .next t → Memory.wf t.mem.bytes

/-- No instruction of a strand changes the time base (a read of FTIME only names the instant it comes at), the caps, power, rails, resets, pins, the switch, a fabric link, trust, firmware, transactions, the cluster map, a deckle, a mould key, a granule, a stack, a record of MRAM or a drill: what it changes lies in strands, cores, clusters, bytes of memory with their marks, the endpoints' and the couch's work, the slices' own books, the statuses of commands that wait for what it ends, and the event records. -/
def Obligations.StrandsStayWithin : Prop :=
  ∀ (i : Instr) (p : Pos) (s t : State), strandOf i = some p → exec i s = .next t →
    t = { s with
      compute := { s.compute with strands := t.compute.strands, cores := t.compute.cores, clusters := t.compute.clusters, viaSwitch := t.compute.viaSwitch }
      tb := { s.tb with time := t.tb.time }
      mem := { s.mem with bytes := t.mem.bytes, poison := t.mem.poison, sramPoison := t.mem.sramPoison }
      fab := { t.fab with deckles := s.fab.deckles, mouldKeys := s.fab.mouldKeys }
      net := { s.net with links := t.net.links, portCtrs := t.net.portCtrs }
      ctl := { s.ctl with hl := { s.ctl.hl with outbox := t.ctl.hl.outbox }, slices := t.ctl.slices, channels := t.ctl.channels, watermarks := t.ctl.watermarks }
      fleet := { t.fleet with records := s.fleet.records, drills := s.fleet.drills, window := s.fleet.window, suspect := s.fleet.suspect, noted := s.fleet.noted }
      out := t.out
      freeCtr := t.freeCtr } ∧ ∀ k < 64, getLink t k = getLink s k
end

