-- ==== Sys2Proof/Laws/Tab.lean ====
section
/-! SUPPORT. Laws of the sparse tables: reading after writing, and the canonical form. -/

namespace Sys2Proof.Machine

variable {α : Type}

@[simp] theorem Tab.find_nil (i : Nat) : Tab.find ([] : Tab α) i = none := rfl

theorem Tab.find_set (t : Tab α) (i j : Nat) (v : α) : Tab.find (Tab.set t i v) j = if i = j then some v else Tab.find t j := by
  induction t with
  | nil => simp [Tab.set, Tab.find]
  | cons e t ih =>
    obtain ⟨k, w⟩ := e
    simp only [Tab.set]
    split
    · simp only [Tab.find]
    · split
      · subst_vars; simp only [Tab.find]; split <;> rfl
      · simp only [Tab.find, ih]
        split <;> split <;> first | rfl | omega

@[simp] theorem Tab.find_set_self (t : Tab α) (i : Nat) (v : α) : Tab.find (Tab.set t i v) i = some v := by simp [Tab.find_set]

theorem Tab.find_set_ne (t : Tab α) {i j : Nat} (v : α) (h : i ≠ j) : Tab.find (Tab.set t i v) j = Tab.find t j := by simp [Tab.find_set, h]

@[simp] theorem Tab.getD_set_self (t : Tab α) (i : Nat) (v d : α) : Tab.getD (Tab.set t i v) i d = v := by simp [Tab.getD]

theorem Tab.getD_set_ne (t : Tab α) {i j : Nat} (v d : α) (h : i ≠ j) : Tab.getD (Tab.set t i v) j d = Tab.getD t j d := by
  simp [Tab.getD, Tab.find_set_ne t v h]

@[simp] theorem Tab.getD_upd_self (t : Tab α) (i : Nat) (d : α) (f : α → α) : Tab.getD (Tab.upd t i d f) i d = f (Tab.getD t i d) := by
  simp [Tab.upd]

theorem Tab.getD_upd_ne (t : Tab α) {i j : Nat} (d d' : α) (f : α → α) (h : i ≠ j) : Tab.getD (Tab.upd t i d f) j d' = Tab.getD t j d' := by
  simp [Tab.upd, Tab.getD_set_ne _ _ _ h]

@[simp] theorem Tab.find_upd_self (t : Tab α) (i : Nat) (d : α) (f : α → α) : Tab.find (Tab.upd t i d f) i = some (f (Tab.getD t i d)) := by
  simp [Tab.upd]

theorem Tab.find_upd_ne (t : Tab α) {i j : Nat} (d : α) (f : α → α) (h : i ≠ j) : Tab.find (Tab.upd t i d f) j = Tab.find t j := by
  simp [Tab.upd, Tab.find_set_ne _ _ h]

theorem Tab.find_mapVals (t : Tab α) (f : Nat → α → α) (i : Nat) : Tab.find (Tab.mapVals t f) i = (Tab.find t i).map (f i) := by
  induction t with
  | nil => rfl
  | cons e t ih =>
    obtain ⟨k, w⟩ := e
    simp only [Tab.mapVals, List.map_cons, Tab.find] at ih ⊢
    split
    · subst_vars; rfl
    · exact ih

/-- An entry that is dropped is not found. -/
theorem Tab.find_erase_self (t : Tab α) (i : Nat) : Tab.find (Tab.erase t i) i = none := by
  induction t with
  | nil => rfl
  | cons e t ih =>
    obtain ⟨k, w⟩ := e
    simp only [Tab.erase, List.filter_cons] at ih ⊢
    split
    · rename_i h
      simp only [Tab.find]
      split
      · simp_all
      · exact ih
    · exact ih

theorem Tab.find_erase_ne (t : Tab α) {i j : Nat} (h : i ≠ j) : Tab.find (Tab.erase t i) j = Tab.find t j := by
  induction t with
  | nil => rfl
  | cons e t ih =>
    obtain ⟨k, w⟩ := e
    simp only [Tab.erase, List.filter_cons] at ih ⊢
    split
    · simp only [Tab.find, ih]
    · rename_i hk
      simp only [Tab.find, ih]
      split
      · subst_vars; simp_all
      · rfl

/-- The keys of a written table are the old ones and the new one. -/
theorem Tab.mem_keys_set (t : Tab α) (i k : Nat) (v : α) (h : k ∈ (Tab.set t i v).map Prod.fst) : k = i ∨ k ∈ t.map Prod.fst := by
  induction t with
  | nil => simp_all [Tab.set]
  | cons e t ih =>
    obtain ⟨j, w⟩ := e
    simp only [Tab.set] at h
    split at h
    · simp_all
    · split at h
      · simp_all
      · simp only [List.map_cons, List.mem_cons] at h ⊢
        rcases h with h | h
        · exact .inr (.inl h)
        · rcases ih h with h | h
          · exact .inl h
          · exact .inr (.inr h)

/-- Writing keeps the canonical form. -/
theorem Tab.wf_set {t : Tab α} (i : Nat) (v : α) (h : Tab.wf t) : Tab.wf (Tab.set t i v) := by
  induction t with
  | nil => simp [Tab.set, Tab.wf]
  | cons e t ih =>
    obtain ⟨k, w⟩ := e
    simp only [Tab.wf, List.map_cons, List.pairwise_cons] at h
    simp only [Tab.set]
    split
    · rename_i hi
      simp only [Tab.wf, List.map_cons, List.pairwise_cons, List.mem_cons]
      refine ⟨?_, h⟩
      rintro a (rfl | ha)
      · exact hi
      · exact lt_trans hi (h.1 a ha)
    · split
      · subst_vars; simpa [Tab.wf] using h
      · simp only [Tab.wf, List.map_cons, List.pairwise_cons]
        refine ⟨?_, ih h.2⟩
        intro a ha
        rcases Tab.mem_keys_set t i a v ha with rfl | ha
        · omega
        · exact h.1 a ha

theorem Tab.wf_upd {t : Tab α} (i : Nat) (d : α) (f : α → α) (h : Tab.wf t) : Tab.wf (Tab.upd t i d f) := Tab.wf_set i _ h

end Sys2Proof.Machine
end

