-- ==== Sys2Proof/Laws/Mem.lean ====
section
/-! SUPPORT. Laws of the memory: what a byte reads as after a write, and the canonical form, which every operation on the memory keeps. -/

namespace Sys2Proof.Machine

/-- Every address of a memory lies at or above a bound. -/
abbrev Memory.above (m : List Host.Cell) (a : Nat) : Prop := ∀ c ∈ m, a ≤ c.1

theorem Memory.wf_cons {c : Host.Cell} {m : List Host.Cell} (h : Memory.wf (c :: m)) : Memory.wf m ∧ (∀ d ∈ m, c.1 < d.1) ∧ c.2 ≠ 0 := by
  obtain ⟨h1, h2⟩ := h
  simp only [List.map_cons, List.pairwise_cons] at h1
  refine ⟨⟨h1.2, fun d hd => h2 d (List.mem_cons_of_mem _ hd)⟩, fun d hd => h1.1 d.1 (List.mem_map_of_mem hd), h2 c List.mem_cons_self⟩

theorem Memory.cons_wf {c : Host.Cell} {m : List Host.Cell} (h : Memory.wf m) (hl : ∀ d ∈ m, c.1 < d.1) (hz : c.2 ≠ 0) : Memory.wf (c :: m) := by
  refine ⟨?_, ?_⟩
  · simp only [List.map_cons, List.pairwise_cons]
    refine ⟨?_, h.1⟩
    intro a ha
    obtain ⟨d, hd, rfl⟩ := List.mem_map.1 ha
    exact hl d hd
  · intro d hd
    rcases List.mem_cons.1 hd with rfl | hd
    · exact hz
    · exact h.2 d hd

/-- A byte below every listed address reads zero. -/
theorem memByte_below {m : List Host.Cell} {a : Nat} (h : ∀ d ∈ m, a < d.1) : memByte m a = 0 := by
  induction m with
  | nil => rfl
  | cons c t ih =>
    obtain ⟨k, b⟩ := c
    have hk : a < k := h (k, b) List.mem_cons_self
    simp only [memByte]
    rw [if_neg (by omega), if_pos hk]

theorem mem_memPut {m : List Host.Cell} {a : Nat} {v : Byte} {c : Host.Cell} (h : c ∈ memPut m a v) : c = (a, v) ∨ c ∈ m := by
  induction m with
  | nil => simp only [memPut] at h; split at h <;> simp_all
  | cons e t ih =>
    obtain ⟨k, b⟩ := e
    simp only [memPut] at h
    split at h
    · split at h
      · exact .inr h
      · rcases List.mem_cons.1 h with h | h
        · exact .inl h
        · exact .inr h
    · split at h
      · split at h
        · exact .inr (List.mem_cons_of_mem _ h)
        · rcases List.mem_cons.1 h with h | h
          · exact .inl h
          · exact .inr (List.mem_cons_of_mem _ h)
      · rcases List.mem_cons.1 h with h | h
        · exact .inr (h ▸ List.mem_cons_self)
        · rcases ih h with h | h
          · exact .inl h
          · exact .inr (List.mem_cons_of_mem _ h)

/-- Writing a byte keeps the canonical form. -/
theorem Memory.wf_put {m : List Host.Cell} (a : Nat) (v : Byte) (h : Memory.wf m) : Memory.wf (memPut m a v) := by
  induction m with
  | nil =>
    simp only [memPut]
    split
    · exact h
    · rename_i hv
      exact Memory.cons_wf (c := (a, v)) h (by simp) hv
  | cons e t ih =>
    obtain ⟨k, b⟩ := e
    obtain ⟨ht, hl, hb⟩ := Memory.wf_cons h
    simp only at hl hb
    simp only [memPut]
    split
    · rename_i hk
      split
      · exact h
      · rename_i hv
        refine Memory.cons_wf h ?_ hv
        intro d hd
        rcases List.mem_cons.1 hd with rfl | hd
        · exact hk
        · exact lt_trans hk (hl d hd)
    · split
      · rename_i hk
        subst hk
        split
        · exact ht
        · rename_i hv
          exact Memory.cons_wf ht hl hv
      · rename_i h1 h2
        refine Memory.cons_wf (ih ht) ?_ hb
        intro d hd
        rcases mem_memPut hd with rfl | hd
        · simp only; omega
        · exact hl d hd

theorem Memory.wf_write {m : List Host.Cell} (a : Nat) (bs : List Byte) (h : Memory.wf m) : Memory.wf (memWrite m a bs) := by
  induction bs generalizing m a with
  | nil => exact h
  | cons b t ih => exact ih _ (Memory.wf_put _ _ h)

theorem Memory.wf_filter {m : List Host.Cell} (p : Host.Cell → Bool) (h : Memory.wf m) : Memory.wf (m.filter p) :=
  ⟨h.1.sublist (List.filter_sublist.map _), fun c hc => h.2 c (List.mem_filter.1 hc).1⟩

theorem Memory.wf_zero {m : List Host.Cell} (lo hi : Nat) (h : Memory.wf m) : Memory.wf (memZero m lo hi) := Memory.wf_filter _ h

theorem Memory.wf_puts {m : List Host.Cell} (cs : List Host.Cell) (h : Memory.wf m) : Memory.wf (cs.foldl (fun m c => memPut m c.1 c.2) m) := by
  induction cs generalizing m with
  | nil => exact h
  | cons c t ih => exact ih (Memory.wf_put _ _ h)

theorem Memory.wf_copy {m : List Host.Cell} (src dst n : Nat) (h : Memory.wf m) : Memory.wf (memCopy m src dst n) :=
  Memory.wf_puts _ (Memory.wf_zero _ _ h)

/-- A written byte reads as written, and every other byte as before. -/
theorem memByte_put {m : List Host.Cell} (a : Nat) (v : Byte) (x : Nat) (h : Memory.wf m) : memByte (memPut m a v) x = if x = a then v else memByte m x := by
  induction m with
  | nil =>
    simp only [memPut]
    split
    · rename_i hv; subst hv; simp [memByte]
    · simp only [memByte]
      by_cases h1 : a = x
      · subst h1; simp
      · rw [if_neg h1, if_neg (by omega : ¬ x = a)]; split <;> rfl
  | cons e t ih =>
    obtain ⟨k, b⟩ := e
    obtain ⟨ht, hl, hb⟩ := Memory.wf_cons h
    simp only at hl hb
    simp only [memPut]
    split
    · rename_i hk
      split
      · rename_i hv; subst hv
        by_cases h1 : x = a
        · subst h1; rw [if_pos rfl]
          exact memByte_below (fun d hd => (List.mem_cons.1 hd).elim (fun e => e ▸ hk) (fun hd => lt_trans hk (hl d hd)))
        · rw [if_neg h1]
      · simp only [memByte]
        by_cases h1 : a = x
        · subst h1; simp
        · rw [if_neg h1, if_neg (by omega : ¬ x = a)]
          by_cases h2 : x < a
          · rw [if_pos h2, if_neg (by omega), if_pos (by omega)]
          · rw [if_neg h2]
    · split
      · rename_i hk
        subst hk
        split
        · rename_i hv; subst hv
          by_cases h1 : x = a
          · subst h1; rw [if_pos rfl]; exact memByte_below hl
          · rw [if_neg h1]
            simp only [memByte]
            rw [if_neg (by omega)]
            split
            · rename_i h2; exact memByte_below (fun d hd => lt_trans h2 (hl d hd))
            · rfl
        · simp only [memByte]
          by_cases h1 : a = x
          · subst h1; simp
          · rw [if_neg h1, if_neg (by omega : ¬ x = a), if_neg h1]
      · rename_i h1 h2
        simp only [memByte, ih ht]
        by_cases h3 : k = x
        · subst h3; simp [show ¬ k = a by omega]
        · rw [if_neg h3, if_neg h3]
          by_cases h4 : x < k
          · rw [if_pos h4, if_pos h4, if_neg (by omega)]
          · rw [if_neg h4, if_neg h4]

/-- Bytes read after a write: those written within its range, the old ones outside. -/
theorem memByte_write {m : List Host.Cell} (a : Nat) (bs : List Byte) (x : Nat) (h : Memory.wf m) :
    memByte (memWrite m a bs) x = if a ≤ x ∧ x < a + bs.length then bs.getD (x - a) 0 else memByte m x := by
  induction bs generalizing m a with
  | nil => simp only [memWrite, List.length_nil]; rw [if_neg (by omega)]
  | cons b t ih =>
    simp only [memWrite, ih _ (Memory.wf_put a b h), memByte_put a b x h, List.length_cons]
    by_cases h1 : x = a
    · subst h1
      rw [if_neg (by omega), if_pos rfl, if_pos (by omega)]; simp
    · rw [if_neg h1]
      by_cases h2 : a + 1 ≤ x ∧ x < a + 1 + t.length
      · rw [if_pos h2, if_pos (by omega)]
        obtain ⟨j, hj⟩ : ∃ j, x - a = j + 1 := ⟨x - a - 1, by omega⟩
        rw [hj, show x - (a + 1) = j by omega]; simp
      · rw [if_neg h2, if_neg (by omega)]

theorem memByte_write_out {m : List Host.Cell} (a : Nat) (bs : List Byte) (x : Nat) (h : Memory.wf m) (hx : x < a ∨ a + bs.length ≤ x) :
    memByte (memWrite m a bs) x = memByte m x := by rw [memByte_write _ _ _ h, if_neg (by omega)]

/-- A read of what was written gives it back. -/
theorem memRead_write {m : List Host.Cell} (a : Nat) (bs : List Byte) (h : Memory.wf m) : memRead (memWrite m a bs) a bs.length = bs := by
  apply List.ext_getElem
  · simp [memRead]
  · intro i h1 h2
    simp only [memRead, List.getElem_map, List.getElem_range]
    rw [memByte_write _ _ _ h, if_pos (by omega), show a + i - a = i by omega]
    simp [List.getD, h2]

theorem memRead_write_out {m : List Host.Cell} (a : Nat) (bs : List Byte) (x n : Nat) (h : Memory.wf m) (hx : x + n ≤ a ∨ a + bs.length ≤ x) :
    memRead (memWrite m a bs) x n = memRead m x n := by
  simp only [memRead]
  apply List.map_congr_left
  intro i hi
  rw [List.mem_range] at hi
  exact memByte_write_out _ _ _ h (by omega)

theorem memByte_filter {m : List Host.Cell} (q : Nat → Bool) (x : Nat) (h : Memory.wf m) :
    memByte (m.filter (fun c => q c.1)) x = if q x = true then memByte m x else 0 := by
  induction m with
  | nil => simp only [List.filter_nil, memByte]; split <;> rfl
  | cons e t ih =>
    obtain ⟨k, b⟩ := e
    obtain ⟨ht, hl, hb⟩ := Memory.wf_cons h
    simp only at hl hb
    have hbelow : x ≤ k → memByte (t.filter (fun c => q c.1)) x = 0 := fun hx =>
      memByte_below (fun d hd => lt_of_le_of_lt hx (hl d (List.mem_filter.1 hd).1))
    simp only [List.filter_cons]
    by_cases h1 : k = x
    · subst h1
      by_cases hq : q k = true
      · rw [if_pos hq, if_pos hq]; simp only [memByte, if_true]
      · rw [if_neg hq, if_neg hq]; exact hbelow le_rfl
    · by_cases h2 : x < k
      · have e1 : memByte ((k, b) :: t) x = 0 := by simp only [memByte]; rw [if_neg h1, if_pos h2]
        rw [e1, ite_self]
        split
        · simp only [memByte]; rw [if_neg h1, if_pos h2]
        · exact hbelow h2.le
      · have e1 : memByte ((k, b) :: t) x = memByte t x := by simp only [memByte]; rw [if_neg h1, if_neg h2]
        rw [e1, ← ih ht]
        split
        · simp only [memByte]; rw [if_neg h1, if_neg h2]
        · rfl

/-- A zeroed range reads zero, and every other byte as before. -/
theorem memByte_zero {m : List Host.Cell} (lo hi x : Nat) (h : Memory.wf m) : memByte (memZero m lo hi) x = if lo ≤ x ∧ x < hi then 0 else memByte m x := by
  rw [memZero, memByte_filter (fun a => !(lo ≤ a && a < hi)) x h]
  by_cases h1 : lo ≤ x ∧ x < hi
  · rw [if_pos h1]; simp [h1]
  · rw [if_neg h1, if_pos]; simp only [Bool.not_eq_true', Bool.and_eq_false_iff, decide_eq_false_iff_not]; omega

/-- A read has as many bytes as were asked for. -/
@[simp] theorem memRead_length (m : List Host.Cell) (a n : Nat) : (memRead m a n).length = n := by simp [memRead]

@[simp] theorem leBytes_length (n x : Nat) : (leBytes n x).length = n := by
  induction n generalizing x with
  | zero => rfl
  | succ n ih => simp [leBytes, ih]

/-- The bytes of a number hold it, cut to their count. -/
theorem leNat_leBytes (n x : Nat) : leNat (leBytes n x) = x % 256 ^ n := by
  induction n generalizing x with
  | zero => simp [leBytes, leNat, Nat.mod_one]
  | succ n ih =>
    show (BitVec.ofNat 8 x).toNat + 256 * leNat (leBytes n (x / 256)) = _
    rw [ih, BitVec.toNat_ofNat]
    have h8 : 2 ^ 8 = 256 := by norm_num
    rw [h8, show 256 ^ (n + 1) = 256 * 256 ^ n by rw [Nat.pow_succ, Nat.mul_comm], Nat.mod_mul]

/-- Memory after a store of a whole range, and what it does not touch. -/
theorem memStore_bytes (s : State) (k : Nat) (bs : List Byte) : (memStore s k bs).mem.bytes = memWrite s.mem.bytes k bs := rfl

end Sys2Proof.Machine
end

