-- ==== Sys2Proof/Laws/State.lean ====
section
/-! SUPPORT. What each update of the state leaves as it was, and what an accessor reads after an update of its own table. -/

namespace Sys2Proof.Machine

variable (s : State)

@[simp] theorem emit_pending (e : Emit) : (emit s e).pending = s.pending := rfl
@[simp] theorem emit_tb (e : Emit) : (emit s e).tb = s.tb := rfl
@[simp] theorem emit_caps (e : Emit) : (emit s e).caps = s.caps := rfl
@[simp] theorem emit_compute (e : Emit) : (emit s e).compute = s.compute := rfl
@[simp] theorem emit_mem (e : Emit) : (emit s e).mem = s.mem := rfl
@[simp] theorem emit_fab (e : Emit) : (emit s e).fab = s.fab := rfl
@[simp] theorem emit_net (e : Emit) : (emit s e).net = s.net := rfl
@[simp] theorem emit_ctl (e : Emit) : (emit s e).ctl = s.ctl := rfl
@[simp] theorem emit_pw (e : Emit) : (emit s e).pw = s.pw := rfl
@[simp] theorem emit_rails (e : Emit) : (emit s e).rails = s.rails := rfl
@[simp] theorem emit_pwDies (e : Emit) : (emit s e).pwDies = s.pwDies := rfl
@[simp] theorem emit_rst (e : Emit) : (emit s e).rst = s.rst := rfl
@[simp] theorem emit_fleet (e : Emit) : (emit s e).fleet = s.fleet := rfl
@[simp] theorem emit_pins (e : Emit) : (emit s e).pins = s.pins := rfl
@[simp] theorem emit_freeCtr (e : Emit) : (emit s e).freeCtr = s.freeCtr := rfl

@[simp] theorem emitAll_pending (es : List Emit) : (emitAll s es).pending = s.pending := rfl
@[simp] theorem emitAll_tb (es : List Emit) : (emitAll s es).tb = s.tb := rfl
@[simp] theorem emitAll_caps (es : List Emit) : (emitAll s es).caps = s.caps := rfl
@[simp] theorem emitAll_compute (es : List Emit) : (emitAll s es).compute = s.compute := rfl
@[simp] theorem emitAll_mem (es : List Emit) : (emitAll s es).mem = s.mem := rfl
@[simp] theorem emitAll_fab (es : List Emit) : (emitAll s es).fab = s.fab := rfl
@[simp] theorem emitAll_net (es : List Emit) : (emitAll s es).net = s.net := rfl
@[simp] theorem emitAll_ctl (es : List Emit) : (emitAll s es).ctl = s.ctl := rfl
@[simp] theorem emitAll_pw (es : List Emit) : (emitAll s es).pw = s.pw := rfl
@[simp] theorem emitAll_rails (es : List Emit) : (emitAll s es).rails = s.rails := rfl
@[simp] theorem emitAll_pwDies (es : List Emit) : (emitAll s es).pwDies = s.pwDies := rfl
@[simp] theorem emitAll_rst (es : List Emit) : (emitAll s es).rst = s.rst := rfl
@[simp] theorem emitAll_fleet (es : List Emit) : (emitAll s es).fleet = s.fleet := rfl
@[simp] theorem emitAll_pins (es : List Emit) : (emitAll s es).pins = s.pins := rfl
@[simp] theorem emitAll_freeCtr (es : List Emit) : (emitAll s es).freeCtr = s.freeCtr := rfl

@[simp] theorem modStrand_pending (p : Pos) (f : Strand → Strand) : (modStrand s p f).pending = s.pending := rfl
@[simp] theorem modStrand_tb (p : Pos) (f : Strand → Strand) : (modStrand s p f).tb = s.tb := rfl
@[simp] theorem modStrand_caps (p : Pos) (f : Strand → Strand) : (modStrand s p f).caps = s.caps := rfl
@[simp] theorem modStrand_mem (p : Pos) (f : Strand → Strand) : (modStrand s p f).mem = s.mem := rfl
@[simp] theorem modStrand_fab (p : Pos) (f : Strand → Strand) : (modStrand s p f).fab = s.fab := rfl
@[simp] theorem modStrand_net (p : Pos) (f : Strand → Strand) : (modStrand s p f).net = s.net := rfl
@[simp] theorem modStrand_ctl (p : Pos) (f : Strand → Strand) : (modStrand s p f).ctl = s.ctl := rfl
@[simp] theorem modStrand_pw (p : Pos) (f : Strand → Strand) : (modStrand s p f).pw = s.pw := rfl
@[simp] theorem modStrand_rails (p : Pos) (f : Strand → Strand) : (modStrand s p f).rails = s.rails := rfl
@[simp] theorem modStrand_pwDies (p : Pos) (f : Strand → Strand) : (modStrand s p f).pwDies = s.pwDies := rfl
@[simp] theorem modStrand_rst (p : Pos) (f : Strand → Strand) : (modStrand s p f).rst = s.rst := rfl
@[simp] theorem modStrand_fleet (p : Pos) (f : Strand → Strand) : (modStrand s p f).fleet = s.fleet := rfl
@[simp] theorem modStrand_pins (p : Pos) (f : Strand → Strand) : (modStrand s p f).pins = s.pins := rfl
@[simp] theorem modStrand_out (p : Pos) (f : Strand → Strand) : (modStrand s p f).out = s.out := rfl
@[simp] theorem modStrand_freeCtr (p : Pos) (f : Strand → Strand) : (modStrand s p f).freeCtr = s.freeCtr := rfl

@[simp] theorem modCore_pending (c : CorePos) (f : Core → Core) : (modCore s c f).pending = s.pending := rfl
@[simp] theorem modCore_tb (c : CorePos) (f : Core → Core) : (modCore s c f).tb = s.tb := rfl
@[simp] theorem modCore_caps (c : CorePos) (f : Core → Core) : (modCore s c f).caps = s.caps := rfl
@[simp] theorem modCore_mem (c : CorePos) (f : Core → Core) : (modCore s c f).mem = s.mem := rfl
@[simp] theorem modCore_fab (c : CorePos) (f : Core → Core) : (modCore s c f).fab = s.fab := rfl
@[simp] theorem modCore_net (c : CorePos) (f : Core → Core) : (modCore s c f).net = s.net := rfl
@[simp] theorem modCore_ctl (c : CorePos) (f : Core → Core) : (modCore s c f).ctl = s.ctl := rfl
@[simp] theorem modCore_pw (c : CorePos) (f : Core → Core) : (modCore s c f).pw = s.pw := rfl
@[simp] theorem modCore_rails (c : CorePos) (f : Core → Core) : (modCore s c f).rails = s.rails := rfl
@[simp] theorem modCore_pwDies (c : CorePos) (f : Core → Core) : (modCore s c f).pwDies = s.pwDies := rfl
@[simp] theorem modCore_rst (c : CorePos) (f : Core → Core) : (modCore s c f).rst = s.rst := rfl
@[simp] theorem modCore_fleet (c : CorePos) (f : Core → Core) : (modCore s c f).fleet = s.fleet := rfl
@[simp] theorem modCore_pins (c : CorePos) (f : Core → Core) : (modCore s c f).pins = s.pins := rfl
@[simp] theorem modCore_out (c : CorePos) (f : Core → Core) : (modCore s c f).out = s.out := rfl
@[simp] theorem modCore_freeCtr (c : CorePos) (f : Core → Core) : (modCore s c f).freeCtr = s.freeCtr := rfl

@[simp] theorem modCluster_pending (d l : Nat) (f : Cluster → Cluster) : (modCluster s d l f).pending = s.pending := rfl
@[simp] theorem modCluster_tb (d l : Nat) (f : Cluster → Cluster) : (modCluster s d l f).tb = s.tb := rfl
@[simp] theorem modCluster_caps (d l : Nat) (f : Cluster → Cluster) : (modCluster s d l f).caps = s.caps := rfl
@[simp] theorem modCluster_mem (d l : Nat) (f : Cluster → Cluster) : (modCluster s d l f).mem = s.mem := rfl
@[simp] theorem modCluster_fab (d l : Nat) (f : Cluster → Cluster) : (modCluster s d l f).fab = s.fab := rfl
@[simp] theorem modCluster_net (d l : Nat) (f : Cluster → Cluster) : (modCluster s d l f).net = s.net := rfl
@[simp] theorem modCluster_ctl (d l : Nat) (f : Cluster → Cluster) : (modCluster s d l f).ctl = s.ctl := rfl
@[simp] theorem modCluster_pw (d l : Nat) (f : Cluster → Cluster) : (modCluster s d l f).pw = s.pw := rfl
@[simp] theorem modCluster_rails (d l : Nat) (f : Cluster → Cluster) : (modCluster s d l f).rails = s.rails := rfl
@[simp] theorem modCluster_pwDies (d l : Nat) (f : Cluster → Cluster) : (modCluster s d l f).pwDies = s.pwDies := rfl
@[simp] theorem modCluster_rst (d l : Nat) (f : Cluster → Cluster) : (modCluster s d l f).rst = s.rst := rfl
@[simp] theorem modCluster_fleet (d l : Nat) (f : Cluster → Cluster) : (modCluster s d l f).fleet = s.fleet := rfl
@[simp] theorem modCluster_pins (d l : Nat) (f : Cluster → Cluster) : (modCluster s d l f).pins = s.pins := rfl
@[simp] theorem modCluster_out (d l : Nat) (f : Cluster → Cluster) : (modCluster s d l f).out = s.out := rfl
@[simp] theorem modCluster_freeCtr (d l : Nat) (f : Cluster → Cluster) : (modCluster s d l f).freeCtr = s.freeCtr := rfl

@[simp] theorem modMap_pending (d : Nat) (f : ClMap → ClMap) : (modMap s d f).pending = s.pending := rfl
@[simp] theorem modMap_tb (d : Nat) (f : ClMap → ClMap) : (modMap s d f).tb = s.tb := rfl
@[simp] theorem modMap_caps (d : Nat) (f : ClMap → ClMap) : (modMap s d f).caps = s.caps := rfl
@[simp] theorem modMap_mem (d : Nat) (f : ClMap → ClMap) : (modMap s d f).mem = s.mem := rfl
@[simp] theorem modMap_fab (d : Nat) (f : ClMap → ClMap) : (modMap s d f).fab = s.fab := rfl
@[simp] theorem modMap_net (d : Nat) (f : ClMap → ClMap) : (modMap s d f).net = s.net := rfl
@[simp] theorem modMap_ctl (d : Nat) (f : ClMap → ClMap) : (modMap s d f).ctl = s.ctl := rfl
@[simp] theorem modMap_pw (d : Nat) (f : ClMap → ClMap) : (modMap s d f).pw = s.pw := rfl
@[simp] theorem modMap_rails (d : Nat) (f : ClMap → ClMap) : (modMap s d f).rails = s.rails := rfl
@[simp] theorem modMap_pwDies (d : Nat) (f : ClMap → ClMap) : (modMap s d f).pwDies = s.pwDies := rfl
@[simp] theorem modMap_rst (d : Nat) (f : ClMap → ClMap) : (modMap s d f).rst = s.rst := rfl
@[simp] theorem modMap_fleet (d : Nat) (f : ClMap → ClMap) : (modMap s d f).fleet = s.fleet := rfl
@[simp] theorem modMap_pins (d : Nat) (f : ClMap → ClMap) : (modMap s d f).pins = s.pins := rfl
@[simp] theorem modMap_out (d : Nat) (f : ClMap → ClMap) : (modMap s d f).out = s.out := rfl
@[simp] theorem modMap_freeCtr (d : Nat) (f : ClMap → ClMap) : (modMap s d f).freeCtr = s.freeCtr := rfl

@[simp] theorem modEp_pending (d : Nat) (f : Endpoint → Endpoint) : (modEp s d f).pending = s.pending := rfl
@[simp] theorem modEp_tb (d : Nat) (f : Endpoint → Endpoint) : (modEp s d f).tb = s.tb := rfl
@[simp] theorem modEp_caps (d : Nat) (f : Endpoint → Endpoint) : (modEp s d f).caps = s.caps := rfl
@[simp] theorem modEp_compute (d : Nat) (f : Endpoint → Endpoint) : (modEp s d f).compute = s.compute := rfl
@[simp] theorem modEp_mem (d : Nat) (f : Endpoint → Endpoint) : (modEp s d f).mem = s.mem := rfl
@[simp] theorem modEp_net (d : Nat) (f : Endpoint → Endpoint) : (modEp s d f).net = s.net := rfl
@[simp] theorem modEp_ctl (d : Nat) (f : Endpoint → Endpoint) : (modEp s d f).ctl = s.ctl := rfl
@[simp] theorem modEp_pw (d : Nat) (f : Endpoint → Endpoint) : (modEp s d f).pw = s.pw := rfl
@[simp] theorem modEp_rails (d : Nat) (f : Endpoint → Endpoint) : (modEp s d f).rails = s.rails := rfl
@[simp] theorem modEp_pwDies (d : Nat) (f : Endpoint → Endpoint) : (modEp s d f).pwDies = s.pwDies := rfl
@[simp] theorem modEp_rst (d : Nat) (f : Endpoint → Endpoint) : (modEp s d f).rst = s.rst := rfl
@[simp] theorem modEp_fleet (d : Nat) (f : Endpoint → Endpoint) : (modEp s d f).fleet = s.fleet := rfl
@[simp] theorem modEp_pins (d : Nat) (f : Endpoint → Endpoint) : (modEp s d f).pins = s.pins := rfl
@[simp] theorem modEp_out (d : Nat) (f : Endpoint → Endpoint) : (modEp s d f).out = s.out := rfl
@[simp] theorem modEp_freeCtr (d : Nat) (f : Endpoint → Endpoint) : (modEp s d f).freeCtr = s.freeCtr := rfl

@[simp] theorem modGran_pending (d g : Nat) (f : Granule → Granule) : (modGran s d g f).pending = s.pending := rfl
@[simp] theorem modGran_tb (d g : Nat) (f : Granule → Granule) : (modGran s d g f).tb = s.tb := rfl
@[simp] theorem modGran_caps (d g : Nat) (f : Granule → Granule) : (modGran s d g f).caps = s.caps := rfl
@[simp] theorem modGran_compute (d g : Nat) (f : Granule → Granule) : (modGran s d g f).compute = s.compute := rfl
@[simp] theorem modGran_fab (d g : Nat) (f : Granule → Granule) : (modGran s d g f).fab = s.fab := rfl
@[simp] theorem modGran_net (d g : Nat) (f : Granule → Granule) : (modGran s d g f).net = s.net := rfl
@[simp] theorem modGran_ctl (d g : Nat) (f : Granule → Granule) : (modGran s d g f).ctl = s.ctl := rfl
@[simp] theorem modGran_pw (d g : Nat) (f : Granule → Granule) : (modGran s d g f).pw = s.pw := rfl
@[simp] theorem modGran_rails (d g : Nat) (f : Granule → Granule) : (modGran s d g f).rails = s.rails := rfl
@[simp] theorem modGran_pwDies (d g : Nat) (f : Granule → Granule) : (modGran s d g f).pwDies = s.pwDies := rfl
@[simp] theorem modGran_rst (d g : Nat) (f : Granule → Granule) : (modGran s d g f).rst = s.rst := rfl
@[simp] theorem modGran_fleet (d g : Nat) (f : Granule → Granule) : (modGran s d g f).fleet = s.fleet := rfl
@[simp] theorem modGran_pins (d g : Nat) (f : Granule → Granule) : (modGran s d g f).pins = s.pins := rfl
@[simp] theorem modGran_out (d g : Nat) (f : Granule → Granule) : (modGran s d g f).out = s.out := rfl
@[simp] theorem modGran_freeCtr (d g : Nat) (f : Granule → Granule) : (modGran s d g f).freeCtr = s.freeCtr := rfl

@[simp] theorem modStack_pending (k : Nat) (f : Stack → Stack) : (modStack s k f).pending = s.pending := rfl
@[simp] theorem modStack_tb (k : Nat) (f : Stack → Stack) : (modStack s k f).tb = s.tb := rfl
@[simp] theorem modStack_caps (k : Nat) (f : Stack → Stack) : (modStack s k f).caps = s.caps := rfl
@[simp] theorem modStack_compute (k : Nat) (f : Stack → Stack) : (modStack s k f).compute = s.compute := rfl
@[simp] theorem modStack_fab (k : Nat) (f : Stack → Stack) : (modStack s k f).fab = s.fab := rfl
@[simp] theorem modStack_net (k : Nat) (f : Stack → Stack) : (modStack s k f).net = s.net := rfl
@[simp] theorem modStack_ctl (k : Nat) (f : Stack → Stack) : (modStack s k f).ctl = s.ctl := rfl
@[simp] theorem modStack_pw (k : Nat) (f : Stack → Stack) : (modStack s k f).pw = s.pw := rfl
@[simp] theorem modStack_rails (k : Nat) (f : Stack → Stack) : (modStack s k f).rails = s.rails := rfl
@[simp] theorem modStack_pwDies (k : Nat) (f : Stack → Stack) : (modStack s k f).pwDies = s.pwDies := rfl
@[simp] theorem modStack_rst (k : Nat) (f : Stack → Stack) : (modStack s k f).rst = s.rst := rfl
@[simp] theorem modStack_fleet (k : Nat) (f : Stack → Stack) : (modStack s k f).fleet = s.fleet := rfl
@[simp] theorem modStack_pins (k : Nat) (f : Stack → Stack) : (modStack s k f).pins = s.pins := rfl
@[simp] theorem modStack_out (k : Nat) (f : Stack → Stack) : (modStack s k f).out = s.out := rfl
@[simp] theorem modStack_freeCtr (k : Nat) (f : Stack → Stack) : (modStack s k f).freeCtr = s.freeCtr := rfl

@[simp] theorem modHbm_pending (d : Nat) (f : HbmDie → HbmDie) : (modHbm s d f).pending = s.pending := rfl
@[simp] theorem modHbm_tb (d : Nat) (f : HbmDie → HbmDie) : (modHbm s d f).tb = s.tb := rfl
@[simp] theorem modHbm_caps (d : Nat) (f : HbmDie → HbmDie) : (modHbm s d f).caps = s.caps := rfl
@[simp] theorem modHbm_compute (d : Nat) (f : HbmDie → HbmDie) : (modHbm s d f).compute = s.compute := rfl
@[simp] theorem modHbm_fab (d : Nat) (f : HbmDie → HbmDie) : (modHbm s d f).fab = s.fab := rfl
@[simp] theorem modHbm_net (d : Nat) (f : HbmDie → HbmDie) : (modHbm s d f).net = s.net := rfl
@[simp] theorem modHbm_ctl (d : Nat) (f : HbmDie → HbmDie) : (modHbm s d f).ctl = s.ctl := rfl
@[simp] theorem modHbm_pw (d : Nat) (f : HbmDie → HbmDie) : (modHbm s d f).pw = s.pw := rfl
@[simp] theorem modHbm_rails (d : Nat) (f : HbmDie → HbmDie) : (modHbm s d f).rails = s.rails := rfl
@[simp] theorem modHbm_pwDies (d : Nat) (f : HbmDie → HbmDie) : (modHbm s d f).pwDies = s.pwDies := rfl
@[simp] theorem modHbm_rst (d : Nat) (f : HbmDie → HbmDie) : (modHbm s d f).rst = s.rst := rfl
@[simp] theorem modHbm_fleet (d : Nat) (f : HbmDie → HbmDie) : (modHbm s d f).fleet = s.fleet := rfl
@[simp] theorem modHbm_pins (d : Nat) (f : HbmDie → HbmDie) : (modHbm s d f).pins = s.pins := rfl
@[simp] theorem modHbm_out (d : Nat) (f : HbmDie → HbmDie) : (modHbm s d f).out = s.out := rfl
@[simp] theorem modHbm_freeCtr (d : Nat) (f : HbmDie → HbmDie) : (modHbm s d f).freeCtr = s.freeCtr := rfl

@[simp] theorem modRing_pending (r : Nat) (f : Ring → Ring) : (modRing s r f).pending = s.pending := rfl
@[simp] theorem modRing_tb (r : Nat) (f : Ring → Ring) : (modRing s r f).tb = s.tb := rfl
@[simp] theorem modRing_caps (r : Nat) (f : Ring → Ring) : (modRing s r f).caps = s.caps := rfl
@[simp] theorem modRing_compute (r : Nat) (f : Ring → Ring) : (modRing s r f).compute = s.compute := rfl
@[simp] theorem modRing_mem (r : Nat) (f : Ring → Ring) : (modRing s r f).mem = s.mem := rfl
@[simp] theorem modRing_net (r : Nat) (f : Ring → Ring) : (modRing s r f).net = s.net := rfl
@[simp] theorem modRing_ctl (r : Nat) (f : Ring → Ring) : (modRing s r f).ctl = s.ctl := rfl
@[simp] theorem modRing_pw (r : Nat) (f : Ring → Ring) : (modRing s r f).pw = s.pw := rfl
@[simp] theorem modRing_rails (r : Nat) (f : Ring → Ring) : (modRing s r f).rails = s.rails := rfl
@[simp] theorem modRing_pwDies (r : Nat) (f : Ring → Ring) : (modRing s r f).pwDies = s.pwDies := rfl
@[simp] theorem modRing_rst (r : Nat) (f : Ring → Ring) : (modRing s r f).rst = s.rst := rfl
@[simp] theorem modRing_fleet (r : Nat) (f : Ring → Ring) : (modRing s r f).fleet = s.fleet := rfl
@[simp] theorem modRing_pins (r : Nat) (f : Ring → Ring) : (modRing s r f).pins = s.pins := rfl
@[simp] theorem modRing_out (r : Nat) (f : Ring → Ring) : (modRing s r f).out = s.out := rfl
@[simp] theorem modRing_freeCtr (r : Nat) (f : Ring → Ring) : (modRing s r f).freeCtr = s.freeCtr := rfl

@[simp] theorem modGroup_pending (c : Nat) (f : Group → Group) : (modGroup s c f).pending = s.pending := rfl
@[simp] theorem modGroup_tb (c : Nat) (f : Group → Group) : (modGroup s c f).tb = s.tb := rfl
@[simp] theorem modGroup_caps (c : Nat) (f : Group → Group) : (modGroup s c f).caps = s.caps := rfl
@[simp] theorem modGroup_compute (c : Nat) (f : Group → Group) : (modGroup s c f).compute = s.compute := rfl
@[simp] theorem modGroup_mem (c : Nat) (f : Group → Group) : (modGroup s c f).mem = s.mem := rfl
@[simp] theorem modGroup_net (c : Nat) (f : Group → Group) : (modGroup s c f).net = s.net := rfl
@[simp] theorem modGroup_ctl (c : Nat) (f : Group → Group) : (modGroup s c f).ctl = s.ctl := rfl
@[simp] theorem modGroup_pw (c : Nat) (f : Group → Group) : (modGroup s c f).pw = s.pw := rfl
@[simp] theorem modGroup_rails (c : Nat) (f : Group → Group) : (modGroup s c f).rails = s.rails := rfl
@[simp] theorem modGroup_pwDies (c : Nat) (f : Group → Group) : (modGroup s c f).pwDies = s.pwDies := rfl
@[simp] theorem modGroup_rst (c : Nat) (f : Group → Group) : (modGroup s c f).rst = s.rst := rfl
@[simp] theorem modGroup_fleet (c : Nat) (f : Group → Group) : (modGroup s c f).fleet = s.fleet := rfl
@[simp] theorem modGroup_pins (c : Nat) (f : Group → Group) : (modGroup s c f).pins = s.pins := rfl
@[simp] theorem modGroup_out (c : Nat) (f : Group → Group) : (modGroup s c f).out = s.out := rfl
@[simp] theorem modGroup_freeCtr (c : Nat) (f : Group → Group) : (modGroup s c f).freeCtr = s.freeCtr := rfl

@[simp] theorem modColl_pending (f : CollEngine → CollEngine) : (modColl s f).pending = s.pending := rfl
@[simp] theorem modColl_tb (f : CollEngine → CollEngine) : (modColl s f).tb = s.tb := rfl
@[simp] theorem modColl_caps (f : CollEngine → CollEngine) : (modColl s f).caps = s.caps := rfl
@[simp] theorem modColl_compute (f : CollEngine → CollEngine) : (modColl s f).compute = s.compute := rfl
@[simp] theorem modColl_mem (f : CollEngine → CollEngine) : (modColl s f).mem = s.mem := rfl
@[simp] theorem modColl_net (f : CollEngine → CollEngine) : (modColl s f).net = s.net := rfl
@[simp] theorem modColl_ctl (f : CollEngine → CollEngine) : (modColl s f).ctl = s.ctl := rfl
@[simp] theorem modColl_pw (f : CollEngine → CollEngine) : (modColl s f).pw = s.pw := rfl
@[simp] theorem modColl_rails (f : CollEngine → CollEngine) : (modColl s f).rails = s.rails := rfl
@[simp] theorem modColl_pwDies (f : CollEngine → CollEngine) : (modColl s f).pwDies = s.pwDies := rfl
@[simp] theorem modColl_rst (f : CollEngine → CollEngine) : (modColl s f).rst = s.rst := rfl
@[simp] theorem modColl_fleet (f : CollEngine → CollEngine) : (modColl s f).fleet = s.fleet := rfl
@[simp] theorem modColl_pins (f : CollEngine → CollEngine) : (modColl s f).pins = s.pins := rfl
@[simp] theorem modColl_out (f : CollEngine → CollEngine) : (modColl s f).out = s.out := rfl
@[simp] theorem modColl_freeCtr (f : CollEngine → CollEngine) : (modColl s f).freeCtr = s.freeCtr := rfl

@[simp] theorem modPort_pending (i : Nat) (f : SwPort → SwPort) : (modPort s i f).pending = s.pending := rfl
@[simp] theorem modPort_tb (i : Nat) (f : SwPort → SwPort) : (modPort s i f).tb = s.tb := rfl
@[simp] theorem modPort_caps (i : Nat) (f : SwPort → SwPort) : (modPort s i f).caps = s.caps := rfl
@[simp] theorem modPort_compute (i : Nat) (f : SwPort → SwPort) : (modPort s i f).compute = s.compute := rfl
@[simp] theorem modPort_mem (i : Nat) (f : SwPort → SwPort) : (modPort s i f).mem = s.mem := rfl
@[simp] theorem modPort_fab (i : Nat) (f : SwPort → SwPort) : (modPort s i f).fab = s.fab := rfl
@[simp] theorem modPort_ctl (i : Nat) (f : SwPort → SwPort) : (modPort s i f).ctl = s.ctl := rfl
@[simp] theorem modPort_pw (i : Nat) (f : SwPort → SwPort) : (modPort s i f).pw = s.pw := rfl
@[simp] theorem modPort_rails (i : Nat) (f : SwPort → SwPort) : (modPort s i f).rails = s.rails := rfl
@[simp] theorem modPort_pwDies (i : Nat) (f : SwPort → SwPort) : (modPort s i f).pwDies = s.pwDies := rfl
@[simp] theorem modPort_rst (i : Nat) (f : SwPort → SwPort) : (modPort s i f).rst = s.rst := rfl
@[simp] theorem modPort_fleet (i : Nat) (f : SwPort → SwPort) : (modPort s i f).fleet = s.fleet := rfl
@[simp] theorem modPort_pins (i : Nat) (f : SwPort → SwPort) : (modPort s i f).pins = s.pins := rfl
@[simp] theorem modPort_out (i : Nat) (f : SwPort → SwPort) : (modPort s i f).out = s.out := rfl
@[simp] theorem modPort_freeCtr (i : Nat) (f : SwPort → SwPort) : (modPort s i f).freeCtr = s.freeCtr := rfl

@[simp] theorem modLink_pending (i : Nat) (f : LinkPort → LinkPort) : (modLink s i f).pending = s.pending := rfl
@[simp] theorem modLink_tb (i : Nat) (f : LinkPort → LinkPort) : (modLink s i f).tb = s.tb := rfl
@[simp] theorem modLink_caps (i : Nat) (f : LinkPort → LinkPort) : (modLink s i f).caps = s.caps := rfl
@[simp] theorem modLink_compute (i : Nat) (f : LinkPort → LinkPort) : (modLink s i f).compute = s.compute := rfl
@[simp] theorem modLink_mem (i : Nat) (f : LinkPort → LinkPort) : (modLink s i f).mem = s.mem := rfl
@[simp] theorem modLink_fab (i : Nat) (f : LinkPort → LinkPort) : (modLink s i f).fab = s.fab := rfl
@[simp] theorem modLink_ctl (i : Nat) (f : LinkPort → LinkPort) : (modLink s i f).ctl = s.ctl := rfl
@[simp] theorem modLink_pw (i : Nat) (f : LinkPort → LinkPort) : (modLink s i f).pw = s.pw := rfl
@[simp] theorem modLink_rails (i : Nat) (f : LinkPort → LinkPort) : (modLink s i f).rails = s.rails := rfl
@[simp] theorem modLink_pwDies (i : Nat) (f : LinkPort → LinkPort) : (modLink s i f).pwDies = s.pwDies := rfl
@[simp] theorem modLink_rst (i : Nat) (f : LinkPort → LinkPort) : (modLink s i f).rst = s.rst := rfl
@[simp] theorem modLink_fleet (i : Nat) (f : LinkPort → LinkPort) : (modLink s i f).fleet = s.fleet := rfl
@[simp] theorem modLink_pins (i : Nat) (f : LinkPort → LinkPort) : (modLink s i f).pins = s.pins := rfl
@[simp] theorem modLink_out (i : Nat) (f : LinkPort → LinkPort) : (modLink s i f).out = s.out := rfl
@[simp] theorem modLink_freeCtr (i : Nat) (f : LinkPort → LinkPort) : (modLink s i f).freeCtr = s.freeCtr := rfl

@[simp] theorem modRoute_pending (f : Route → Route) : (modRoute s f).pending = s.pending := rfl
@[simp] theorem modRoute_tb (f : Route → Route) : (modRoute s f).tb = s.tb := rfl
@[simp] theorem modRoute_caps (f : Route → Route) : (modRoute s f).caps = s.caps := rfl
@[simp] theorem modRoute_compute (f : Route → Route) : (modRoute s f).compute = s.compute := rfl
@[simp] theorem modRoute_mem (f : Route → Route) : (modRoute s f).mem = s.mem := rfl
@[simp] theorem modRoute_fab (f : Route → Route) : (modRoute s f).fab = s.fab := rfl
@[simp] theorem modRoute_ctl (f : Route → Route) : (modRoute s f).ctl = s.ctl := rfl
@[simp] theorem modRoute_pw (f : Route → Route) : (modRoute s f).pw = s.pw := rfl
@[simp] theorem modRoute_rails (f : Route → Route) : (modRoute s f).rails = s.rails := rfl
@[simp] theorem modRoute_pwDies (f : Route → Route) : (modRoute s f).pwDies = s.pwDies := rfl
@[simp] theorem modRoute_rst (f : Route → Route) : (modRoute s f).rst = s.rst := rfl
@[simp] theorem modRoute_fleet (f : Route → Route) : (modRoute s f).fleet = s.fleet := rfl
@[simp] theorem modRoute_pins (f : Route → Route) : (modRoute s f).pins = s.pins := rfl
@[simp] theorem modRoute_out (f : Route → Route) : (modRoute s f).out = s.out := rfl
@[simp] theorem modRoute_freeCtr (f : Route → Route) : (modRoute s f).freeCtr = s.freeCtr := rfl

@[simp] theorem modChan_pending (c : Nat) (f : Channel → Channel) : (modChan s c f).pending = s.pending := rfl
@[simp] theorem modChan_tb (c : Nat) (f : Channel → Channel) : (modChan s c f).tb = s.tb := rfl
@[simp] theorem modChan_caps (c : Nat) (f : Channel → Channel) : (modChan s c f).caps = s.caps := rfl
@[simp] theorem modChan_compute (c : Nat) (f : Channel → Channel) : (modChan s c f).compute = s.compute := rfl
@[simp] theorem modChan_mem (c : Nat) (f : Channel → Channel) : (modChan s c f).mem = s.mem := rfl
@[simp] theorem modChan_fab (c : Nat) (f : Channel → Channel) : (modChan s c f).fab = s.fab := rfl
@[simp] theorem modChan_net (c : Nat) (f : Channel → Channel) : (modChan s c f).net = s.net := rfl
@[simp] theorem modChan_pw (c : Nat) (f : Channel → Channel) : (modChan s c f).pw = s.pw := rfl
@[simp] theorem modChan_rails (c : Nat) (f : Channel → Channel) : (modChan s c f).rails = s.rails := rfl
@[simp] theorem modChan_pwDies (c : Nat) (f : Channel → Channel) : (modChan s c f).pwDies = s.pwDies := rfl
@[simp] theorem modChan_rst (c : Nat) (f : Channel → Channel) : (modChan s c f).rst = s.rst := rfl
@[simp] theorem modChan_fleet (c : Nat) (f : Channel → Channel) : (modChan s c f).fleet = s.fleet := rfl
@[simp] theorem modChan_pins (c : Nat) (f : Channel → Channel) : (modChan s c f).pins = s.pins := rfl
@[simp] theorem modChan_out (c : Nat) (f : Channel → Channel) : (modChan s c f).out = s.out := rfl
@[simp] theorem modChan_freeCtr (c : Nat) (f : Channel → Channel) : (modChan s c f).freeCtr = s.freeCtr := rfl

@[simp] theorem modPwDie_pending (d : Nat) (f : PwDie → PwDie) : (modPwDie s d f).pending = s.pending := rfl
@[simp] theorem modPwDie_tb (d : Nat) (f : PwDie → PwDie) : (modPwDie s d f).tb = s.tb := rfl
@[simp] theorem modPwDie_caps (d : Nat) (f : PwDie → PwDie) : (modPwDie s d f).caps = s.caps := rfl
@[simp] theorem modPwDie_compute (d : Nat) (f : PwDie → PwDie) : (modPwDie s d f).compute = s.compute := rfl
@[simp] theorem modPwDie_mem (d : Nat) (f : PwDie → PwDie) : (modPwDie s d f).mem = s.mem := rfl
@[simp] theorem modPwDie_fab (d : Nat) (f : PwDie → PwDie) : (modPwDie s d f).fab = s.fab := rfl
@[simp] theorem modPwDie_net (d : Nat) (f : PwDie → PwDie) : (modPwDie s d f).net = s.net := rfl
@[simp] theorem modPwDie_ctl (d : Nat) (f : PwDie → PwDie) : (modPwDie s d f).ctl = s.ctl := rfl
@[simp] theorem modPwDie_pw (d : Nat) (f : PwDie → PwDie) : (modPwDie s d f).pw = s.pw := rfl
@[simp] theorem modPwDie_rails (d : Nat) (f : PwDie → PwDie) : (modPwDie s d f).rails = s.rails := rfl
@[simp] theorem modPwDie_rst (d : Nat) (f : PwDie → PwDie) : (modPwDie s d f).rst = s.rst := rfl
@[simp] theorem modPwDie_fleet (d : Nat) (f : PwDie → PwDie) : (modPwDie s d f).fleet = s.fleet := rfl
@[simp] theorem modPwDie_pins (d : Nat) (f : PwDie → PwDie) : (modPwDie s d f).pins = s.pins := rfl
@[simp] theorem modPwDie_out (d : Nat) (f : PwDie → PwDie) : (modPwDie s d f).out = s.out := rfl
@[simp] theorem modPwDie_freeCtr (d : Nat) (f : PwDie → PwDie) : (modPwDie s d f).freeCtr = s.freeCtr := rfl

@[simp] theorem memStore_pending (k : Nat) (bs : List Byte) : (memStore s k bs).pending = s.pending := rfl
@[simp] theorem memStore_tb (k : Nat) (bs : List Byte) : (memStore s k bs).tb = s.tb := rfl
@[simp] theorem memStore_caps (k : Nat) (bs : List Byte) : (memStore s k bs).caps = s.caps := rfl
@[simp] theorem memStore_compute (k : Nat) (bs : List Byte) : (memStore s k bs).compute = s.compute := rfl
@[simp] theorem memStore_fab (k : Nat) (bs : List Byte) : (memStore s k bs).fab = s.fab := rfl
@[simp] theorem memStore_net (k : Nat) (bs : List Byte) : (memStore s k bs).net = s.net := rfl
@[simp] theorem memStore_ctl (k : Nat) (bs : List Byte) : (memStore s k bs).ctl = s.ctl := rfl
@[simp] theorem memStore_pw (k : Nat) (bs : List Byte) : (memStore s k bs).pw = s.pw := rfl
@[simp] theorem memStore_rails (k : Nat) (bs : List Byte) : (memStore s k bs).rails = s.rails := rfl
@[simp] theorem memStore_pwDies (k : Nat) (bs : List Byte) : (memStore s k bs).pwDies = s.pwDies := rfl
@[simp] theorem memStore_rst (k : Nat) (bs : List Byte) : (memStore s k bs).rst = s.rst := rfl
@[simp] theorem memStore_fleet (k : Nat) (bs : List Byte) : (memStore s k bs).fleet = s.fleet := rfl
@[simp] theorem memStore_pins (k : Nat) (bs : List Byte) : (memStore s k bs).pins = s.pins := rfl
@[simp] theorem memStore_out (k : Nat) (bs : List Byte) : (memStore s k bs).out = s.out := rfl
@[simp] theorem memStore_freeCtr (k : Nat) (bs : List Byte) : (memStore s k bs).freeCtr = s.freeCtr := rfl

@[simp] theorem modSlice_pending (k : Nat) (f : Slice → Slice) : (modSlice s k f).pending = s.pending := by unfold modSlice; split <;> rfl
@[simp] theorem modSlice_tb (k : Nat) (f : Slice → Slice) : (modSlice s k f).tb = s.tb := by unfold modSlice; split <;> rfl
@[simp] theorem modSlice_caps (k : Nat) (f : Slice → Slice) : (modSlice s k f).caps = s.caps := by unfold modSlice; split <;> rfl
@[simp] theorem modSlice_compute (k : Nat) (f : Slice → Slice) : (modSlice s k f).compute = s.compute := by unfold modSlice; split <;> rfl
@[simp] theorem modSlice_mem (k : Nat) (f : Slice → Slice) : (modSlice s k f).mem = s.mem := by unfold modSlice; split <;> rfl
@[simp] theorem modSlice_fab (k : Nat) (f : Slice → Slice) : (modSlice s k f).fab = s.fab := by unfold modSlice; split <;> rfl
@[simp] theorem modSlice_net (k : Nat) (f : Slice → Slice) : (modSlice s k f).net = s.net := by unfold modSlice; split <;> rfl
@[simp] theorem modSlice_pw (k : Nat) (f : Slice → Slice) : (modSlice s k f).pw = s.pw := by unfold modSlice; split <;> rfl
@[simp] theorem modSlice_rails (k : Nat) (f : Slice → Slice) : (modSlice s k f).rails = s.rails := by unfold modSlice; split <;> rfl
@[simp] theorem modSlice_pwDies (k : Nat) (f : Slice → Slice) : (modSlice s k f).pwDies = s.pwDies := by unfold modSlice; split <;> rfl
@[simp] theorem modSlice_rst (k : Nat) (f : Slice → Slice) : (modSlice s k f).rst = s.rst := by unfold modSlice; split <;> rfl
@[simp] theorem modSlice_fleet (k : Nat) (f : Slice → Slice) : (modSlice s k f).fleet = s.fleet := by unfold modSlice; split <;> rfl
@[simp] theorem modSlice_pins (k : Nat) (f : Slice → Slice) : (modSlice s k f).pins = s.pins := by unfold modSlice; split <;> rfl
@[simp] theorem modSlice_out (k : Nat) (f : Slice → Slice) : (modSlice s k f).out = s.out := by unfold modSlice; split <;> rfl
@[simp] theorem modSlice_freeCtr (k : Nat) (f : Slice → Slice) : (modSlice s k f).freeCtr = s.freeCtr := by unfold modSlice; split <;> rfl

@[simp] theorem takeFree_pending : (takeFree s).2.pending = s.pending := rfl
@[simp] theorem takeFree_tb : (takeFree s).2.tb = s.tb := rfl
@[simp] theorem takeFree_caps : (takeFree s).2.caps = s.caps := rfl
@[simp] theorem takeFree_compute : (takeFree s).2.compute = s.compute := rfl
@[simp] theorem takeFree_mem : (takeFree s).2.mem = s.mem := rfl
@[simp] theorem takeFree_fab : (takeFree s).2.fab = s.fab := rfl
@[simp] theorem takeFree_net : (takeFree s).2.net = s.net := rfl
@[simp] theorem takeFree_ctl : (takeFree s).2.ctl = s.ctl := rfl
@[simp] theorem takeFree_pw : (takeFree s).2.pw = s.pw := rfl
@[simp] theorem takeFree_rails : (takeFree s).2.rails = s.rails := rfl
@[simp] theorem takeFree_pwDies : (takeFree s).2.pwDies = s.pwDies := rfl
@[simp] theorem takeFree_rst : (takeFree s).2.rst = s.rst := rfl
@[simp] theorem takeFree_fleet : (takeFree s).2.fleet = s.fleet := rfl
@[simp] theorem takeFree_pins : (takeFree s).2.pins = s.pins := rfl
@[simp] theorem takeFree_out : (takeFree s).2.out = s.out := rfl

@[simp] theorem modStrand_compute_cores (p : Pos) (f : Strand → Strand) : (modStrand s p f).compute.cores = s.compute.cores := rfl
@[simp] theorem modStrand_compute_clusters (p : Pos) (f : Strand → Strand) : (modStrand s p f).compute.clusters = s.compute.clusters := rfl
@[simp] theorem modStrand_compute_maps (p : Pos) (f : Strand → Strand) : (modStrand s p f).compute.maps = s.compute.maps := rfl
@[simp] theorem modStrand_compute_d2dFailed (p : Pos) (f : Strand → Strand) : (modStrand s p f).compute.d2dFailed = s.compute.d2dFailed := rfl
@[simp] theorem modCore_compute_strands (c : CorePos) (f : Core → Core) : (modCore s c f).compute.strands = s.compute.strands := rfl
@[simp] theorem modCore_compute_clusters (c : CorePos) (f : Core → Core) : (modCore s c f).compute.clusters = s.compute.clusters := rfl
@[simp] theorem modCore_compute_maps (c : CorePos) (f : Core → Core) : (modCore s c f).compute.maps = s.compute.maps := rfl
@[simp] theorem modCore_compute_d2dFailed (c : CorePos) (f : Core → Core) : (modCore s c f).compute.d2dFailed = s.compute.d2dFailed := rfl
@[simp] theorem modCluster_compute_strands (d l : Nat) (f : Cluster → Cluster) : (modCluster s d l f).compute.strands = s.compute.strands := rfl
@[simp] theorem modCluster_compute_cores (d l : Nat) (f : Cluster → Cluster) : (modCluster s d l f).compute.cores = s.compute.cores := rfl
@[simp] theorem modCluster_compute_maps (d l : Nat) (f : Cluster → Cluster) : (modCluster s d l f).compute.maps = s.compute.maps := rfl
@[simp] theorem modCluster_compute_d2dFailed (d l : Nat) (f : Cluster → Cluster) : (modCluster s d l f).compute.d2dFailed = s.compute.d2dFailed := rfl
@[simp] theorem modGran_mem_bytes (d g : Nat) (f : Granule → Granule) : (modGran s d g f).mem.bytes = s.mem.bytes := rfl
@[simp] theorem modGran_mem_poison (d g : Nat) (f : Granule → Granule) : (modGran s d g f).mem.poison = s.mem.poison := rfl
@[simp] theorem modGran_mem_sramPoison (d g : Nat) (f : Granule → Granule) : (modGran s d g f).mem.sramPoison = s.mem.sramPoison := rfl
@[simp] theorem modGran_mem_stks (d g : Nat) (f : Granule → Granule) : (modGran s d g f).mem.stks = s.mem.stks := rfl
@[simp] theorem modGran_mem_dies (d g : Nat) (f : Granule → Granule) : (modGran s d g f).mem.dies = s.mem.dies := rfl
@[simp] theorem modGran_mem_errs (d g : Nat) (f : Granule → Granule) : (modGran s d g f).mem.errs = s.mem.errs := rfl
@[simp] theorem modGran_mem_rows (d g : Nat) (f : Granule → Granule) : (modGran s d g f).mem.rows = s.mem.rows := rfl
@[simp] theorem modGran_mem_repairQueue (d g : Nat) (f : Granule → Granule) : (modGran s d g f).mem.repairQueue = s.mem.repairQueue := rfl
@[simp] theorem modStack_mem_bytes (k : Nat) (f : Stack → Stack) : (modStack s k f).mem.bytes = s.mem.bytes := rfl
@[simp] theorem modStack_mem_poison (k : Nat) (f : Stack → Stack) : (modStack s k f).mem.poison = s.mem.poison := rfl
@[simp] theorem modStack_mem_sramPoison (k : Nat) (f : Stack → Stack) : (modStack s k f).mem.sramPoison = s.mem.sramPoison := rfl
@[simp] theorem modStack_mem_granules (k : Nat) (f : Stack → Stack) : (modStack s k f).mem.granules = s.mem.granules := rfl
@[simp] theorem modStack_mem_dies (k : Nat) (f : Stack → Stack) : (modStack s k f).mem.dies = s.mem.dies := rfl
@[simp] theorem modStack_mem_errs (k : Nat) (f : Stack → Stack) : (modStack s k f).mem.errs = s.mem.errs := rfl
@[simp] theorem modStack_mem_rows (k : Nat) (f : Stack → Stack) : (modStack s k f).mem.rows = s.mem.rows := rfl
@[simp] theorem modStack_mem_repairQueue (k : Nat) (f : Stack → Stack) : (modStack s k f).mem.repairQueue = s.mem.repairQueue := rfl
@[simp] theorem modHbm_mem_bytes (d : Nat) (f : HbmDie → HbmDie) : (modHbm s d f).mem.bytes = s.mem.bytes := rfl
@[simp] theorem modHbm_mem_poison (d : Nat) (f : HbmDie → HbmDie) : (modHbm s d f).mem.poison = s.mem.poison := rfl
@[simp] theorem modHbm_mem_sramPoison (d : Nat) (f : HbmDie → HbmDie) : (modHbm s d f).mem.sramPoison = s.mem.sramPoison := rfl
@[simp] theorem modHbm_mem_granules (d : Nat) (f : HbmDie → HbmDie) : (modHbm s d f).mem.granules = s.mem.granules := rfl
@[simp] theorem modHbm_mem_stks (d : Nat) (f : HbmDie → HbmDie) : (modHbm s d f).mem.stks = s.mem.stks := rfl
@[simp] theorem modHbm_mem_errs (d : Nat) (f : HbmDie → HbmDie) : (modHbm s d f).mem.errs = s.mem.errs := rfl
@[simp] theorem modHbm_mem_rows (d : Nat) (f : HbmDie → HbmDie) : (modHbm s d f).mem.rows = s.mem.rows := rfl
@[simp] theorem modHbm_mem_repairQueue (d : Nat) (f : HbmDie → HbmDie) : (modHbm s d f).mem.repairQueue = s.mem.repairQueue := rfl
@[simp] theorem memStore_mem_granules (k : Nat) (bs : List Byte) : (memStore s k bs).mem.granules = s.mem.granules := rfl
@[simp] theorem memStore_mem_stks (k : Nat) (bs : List Byte) : (memStore s k bs).mem.stks = s.mem.stks := rfl
@[simp] theorem memStore_mem_dies (k : Nat) (bs : List Byte) : (memStore s k bs).mem.dies = s.mem.dies := rfl
@[simp] theorem memStore_mem_errs (k : Nat) (bs : List Byte) : (memStore s k bs).mem.errs = s.mem.errs := rfl
@[simp] theorem memStore_mem_rows (k : Nat) (bs : List Byte) : (memStore s k bs).mem.rows = s.mem.rows := rfl
@[simp] theorem memStore_mem_repairQueue (k : Nat) (bs : List Byte) : (memStore s k bs).mem.repairQueue = s.mem.repairQueue := rfl
@[simp] theorem modRoute_net_ports (f : Route → Route) : (modRoute s f).net.ports = s.net.ports := rfl
@[simp] theorem modRoute_net_poolUsed (f : Route → Route) : (modRoute s f).net.poolUsed = s.net.poolUsed := rfl
@[simp] theorem modRoute_net_meters (f : Route → Route) : (modRoute s f).net.meters = s.net.meters := rfl
@[simp] theorem modRoute_net_links (f : Route → Route) : (modRoute s f).net.links = s.net.links := rfl
@[simp] theorem modRoute_net_lanes (f : Route → Route) : (modRoute s f).net.lanes = s.net.lanes := rfl
@[simp] theorem modRoute_net_optics (f : Route → Route) : (modRoute s f).net.optics = s.net.optics := rfl
@[simp] theorem modLink_net_route (i : Nat) (f : LinkPort → LinkPort) : (modLink s i f).net.route = s.net.route := rfl
@[simp] theorem modLink_net_ports (i : Nat) (f : LinkPort → LinkPort) : (modLink s i f).net.ports = s.net.ports := rfl
@[simp] theorem modLink_net_poolUsed (i : Nat) (f : LinkPort → LinkPort) : (modLink s i f).net.poolUsed = s.net.poolUsed := rfl
@[simp] theorem modLink_net_meters (i : Nat) (f : LinkPort → LinkPort) : (modLink s i f).net.meters = s.net.meters := rfl
@[simp] theorem modLink_net_lanes (i : Nat) (f : LinkPort → LinkPort) : (modLink s i f).net.lanes = s.net.lanes := rfl
@[simp] theorem modLink_net_optics (i : Nat) (f : LinkPort → LinkPort) : (modLink s i f).net.optics = s.net.optics := rfl
@[simp] theorem modPort_net_route (i : Nat) (f : SwPort → SwPort) : (modPort s i f).net.route = s.net.route := rfl
@[simp] theorem modPort_net_poolUsed (i : Nat) (f : SwPort → SwPort) : (modPort s i f).net.poolUsed = s.net.poolUsed := rfl
@[simp] theorem modPort_net_meters (i : Nat) (f : SwPort → SwPort) : (modPort s i f).net.meters = s.net.meters := rfl
@[simp] theorem modPort_net_links (i : Nat) (f : SwPort → SwPort) : (modPort s i f).net.links = s.net.links := rfl
@[simp] theorem modPort_net_lanes (i : Nat) (f : SwPort → SwPort) : (modPort s i f).net.lanes = s.net.lanes := rfl
@[simp] theorem modPort_net_optics (i : Nat) (f : SwPort → SwPort) : (modPort s i f).net.optics = s.net.optics := rfl
@[simp] theorem modChan_ctl_hl (c : Nat) (f : Channel → Channel) : (modChan s c f).ctl.hl = s.ctl.hl := rfl
@[simp] theorem modChan_ctl_memWaits (c : Nat) (f : Channel → Channel) : (modChan s c f).ctl.memWaits = s.ctl.memWaits := rfl
@[simp] theorem modChan_ctl_txns (c : Nat) (f : Channel → Channel) : (modChan s c f).ctl.txns = s.ctl.txns := rfl
@[simp] theorem modChan_ctl_slices (c : Nat) (f : Channel → Channel) : (modChan s c f).ctl.slices = s.ctl.slices := rfl
@[simp] theorem modChan_ctl_oldUsage (c : Nat) (f : Channel → Channel) : (modChan s c f).ctl.oldUsage = s.ctl.oldUsage := rfl
@[simp] theorem modChan_ctl_trust (c : Nat) (f : Channel → Channel) : (modChan s c f).ctl.trust = s.ctl.trust := rfl
@[simp] theorem modChan_ctl_records (c : Nat) (f : Channel → Channel) : (modChan s c f).ctl.records = s.ctl.records := rfl
@[simp] theorem modChan_ctl_fw (c : Nat) (f : Channel → Channel) : (modChan s c f).ctl.fw = s.ctl.fw := rfl
@[simp] theorem modChan_ctl_samplers (c : Nat) (f : Channel → Channel) : (modChan s c f).ctl.samplers = s.ctl.samplers := rfl
@[simp] theorem modChan_ctl_watermarks (c : Nat) (f : Channel → Channel) : (modChan s c f).ctl.watermarks = s.ctl.watermarks := rfl
@[simp] theorem modChan_ctl_tap (c : Nat) (f : Channel → Channel) : (modChan s c f).ctl.tap = s.ctl.tap := rfl

@[simp] theorem modSlice_ctl_hl (k : Nat) (f : Slice → Slice) : (modSlice s k f).ctl.hl = s.ctl.hl := by unfold modSlice; split <;> rfl
@[simp] theorem modSlice_ctl_channels (k : Nat) (f : Slice → Slice) : (modSlice s k f).ctl.channels = s.ctl.channels := by unfold modSlice; split <;> rfl
@[simp] theorem modSlice_ctl_memWaits (k : Nat) (f : Slice → Slice) : (modSlice s k f).ctl.memWaits = s.ctl.memWaits := by unfold modSlice; split <;> rfl
@[simp] theorem modSlice_ctl_txns (k : Nat) (f : Slice → Slice) : (modSlice s k f).ctl.txns = s.ctl.txns := by unfold modSlice; split <;> rfl
@[simp] theorem modSlice_ctl_oldUsage (k : Nat) (f : Slice → Slice) : (modSlice s k f).ctl.oldUsage = s.ctl.oldUsage := by unfold modSlice; split <;> rfl
@[simp] theorem modSlice_ctl_trust (k : Nat) (f : Slice → Slice) : (modSlice s k f).ctl.trust = s.ctl.trust := by unfold modSlice; split <;> rfl
@[simp] theorem modSlice_ctl_records (k : Nat) (f : Slice → Slice) : (modSlice s k f).ctl.records = s.ctl.records := by unfold modSlice; split <;> rfl
@[simp] theorem modSlice_ctl_fw (k : Nat) (f : Slice → Slice) : (modSlice s k f).ctl.fw = s.ctl.fw := by unfold modSlice; split <;> rfl
@[simp] theorem modSlice_ctl_samplers (k : Nat) (f : Slice → Slice) : (modSlice s k f).ctl.samplers = s.ctl.samplers := by unfold modSlice; split <;> rfl
@[simp] theorem modSlice_ctl_watermarks (k : Nat) (f : Slice → Slice) : (modSlice s k f).ctl.watermarks = s.ctl.watermarks := by unfold modSlice; split <;> rfl
@[simp] theorem modSlice_ctl_tap (k : Nat) (f : Slice → Slice) : (modSlice s k f).ctl.tap = s.ctl.tap := by unfold modSlice; split <;> rfl

/-! ## An accessor after an update of its own table -/

/-- Positions have numbers of their own. -/
theorem coreIx_inj {c d : CorePos} (h : coreIx c = coreIx d) : c = d := by
  obtain ⟨⟨a, ha⟩, ⟨b, hb⟩, ⟨e, he⟩⟩ := c
  obtain ⟨⟨a', ha'⟩, ⟨b', hb'⟩, ⟨e', he'⟩⟩ := d
  simp only [coreIx] at h
  simp only [CorePos.mk.injEq, Fin.mk.injEq]
  omega

theorem posIx_inj {p q : Pos} (h : posIx p = posIx q) : p = q := by
  obtain ⟨⟨a, ha⟩, ⟨b, hb⟩, ⟨e, he⟩, ⟨k, hk⟩⟩ := p
  obtain ⟨⟨a', ha'⟩, ⟨b', hb'⟩, ⟨e', he'⟩, ⟨k', hk'⟩⟩ := q
  simp only [posIx, coreIx, coreOf] at h
  simp only [Pos.mk.injEq, Fin.mk.injEq]
  omega

@[simp] theorem getStrand_modStrand (p : Pos) (f : Strand → Strand) : getStrand (modStrand s p f) p = f (getStrand s p) := by
  simp [getStrand, modStrand]

theorem getStrand_modStrand_ne {p q : Pos} (f : Strand → Strand) (h : q ≠ p) : getStrand (modStrand s p f) q = getStrand s q := by
  simp only [getStrand, modStrand]
  exact Tab.getD_upd_ne _ _ _ _ (fun e => h (posIx_inj e).symm)

@[simp] theorem getCore_modCore (c : CorePos) (f : Core → Core) : getCore (modCore s c f) c = f (getCore s c) := by
  simp [getCore, modCore]

theorem getCore_modCore_ne {c d : CorePos} (f : Core → Core) (h : d ≠ c) : getCore (modCore s c f) d = getCore s d := by
  simp only [getCore, modCore]
  exact Tab.getD_upd_ne _ _ _ _ (fun e => h (coreIx_inj e).symm)

@[simp] theorem getStrand_modCore (p : Pos) (c : CorePos) (f : Core → Core) : getStrand (modCore s c f) p = getStrand s p := rfl
@[simp] theorem getCore_modStrand (p : Pos) (c : CorePos) (f : Strand → Strand) : getCore (modStrand s p f) c = getCore s c := rfl
@[simp] theorem getEp_modEp (d : Nat) (f : Endpoint → Endpoint) : getEp (modEp s d f) d = f (getEp s d) := by simp [getEp, modEp]
@[simp] theorem getGran_modGran (d g : Nat) (f : Granule → Granule) : getGran (modGran s d g f) d g = f (getGran s d g) := by simp [getGran, modGran]
@[simp] theorem getStack_modStack (k : Nat) (f : Stack → Stack) : getStack (modStack s k f) k = f (getStack s k) := by simp [getStack, modStack]
@[simp] theorem getHbm_modHbm (d : Nat) (f : HbmDie → HbmDie) : getHbm (modHbm s d f) d = f (getHbm s d) := by simp [getHbm, modHbm]
@[simp] theorem getRing_modRing (r : Nat) (f : Ring → Ring) : getRing (modRing s r f) r = f (getRing s r) := by simp [getRing, modRing]
@[simp] theorem getGroup_modGroup (c : Nat) (f : Group → Group) : getGroup (modGroup s c f) c = f (getGroup s c) := by simp [getGroup, modGroup]
@[simp] theorem getPort_modPort (i : Nat) (f : SwPort → SwPort) : getPort (modPort s i f) i = f (getPort s i) := by simp [getPort, modPort]
@[simp] theorem getLink_modLink (i : Nat) (f : LinkPort → LinkPort) : getLink (modLink s i f) i = f (getLink s i) := by simp [getLink, modLink]
@[simp] theorem getChan_modChan (c : Nat) (f : Channel → Channel) : getChan (modChan s c f) c = f (getChan s c) := by simp [getChan, modChan]
@[simp] theorem getPwDie_modPwDie (d : Nat) (f : PwDie → PwDie) : getPwDie (modPwDie s d f) d = f (getPwDie s d) := by simp [getPwDie, modPwDie]
@[simp] theorem getCluster_modCluster (d l : Nat) (f : Cluster → Cluster) : getCluster (modCluster s d l f) d l = f (getCluster s d l) := by simp [getCluster, modCluster]
@[simp] theorem getMap_modMap (d : Nat) (f : ClMap → ClMap) : getMap (modMap s d f) d = f (getMap s d) := by simp [getMap, modMap]

theorem getSlice_modSlice (k : Nat) (f : Slice → Slice) : getSlice (modSlice s k f) k = (getSlice s k).map f := by
  unfold modSlice
  split
  · rename_i sl h; simp [getSlice] at h ⊢; simp [h]
  · rename_i h; simp [h]

@[simp] theorem getSlice_modChan (k c : Nat) (f : Channel → Channel) : getSlice (modChan s c f) k = getSlice s k := rfl
@[simp] theorem getChan_modSlice (k c : Nat) (f : Slice → Slice) : getChan (modSlice s k f) c = getChan s c := by simp [getChan]

end Sys2Proof.Machine
end

