-- ==== Sys2Proof/Laws/Ops.lean ====
section
/-! SUPPORT. What each shared operation can change: for every operation, that its answer is the old state but for the parts named. -/

namespace Sys2Proof.Machine

variable (s : State)

theorem record_only (e : ErrEv) : ∃ f, record s e = { s with fleet := f } := ⟨_, rfl⟩

theorem recordSlice_only (e : ErrEv) (id : BitVec 16) : ∃ f, recordSlice s e id = { s with fleet := f } := by
  unfold recordSlice
  split
  · exact record_only _ _
  · exact record_only _ _

theorem countError_only (e : ErrEv) : ∃ f, countError s e = { s with fleet := f } := ⟨_, rfl⟩

theorem modSlice_only (k : Nat) (f : Slice → Slice) : ∃ sl, modSlice s k f = { s with ctl := { s.ctl with slices := sl } } := by
  unfold modSlice
  split
  · exact ⟨_, rfl⟩
  · exact ⟨s.ctl.slices, rfl⟩

/-- A wake of the monitors changes rings and groups. -/
theorem monitorWake_only (d off n : Nat) : ∃ r g, monitorWake s d off n = { s with fab := { s.fab with rings := r, groups := g } } := by
  unfold monitorWake
  generalize (getEp s d).monitors = l
  induction l generalizing s with
  | nil => exact ⟨s.fab.rings, s.fab.groups, rfl⟩
  | cons m l ih =>
    simp only [List.foldl_cons]
    split
    · split
      · obtain ⟨r, g, h⟩ := ih (modRing s _ (fun x => { x with pendingBit := true }))
        rw [h]
        exact ⟨r, g, rfl⟩
      · obtain ⟨r, g, h⟩ := ih (modGroup s _ (fun x => { x with pendingBit := true }))
        rw [h]
        exact ⟨r, g, rfl⟩
    · exact ih s

/-- What an event changes: memory, where the slice's ring lies, the rings and groups whose monitors see the lines written, and the slice's ring state. -/
def Posted (s t : State) : Prop := t = { s with mem := t.mem, fab := { s.fab with rings := t.fab.rings, groups := t.fab.groups }, ctl := { s.ctl with slices := t.ctl.slices } }

theorem Posted.refl : Posted s s := rfl

theorem Posted.trans {s t u : State} (h : Posted s t) (h' : Posted t u) : Posted s u := by
  unfold Posted at *
  rw [h'] at *
  rw [h]

theorem memStore_posted (a : Nat) (bs : List Byte) : Posted s (memStore s a bs) := rfl

theorem monitorWake_posted (d off n : Nat) : Posted s (monitorWake s d off n) := by
  obtain ⟨r, g, h⟩ := monitorWake_only s d off n
  rw [h]
  rfl

theorem modSlice_posted (k : Nat) (f : Slice → Slice) : Posted s (modSlice s k f) := by
  obtain ⟨sl, h⟩ := modSlice_only s k f
  rw [h]
  rfl

theorem postEvent_posted (k : Nat) (e : SlEv) : Posted s (postEvent s k e) := by
  unfold postEvent
  split
  · exact Posted.refl s
  · dsimp only
    split
    · exact modSlice_posted s k _
    · exact ((((memStore_posted s _ _).trans (monitorWake_posted _ _ _ _)).trans (memStore_posted _ _ _)).trans (monitorWake_posted _ _ _ _)).trans (modSlice_posted _ k _)

theorem postEventId_posted (id : BitVec 16) (e : SlEv) : Posted s (postEventId s id e) := by
  unfold postEventId
  split
  · exact postEvent_posted _ _ _
  · exact Posted.refl s

/-- Bringing a core's count up to date changes that core and takes a free value. -/
theorem touchCycle_only (c : CorePos) : ∃ cs n, touchCycle s c = { s with compute := { s.compute with cores := cs }, freeCtr := n } := by
  unfold touchCycle
  dsimp only
  split
  · exact ⟨s.compute.cores, _, rfl⟩
  · exact ⟨_, _, rfl⟩

/-- A posted trap or freeze leaves every strand as it was. -/
theorem postStrand_only (p : Pos) (kind cause : Nat) (epc tval : Word) :
    ∃ t cs n f, Posted { s with compute := { s.compute with cores := cs }, freeCtr := n } t ∧ postStrand s p kind cause epc tval = { t with fleet := f } := by
  unfold postStrand
  dsimp only
  obtain ⟨cs, n, h⟩ := touchCycle_only s (coreOf p)
  rw [h]
  obtain ⟨f, h'⟩ := recordSlice_only (postEventId { s with compute := { s.compute with cores := cs }, freeCtr := n } (strandSliceId { s with compute := { s.compute with cores := cs }, freeCtr := n } p)
    { kind := kind, status := BitVec.ofNat 16 cause, strand := strandIdLow p, location := epc, aux := tval, cycle := some (cycleWord (getCore { s with compute := { s.compute with cores := cs }, freeCtr := n } (coreOf p))) })
    { source := srcCore (coreOf p), event := evStrandFault, status := BitVec.ofNat 16 cause, location := tval, cycle := some (cycleWord (getCore { s with compute := { s.compute with cores := cs }, freeCtr := n } (coreOf p))) }
    (strandSliceId { s with compute := { s.compute with cores := cs }, freeCtr := n } p)
  exact ⟨_, cs, n, f, postEventId_posted _ _ _, h'⟩

/-- Leaving a barrier changes a core's barriers. -/
theorem barrierLeave_only (p : Pos) : ∃ cs, barrierLeave s p = { s with compute := { s.compute with cores := cs } } := ⟨_, rfl⟩

@[simp] theorem getStrand_barrierLeave (p q : Pos) : getStrand (barrierLeave s p) q = getStrand s q := rfl

/-- A local store changes only what TMMAs in flight may read. -/
theorem spoilOver_only (c : CorePos) (a n : Nat) : ∃ cs, spoilOver s c a n = { s with compute := { s.compute with cores := cs } } := by
  have tile : ∀ (s : State) (c : CorePos), ∃ cs, spoilTile s c a n = { s with compute := { s.compute with cores := cs } } := fun _ _ => ⟨_, rfl⟩
  have fold : ∀ (l : List CorePos) (s : State), ∃ cs, l.foldl (fun s k => if (getCore s k).engines.isEmpty then s else spoilTile s k a n) s = { s with compute := { s.compute with cores := cs } } := by
    intro l
    induction l with
    | nil => intro s; exact ⟨s.compute.cores, rfl⟩
    | cons k l ih =>
      intro s
      simp only [List.foldl_cons]
      split
      · exact ih s
      · obtain ⟨cs, h⟩ := tile s k
        obtain ⟨cs', h'⟩ := ih (spoilTile s k a n)
        rw [h', h]
        exact ⟨cs', rfl⟩
  unfold spoilOver
  split
  · exact tile s c
  · exact fold _ s

/-- A store changes the bytes of memory and may clear marks of poison. -/
theorem memStore_only (k : Nat) (bs : List Byte) : ∃ b q r, memStore s k bs = { s with mem := { s.mem with bytes := b, poison := q, sramPoison := r } } := ⟨_, _, _, rfl⟩

/-- Storing keeps the memory's canonical form. -/
theorem memStore_wf {s : State} (k : Nat) (bs : List Byte) (h : Memory.wf s.mem.bytes) : Memory.wf (memStore s k bs).mem.bytes := Memory.wf_write _ _ h

end Sys2Proof.Machine
end

