-- ==== Sys2Proof/Laws/Strand.lean ====
section
/-! SUPPORT. What the issue of an instruction does, case by case, and what its completion leaves. -/

namespace Sys2Proof.Machine

/-- What the strand's turn gives: issue is then what the instruction meets in order. -/
theorem issue_turn {s : State} {p : Pos} (h : Fetches s p) (g : Guard) (legal : Bool) (regs reads : List (BitVec 6)) (body : State → State) :
    issue s p g legal regs body reads = issueNow s p g legal regs reads body := by
  obtain ⟨h1, h2, h3, h4, h5, h6, _, _, _⟩ := h
  simp [issue, canRun, h1, h2, h3, h4, h5, h6]

theorem Reaches.fetches {s : State} {p : Pos} {g : Guard} {regs reads : List (BitVec 6)} (h : Reaches s p g regs reads) : Fetches s p :=
  ⟨h.ready, h.resident, h.running, h.unyielded, h.turn, h.supplied, h.fetched, h.clean, h.unbroken⟩

/-- An instruction that reaches its effect has it. -/
theorem issue_reaches {s : State} {p : Pos} {g : Guard} {regs reads : List (BitVec 6)} (h : Reaches s p g regs reads) (body : State → State) :
    issue s p g true regs body reads = body s := by
  rw [issue_turn h.fetches]
  simp only [issueNow, h.fetched, h.clean, h.unbroken, h.guard, h.free, h.sound]
  simp

/-- An encoding that is not legal traps with ILLEGAL_OP, whatever the guard. -/
theorem issue_illegal {s : State} {p : Pos} (g : Guard) (regs reads : List (BitVec 6)) (h : Fetches s p) (body : State → State) :
    issue s p g false regs body reads = trapFree s p cIllegal := by
  rw [issue_turn h]
  simp only [issueNow, h.fetched, h.clean, h.unbroken]
  simp

/-- A false guard completes the instruction with no effect. -/
theorem issue_guard {s : State} {p : Pos} {g : Guard} (regs reads : List (BitVec 6)) (h : Fetches s p) (hg : guardOk (getStrand s p) g = false)
    (body : State → State) : issue s p g true regs body reads = finish s p id := by
  rw [issue_turn h]
  simp only [issueNow, h.fetched, h.clean, h.unbroken, hg]
  simp

/-- A completed instruction leaves its strand advanced and changed, and all else as it was. -/
theorem finish_completed (s : State) (p : Pos) (f : Strand → Strand) : Completed s (finish s p f) p (f (advance (getStrand s p))) where
  strand := by simp [finish, issued, advance]
  others q hq := by simp [finish, issued, getStrand_modStrand_ne _ _ hq]
  core := ⟨_, _, _, _, by simp only [finish, issued, getCore_modStrand, getCore_modCore]; rfl⟩
  cores c hc := by simp [finish, issued, getCore_modCore_ne _ _ hc]
  rest := rfl

theorem finishTo_completed (s : State) (p : Pos) (target : Word) (f : Strand → Strand) :
    Completed s (finishTo s p target f) p (f (jump target (getStrand s p))) where
  strand := by simp [finishTo, issued, jump]
  others q hq := by simp [finishTo, issued, getStrand_modStrand_ne _ _ hq]
  core := ⟨_, _, _, _, by simp only [finishTo, issued, getCore_modStrand, getCore_modCore]; rfl⟩
  cores c hc := by simp [finishTo, issued, getCore_modCore_ne _ _ hc]
  rest := rfl

/-! ## Registers and predicates of a strand -/

@[simp] theorem rd_zero (st : Strand) : rd st 0 = 0 := rfl
@[simp] theorem wr_zero (st : Strand) (v : Word) : wr st 0 v = st := rfl
@[simp] theorem rdP_zero (st : Strand) : rdP st 0 = true := rfl
@[simp] theorem wrP_zero (st : Strand) (v : Bool) : wrP st 0 v = st := rfl
@[simp] theorem rd_advance (st : Strand) (r : BitVec 6) : rd (advance st) r = rd st r := rfl
@[simp] theorem rdP_advance (st : Strand) (r : BitVec 3) : rdP (advance st) r = rdP st r := rfl

/-- A register reads what was written to it; s0 reads zero. -/
theorem rd_wr (st : Strand) (r : BitVec 6) (v : Word) (h : r ≠ 0) : rd (wr st r v) r = v := by
  unfold rd wr
  rw [if_neg h, if_neg h]
  exact Tab.getD_set_self _ _ _ _

theorem rd_wr_ne (st : Strand) {r q : BitVec 6} (v : Word) (h : q ≠ r) : rd (wr st r v) q = rd st q := by
  unfold wr
  split
  · rfl
  · unfold rd
    split
    · rfl
    · refine Tab.getD_set_ne _ _ _ (fun e => h ?_)
      exact (BitVec.eq_of_toNat_eq e).symm

end Sys2Proof.Machine
end

