-- ==== Sys2Proof/Tests/Slice0.lean ====
section
/-! SUPPORT. The author's own tests: the well-formedness smoke, a few worked values of the spec, and for every statement with hypotheses a state and operands that meet them. -/

open Sys2Proof Sys2Proof.Machine

namespace Sys2Proof.Tests

set_option Elab.async false

/-! ## Well-formedness: an ill-formed term for each check -/

def req0 : Req := { src := 0, flow := 0, seq := 0, slice := 0, opcode := 1, addr := 0, key := 0, data := [], comb := false, crowd := false, parts := [], flags := 0 }
def pkt0 : Packet := { ver := 0, cls := 0, epoch := 0, dst := 0, src := 0, slice := 0, flow := 0, seq := 0, opcode := 1, crowd := false, comb := false, colour := 0, grade := 0, key := 0, addr := 0, reserved := false, box := none, data := [], parts := [], flags := 0 }
def hdr0 : Hdr := { channel := 64, tag := 1, slice := 0xFFFF, version := 1, length := 0, rel := false, isSealed := false, isSigned := false, scount := 0, sealOk := false, target := 0, ocount := 0, sigOk := false }
def collHdr0 : CollHdr := { gid := 1, gepoch := 0, part := 0, opseq := 0, chunk := 0, paramcrc := 0 }
def verdict0 : SegVerdict := { groups := [], first := 0, blocks := 1, before := 0, tagOk := true }

theorem test_wf_request : (Instr.homeRequest 0 { req0 with data := List.replicate 65 0 }).wf = false ∧ (Instr.homeRequest 0 { req0 with parts := List.replicate 16 (0, 0, 0) }).wf = false ∧ (Instr.homeRequest 0 req0).wf = true := by decide
theorem test_wf_response : (Instr.responseArrive 0 { flow := 0, seq := 0, word := 0, data := List.replicate 65 0, crowd := false }).wf = false := by decide
theorem test_wf_packet : (Instr.packetArrive 0 0 { pkt0 with parts := List.replicate 16 (0, 0, 0) }).wf = false ∧ (Instr.packetArrive 0 0 pkt0).wf = true := by decide
theorem test_wf_packet_data (d : List Byte) (h : d.length = 4117) : (Instr.packetArrive 0 0 { pkt0 with data := d }).wf = false := by simp [Instr.wf, packetOk, h]
theorem test_wf_segment : (Instr.segmentReceive 0 0 false verdict0 [.packet 0 { pkt0 with parts := List.replicate 16 (0, 0, 0) }]).wf = false ∧ (Instr.segmentReceive 0 0 false verdict0 [.stomped 0 { pkt0 with parts := List.replicate 16 (0, 0, 0) }]).wf = false ∧ (Instr.segmentReceive 0 0 false verdict0 [.credit 0 1]).wf = true := by decide
theorem test_wf_lists : (Instr.copyDelegate 0 0 0 0 []).wf = false ∧ (Instr.digest 0 collHdr0 0 []).wf = false ∧ (Instr.eqComplete 0 []).wf = false ∧ (Instr.attest hdr0 []).wf = false ∧ (Instr.usageRead hdr0 []).wf = false ∧ (Instr.testUnlock hdr0 []).wf = false ∧ (Instr.resetNRelease []).wf = false := by decide
theorem test_wf_data (d : List Byte) (h : d.length = 4097) : (Instr.bulkData 0 0 0 0 0 d 0 []).wf = false ∧ (Instr.chunkUp 0 collHdr0 d 0 true true false).wf = false ∧ (Instr.chunkDown 0 collHdr0 d 0 true true false).wf = false ∧ (Instr.fwStageData hdr0 0 d).wf = false := by simp [Instr.wf, h]
theorem test_wf_params (d : List Byte) (h : d.length = 4097) : (Instr.sliceStage hdr0 0 d).wf = false ∧ (Instr.routeStage hdr0 0 d).wf = false ∧ (Instr.groupStage hdr0 0 d).wf = false ∧ (Instr.memWrite hdr0 0 d).wf = false ∧ (Instr.sessionOpen hdr0 d true true).wf = false ∧ (Instr.opkeyRotate hdr0 d true).wf = false := by simp [Instr.wf, paramsFit, h]
theorem test_wf_coords : (Instr.nodeLost 0 ⟨16, 0, 0, 0⟩ 0).wf = false ∧ (Instr.linkLost 0 ⟨0, 0, 0, 0⟩ ⟨0, 16, 0, 0⟩ 0).wf = false ∧ (Instr.nodeBack 0 ⟨0, 0, 16, 0⟩ 0).wf = false ∧ (Instr.identCheck 0 ⟨0, 0, 0, 16⟩ 0 0).wf = false := by decide
theorem test_wf_samples : (Instr.powerSample [] [0, 0, 0, 0] [] [] 0).wf = false ∧ (Instr.thermalSample [0, 0, 0] (List.replicate 16 0) 0).wf = false ∧ (Instr.thermalSample [0, 0, 0, 0] (List.replicate 16 0) 0).wf = true := by decide

/-! ## A small module: one slice on one cluster, its first strand READY -/

def p0 : Pos := ⟨0, 0, 0, 0⟩
def c0 : CorePos := ⟨0, 0, 0⟩
def g0 : Guard := ⟨0, false⟩
def sl0 : Slice := { id := 1, desc := [], exact := false, timesliced := false, debugOk := true, quantum := 1, job := 7, maxFlows := 8, maxRings := 8, maxGroups := 8, maxDeckles := 8, clusters := [(0, 0)], st := .resident }

/-- Strand 0 of CD0.CL0.C0 as given, in slice 1, which owns granule 0 and counter block 0 of CD0; the host link is ACTIVE. -/
def one (st : Strand) : State :=
  { compute := { strands := [(0, st)], maps := [(0, { map := [(0, 0)] })] }
    mem := { granules := [(0, { st := .owned, owner := 1 })] }
    fab := { eps := [(0, { counterOwner := [(0, 1)] })] }
    net := { links := [(64, { st := .active })] }
    ctl := { slices := [(0, sl0)], channels := [(0, { slice := 1 })] } }

def base : State := one { st := .ready }

def regs (l : List (Nat × Word)) : Strand := { st := .ready, regs := l }

/-- With the round-robin at strand 0, no strand stands before it. -/
theorem turn_first (s : State) (h : (getCore s (coreOf p0)).rr = 0) : itsTurn s p0 = true := by
  have hp : p0.strand.val = 0 := rfl
  simp [itsTurn, searchIx, h, hp]

theorem reaches_base (rs qs : List (BitVec 6)) : Reaches base p0 g0 rs qs :=
  ⟨by decide, by decide, by decide, by decide, by decide, by decide, by decide, by decide, by decide, by decide,
   by have h : busyRegs base p0 = [] := by decide
      simp [h],
   by have h : (getStrand base p0).badRegs = [] := by decide
      simp [h]⟩

theorem reaches_one (l : Tab Word) (rs qs : List (BitVec 6)) : Reaches (one (regs l)) p0 g0 rs qs :=
  ⟨rfl, rfl, rfl, rfl, turn_first _ rfl, (by decide : fetchHeld (one (regs [])) p0 = false), (by decide : fetchOk (one (regs [])) p0 = true), rfl, rfl, rfl,
   by have h : busyRegs (one (regs l)) p0 = [] := rfl
      simp [h],
   by have h : (getStrand (one (regs l)) p0).badRegs = [] := rfl
      simp [h]⟩

/-! ## Worked values of the spec for the instructions of a strand -/

def after (i : Instr) (s : State) : Option State :=
  match exec i s with
  | .next t => some t
  | _ => none

def reg (i : Instr) (s : State) (r : BitVec 6) : Option Word := (after i s).map (fun t => rd (getStrand t p0) r)

/-- R78: SRA fills with the sign, and a shift takes sb[5:0]. -/
theorem test_sra : reg (.sra p0 g0 3 1 2) (one (regs [(1, 0x8000000000000000), (2, 65)])) 3 = some 0xC000000000000000 := by decide
theorem test_clz_ctz : reg (.clz p0 g0 3 1 0) (one (regs [(1, 1)])) 3 = some 63 ∧ reg (.ctz p0 g0 3 0 0) base 3 = some 64 := by decide
/-- R79: a divisor of 0 and -2^63 / -1. -/
theorem test_div_corners : reg (.div p0 g0 3 1 0) (one (regs [(1, 5)])) 3 = some (-1) ∧ reg (.rem p0 g0 3 1 0) (one (regs [(1, 5)])) 3 = some 5 ∧
    reg (.div p0 g0 3 1 2) (one (regs [(1, 0x8000000000000000), (2, -1)])) 3 = some 0x8000000000000000 := by decide
theorem test_mulh : reg (.mulh p0 g0 3 1 1) (one (regs [(1, -1)])) 3 = some 0 ∧ reg (.mulhu p0 g0 3 1 1) (one (regs [(1, -1)])) 3 = some (-2) := by decide
/-- R81: INS32 replaces bits [47:32]. -/
theorem test_ins32 : reg (.ins32 p0 g0 1 0xABCD) (one (regs [(1, 0x1111222233334444)])) 1 = some 0x1111ABCD33334444 := by decide
/-- R69: a write to s0 is discarded. -/
theorem test_s0 : reg (.li p0 g0 0 5) base 0 = some 0 := by decide
/-- R84: a branch of -1 words, and JR to an odd address. -/
theorem test_br : (after (.br p0 g0 0x3FFFFF) (one { st := .ready, pc := 8 })).map (fun t => (getStrand t p0).pc) = some 4 := by decide
theorem test_jr_misaligned : (after (.jr p0 g0 3 1) (one (regs [(1, 2)]))).map (fun t => ((getStrand t p0).st, (getStrand t p0).code, rd (getStrand t p0) 3)) = some (.trapped, 3, 0) := by decide
/-- R82: CMP by FN 1 ANDs into the predicate. -/
theorem test_cmp_and : (after (.cmp p0 g0 2 1 1 0 1) (one (regs [(1, -1)]))).map (fun t => rdP (getStrand t p0) 1) = some false ∧
    (after (.cmp p0 g0 2 1 1 0 0) (one (regs [(1, -1)]))).map (fun t => rdP (getStrand t p0) 1) = some true := by decide
/-- R75: a guard that does not hold. -/
theorem test_guard : (after (.li p0 ⟨0, true⟩ 3 5) base).map (fun t => (rd (getStrand t p0) 3, (getStrand t p0).pc)) = some (0, 4) := by decide
/-- R85: STL.B then LDL, zero- and sign-extended. -/
theorem test_local : ((after (.stlW p0 g0 1 0 1) (one (regs [(1, 0x80000000)]))).bind (fun t => (after (.ldlWs p0 g0 2 0 1) t).bind (after (.ldlH p0 g0 3 0 3)))).map (fun t => (rd (getStrand t p0) 2, rd (getStrand t p0) 3)) = some (0xFFFFFFFF80000000, 0x8000) := by decide
/-- R85, R106: the last byte of the tile store, and one beyond. -/
theorem test_local_range : reg (.ldlB p0 g0 2 1 0) (one (regs [(1, 0xFFFFF), (2, 1)])) 2 = some 0 ∧ (after (.ldlB p0 g0 2 1 1) (one (regs [(1, 0xFFFFF)]))).map (fun t => (getStrand t p0).code) = some 4 := by decide
/-- R67: SPAWN of a FREE strand, and of one that is not. -/
theorem test_spawn : (after (.spawn p0 g0 1 1 0) (one (regs [(1, 3)]))).map (fun t => ((getStrand t ⟨0, 0, 0, 3⟩).st, rdP (getStrand t p0) 1)) = some (.ready, true) ∧
    (after (.spawn p0 g0 1 0 0) base).map (fun t => rdP (getStrand t p0) 1) = some false := by decide
/-- R103: a trap with TVEC.EN set goes to the handler. -/
theorem test_trap_handler : (after (.trap p0 g0 1) (one { st := .ready, pc := 8, tvec := 0x101, regs := [(1, 0x12345)] })).map (fun t => ((getStrand t p0).pc, (getStrand t p0).epc, (getStrand t p0).code, (getStrand t p0).tval, (getStrand t p0).inHandler)) = some (0x100, 8, 0x0B, 0x2345, true) := by decide

/-! ## Witnesses: strands -/

def corner : State := one (regs [(1, 0x8000000000000000), (2, -1)])

theorem wit_IntegerResults : Reaches base p0 g0 [3, 1, 2] [1, 2] ∧ Reaches base p0 g0 [3, 1, 0] [1, 0] := ⟨reaches_base _ _, reaches_base _ _⟩
theorem wit_MulDivResults : Reaches base p0 g0 [3, 1, 2] [1, 2] ∧ rd (getStrand base p0) 2 = 0 ∧ Reaches corner p0 g0 [3, 1, 2] [1, 2] ∧ (rd (getStrand corner p0) 1).toInt = -2 ^ 63 ∧ (rd (getStrand corner p0) 2).toInt = -1 ∧ rd (getStrand corner p0) 2 ≠ 0 :=
  ⟨reaches_base _ _, by decide, reaches_one _ _ _, by decide, by decide, by decide⟩
theorem wit_PredicateResults : Reaches base p0 g0 [1, 2] [1, 2] ∧ Reaches base p0 g0 [1] [1] ∧ Reaches base p0 g0 [] [] ∧ (0 : BitVec 3) ≠ 7 := ⟨reaches_base _ _, reaches_base _ _, reaches_base _ _, by decide⟩
theorem wit_ImmediateResults : Reaches base p0 g0 [3, 1] [1] ∧ Reaches base p0 g0 [3] [] ∧ Reaches base p0 g0 [3] [3] ∧ (63 : BitVec 10).toNat / 64 = 0 ∧ (0x13F : BitVec 10).toNat / 64 = 4 ∧ (0x23F : BitVec 10).toNat / 64 = 8 ∧ (0x40 : BitVec 10).toNat / 64 % 4 ≠ 0 ∧ (0x3FF : BitVec 10).toNat / 256 = 3 :=
  ⟨reaches_base _ _, reaches_base _ _, reaches_base _ _, by decide, by decide, by decide, by decide, by decide⟩
theorem wit_BranchResults : Reaches base p0 g0 [63] [] ∧ Reaches base p0 g0 [3, 1] [1] ∧ (rd (getStrand base p0) 1).toNat % 4 = 0 ∧ Reaches (one (regs [(1, 2)])) p0 g0 [3, 1] [1] ∧ (rd (getStrand (one (regs [(1, 2)])) p0) 1).toNat % 4 ≠ 0 ∧ guardOk (getStrand base p0) ⟨0, true⟩ = false :=
  ⟨reaches_base _ _, reaches_base _ _, by decide, reaches_one _ _ _, by decide, by decide⟩
theorem fetches_base : Fetches base p0 := ⟨by decide, by decide, by decide, by decide, by decide, by decide, by decide, by decide, by decide⟩

def atAddr (a : Word) : State := one (regs [(1, a)])
def felt8 : State := atAddr 0x17FFFF8

theorem wit_LocalLoads : Reaches felt8 p0 g0 [3, 1] [1] ∧ LocalAt (rd (getStrand felt8 p0) 1 + BitVec.ofInt 64 ((0 : BitVec 10).toInt * 8)) 8 ∧ sramBad felt8 (localKey (coreOf p0) 0x17FFFF8) 8 = false := ⟨reaches_one _ _ _, by unfold LocalAt LocalIn; decide, by decide⟩
theorem wit_LocalStores : Memory.wf felt8.mem.bytes ∧ Reaches felt8 p0 g0 [3, 1] [3, 1] ∧ LocalAt (rd (getStrand felt8 p0) 1 + BitVec.ofInt 64 ((0 : BitVec 10).toInt * 8)) 8 := ⟨by decide, reaches_one _ _ _, by unfold LocalAt LocalIn; decide⟩
theorem wit_LocalTraps : Reaches (atAddr 0x1800000) p0 g0 [3, 1] [3, 1] ∧ ¬ LocalIn (rd (getStrand (atAddr 0x1800000) p0) 1 + BitVec.ofInt 64 ((0 : BitVec 10).toInt * 1)) 1 ∧ LocalIn (rd (getStrand (atAddr 0xFFFF9) p0) 1 + BitVec.ofInt 64 ((0 : BitVec 10).toInt * 4)) 4 ∧ (rd (getStrand (atAddr 0xFFFF9) p0) 1).toNat % 4 ≠ 0 :=
  ⟨reaches_one _ _ _, by unfold LocalIn; decide, by unfold LocalIn; decide, by decide⟩
theorem wit_ReservedFieldsTrap : Fetches base p0 ∧ (1 : BitVec 6) ≠ 0 ∧ 3 ≤ (3 : BitVec 4).toNat ∧ (0x40 : BitVec 10).toNat / 64 ≠ 0 ∧ (3 : BitVec 6).toNat % 2 = 1 ∧ 6 ≤ (6 : BitVec 4).toNat ∧
    ¬((5 : BitVec 10).toNat ≤ 4 ∨ 8 ≤ (5 : BitVec 10).toNat ∧ (5 : BitVec 10).toNat ≤ 11 ∨ 16 ≤ (5 : BitVec 10).toNat ∧ (5 : BitVec 10).toNat ≤ 21) ∧
    ¬((19 : BitVec 10).toNat = 4 ∨ 8 ≤ (19 : BitVec 10).toNat ∧ (19 : BitVec 10).toNat ≤ 11 ∨ 16 ≤ (19 : BitVec 10).toNat ∧ (19 : BitVec 10).toNat ≤ 18) := ⟨fetches_base, by decide⟩
theorem wit_GuardFalse : Fetches base p0 ∧ guardOk (getStrand base p0) ⟨0, true⟩ = false := ⟨fetches_base, by decide⟩

/-- A flow from CD0 to itself is open with credit. -/
def flow0 : Flow := { bulk := false, slice := 1, src := 0, dst := 0, st := .opened, seqNext := 7 }
def sender (l : Tab Word) : State :=
  { one (regs l) with
    net := { links := [(64, { st := .active })], route := { w := 0, x := 0, y := 0, z := 0 } }
    fab := { eps := [(0, { counterOwner := [(0, 1)] })], flows := [(5, flow0)] } }

theorem reaches_sender (l : Tab Word) (rs qs : List (BitVec 6)) : Reaches (sender l) p0 g0 rs qs :=
  ⟨rfl, rfl, rfl, rfl, turn_first _ rfl, (by decide : fetchHeld (sender []) p0 = false), (by decide : fetchOk (sender []) p0 = true), rfl, rfl, rfl,
   by have h : busyRegs (sender l) p0 = [] := rfl
      simp [h],
   by have h : (getStrand (sender l) p0).badRegs = [] := rfl
      simp [h]⟩
theorem may_send (n k : Nat) (load : Bool) (h : n = 4 ∨ n = 8 ∨ n = 16 ∨ n = 64) : MaySend (sender []) p0 n k load 0x40 5 flow0 :=
  ⟨by obtain rfl | rfl | rfl | rfl := h <;> decide, by rfl, fun _ => by decide, by decide, by decide, by decide, by decide⟩
theorem wit_GlobalRequests : Reaches (sender []) p0 g0 [3, 1, 0] [1] ∧ MaySend (sender []) p0 8 0 true 0x40 5 flow0 ∧ MaySend (sender []) p0 64 1 false 0x40 5 flow0 ∧ LocalAt (rd (getStrand (sender []) p0) 2) 64 ∧ sramBad (sender []) (localKey (coreOf p0) 0) 64 = false ∧ Reaches (sender []) p0 g0 [3, 1, 2, 3] [1, 2, 3] :=
  ⟨reaches_sender _ _ _, may_send _ _ _ (by decide), may_send _ _ _ (by decide), by unfold LocalAt LocalIn; decide, by decide, reaches_sender _ _ _⟩
def exactOne : State := { base with ctl := { slices := [(0, { sl0 with exact := true })], channels := [(0, { slice := 1 })] } }
theorem wit_ReductionStores : Reaches (sender []) p0 g0 [1, 2, 3] [1, 2, 3] ∧ isExact (sender []) p0 = false ∧ MaySend (sender []) p0 16 3 false 0x40 5 flow0 ∧ isExact exactOne p0 = true := ⟨reaches_sender _ _ _, by decide, may_send _ _ _ (by decide), by decide⟩

def vec : State := one (regs [(1, 0xFFF00), (2, 0x100), (3, 0x200)])
theorem unitRuns_vec : UnitRuns vec p0 := by unfold UnitRuns; decide
theorem wit_VectorLanes : Memory.wf vec.mem.bytes ∧ UnitRuns vec p0 ∧ VecAt (rd (getStrand vec p0) 1) 256 ∧ Sound vec p0 0xFFF00 256 ∧ Reaches vec p0 g0 [3, 1, 2] [3, 1, 2] ∧ VecAt (rd (getStrand vec p0) 3) 256 ∧ Apart (rd (getStrand vec p0) 1) (rd (getStrand vec p0) 3) 256 ∧ Apart (rd (getStrand vec p0) 1) (rd (getStrand vec p0) 2) 256 ∧ VecAt (rd (getStrand vec p0) 3) 4 :=
  ⟨by decide, unitRuns_vec, by unfold VecAt; decide, by unfold Sound; decide, reaches_one _ _ _, by unfold VecAt; decide, by unfold Apart; decide, by unfold Apart; decide, by unfold VecAt; decide⟩
/-- Control value 0x8A: from FP32 (code 10) to BF16 (code 8). -/
theorem wit_VectorFunctions : Memory.wf vec.mem.bytes ∧ UnitRuns vec p0 ∧ Reaches vec p0 g0 [3, 1] [3, 1] ∧ Sound vec p0 0xFFF00 256 ∧ Apart (rd (getStrand vec p0) 1) (rd (getStrand vec p0) 3) 256 ∧ vcvtCtl 0x8A = some (.fp32, .bf16, false) ∧ vcvtBytes .fp32 = 256 ∧ vcvtBytes .bf16 = 128 :=
  ⟨by decide, unitRuns_vec, reaches_one _ _ _, by unfold Sound; decide, by unfold Apart; decide, by decide, by decide, by decide⟩
def failedOne : State := { vec with compute := { vec.compute with cores := [(0, { failed := true })] } }
theorem wit_VectorTraps : Reaches vec p0 g0 [3, 1] [3, 1] ∧ UnitRuns vec p0 ∧ (getCore failedOne (coreOf p0)).failed = true ∧ atFloor { vec with caps := { rack := 900, inForce := 900 } } = true ∧
    0x100000 < (rd (getStrand (atAddr 0xFFF01) p0) 1).toNat + 256 ∧ (rd (getStrand (atAddr 0xFFEC1) p0) 1).toNat + 256 ≤ 0x100000 ∧ (rd (getStrand (atAddr 0xFFEC1) p0) 1).toNat % 64 ≠ 0 ∧ vcvtCtl 0xAA = none ∧ pinned base p0 = false ∧ canIssue base p0 = true :=
  ⟨reaches_one _ _ _, unitRuns_vec, by decide, by decide, by decide, by decide, by decide, by decide, by decide, by decide⟩

/-- INT8 x INT8 in INT32 mode to INT32, M = N = K = 1. -/
def td0 : BitVec 256 := 0x1000000002CBB
def tile : State := one { st := .ready, regs := [(1, 0x4000000000), (2, 0x80)], tds := [(1, td0)] }
theorem reaches_tile (rs qs : List (BitVec 6)) : Reaches tile p0 g0 rs qs :=
  ⟨by decide, by decide, by decide, by decide, by decide, by decide, by decide, by decide, by decide, by decide,
   by have h : busyRegs tile p0 = [] := by decide
      simp [h],
   by have h : (getStrand tile p0).badRegs = [] := by decide
      simp [h]⟩
theorem wit_TileInstructions : Reaches tile p0 g0 [1, 2] [1, 2] ∧ UnitRuns tile p0 ∧ tmmaCause (isExact tile p0) (rdTd (getStrand tile p0) 1) 0x4000000000 0x80 false true = none ∧ (getCore tile (coreOf p0)).fenced.getLsbD 0 = false ∧ (getEngine tile (coreOf p0) 0).queue.length < 8 ∧ tmmaCause false 0 0 0 false true = some 5 ∧ LocalAt (rd (getStrand base p0) 1) 32 :=
  ⟨reaches_tile _ _, by unfold UnitRuns; decide, by decide, by decide, by decide, by decide, by unfold LocalAt LocalIn; decide⟩

/-! ## Witnesses: gathers, waits, system registers, fetch, clocks, engines -/

/-- One page of 64 bytes from a table at global address 0, to the felt. -/
def gdesc : BitVec 512 := 0x1000040000000400000000000000000000000010000000000000000#512
def gatherer (ctr : Nat) : State :=
  { one (regs [(1, 0x1000000), (2, BitVec.ofNat 64 ctr)]) with
    mem := { granules := [(0, { st := .owned, owner := 1 })], bytes := memWrite [] (localKey c0 0x1000000) (leBytes 64 gdesc.toNat) }
    fab := { eps := [(0, { counterOwner := [(0, 1)] })] } }
theorem reaches_gatherer (k : Nat) (rs qs : List (BitVec 6)) : Reaches (gatherer k) p0 g0 rs qs :=
  ⟨rfl, rfl, rfl, rfl, turn_first _ rfl, (by decide : fetchHeld (gatherer 0) p0 = false), (by decide : fetchOk (gatherer 0) p0 = true), rfl, rfl, rfl,
   by have h : busyRegs (gatherer k) p0 = [] := rfl
      simp [h],
   by have h : (getStrand (gatherer k) p0).badRegs = [] := rfl
      simp [h]⟩
def fullSlots : State := { base with compute := { base.compute with clusters := [(0, { slots := (List.range 32).map (fun k => (k, { p := p0, gen := 0, pc := 0, slice := 1, counter := 0, desc := gdesc })) })] } }
theorem wit_GatherStarts : Reaches (gatherer 0) p0 g0 [1, 2] [1, 2] ∧ (getCluster (gatherer 0) 0 0).slots = [] ∧ BitVec.ofNat 512 (leNat (localRead (gatherer 0) (coreOf p0) 0x1000000 64)) = gdesc ∧ inFelt 0x1000000 64 = true ∧ gaFieldsOk gdesc = true ∧ gaPtloc gdesc = false ∧
    ownsCounter (gatherer 0) 0 0 (strandSliceId (gatherer 0) p0) = true :=
  ⟨reaches_gatherer _ _ _, by decide, by decide +kernel, by decide, by decide +kernel, by decide +kernel, by decide⟩
theorem wit_GatherRefused : gatherStatus (gatherer 0) p0 0x1000020 0 gdesc = some 0x0013 ∧ gatherStatus (gatherer 16383) p0 0x1000000 16383 gdesc = some 0x0010 ∧ ∀ k < 32, (getGather fullSlots 0 0 k).isSome = true := by decide +kernel

def counted (v : Word) (st : Strand) : State := { one st with fab := { eps := [(0, { counterOwner := [(0, 1)], counters := [(0, v)] })] } }
theorem wit_FencesAndBarriers : Reaches base p0 g0 [] [] ∧ (getStrand base p0).loads = 0 ∧ atomicsOut base p0 = 0 ∧ (getStrand (one { st := .ready, loads := 1, posted := 1, tmmas := 1 }) p0).loads ≠ 0 ∧ Reaches base p0 g0 [3, 1] [1] ∧ Reaches base p0 g0 [1, 2] [1, 2] ∧
    ownsCounter base 0 0 (strandSliceId base p0) = true ∧ ownsCounter base 0 16383 (strandSliceId base p0) = false ∧ 16384 ≤ (rd (getStrand (atAddr 16384) p0) 1).toNat ∧
    (rd (getStrand base p0) 2).toNat ≤ (counterVal base 0 0).toNat ∧ (counterVal base 0 0).toNat < (rd (getStrand (one (regs [(2, 1)])) p0) 2).toNat :=
  ⟨reaches_base _ _, by decide, by decide, by decide, reaches_base _ _, reaches_base _ _, by decide, by decide, by decide, by decide, by decide⟩
def barred : State := { one (regs [(2, 2)]) with compute := { strands := [(0, regs [(2, 2)]), (1, { st := .wait, wait := .barrier 0 2 })], maps := [(0, { map := [(0, 0)] })], cores := [(0, { barriers := [(0, { n := 2, arrived := [1] })] })] } }
theorem wit_Barriers : (getBar barred c0 0).n = (rd (getStrand barred p0) 2).toNat ∧ (rd (getStrand barred p0) 2).toNat ≤ (getBar barred c0 0).arrived.length + 1 ∧ (getBar barred c0 0).arrived.Nodup ∧ (∀ k ∈ (getBar barred c0 0).arrived, k < 32 ∧ k ≠ p0.strand.val) ∧
    (getBar base c0 0).arrived = [] ∧ (getBar base c0 0).arrived.length + 1 < (rd (getStrand (one (regs [(2, 32)])) p0) 2).toNat ∧ (getBar barred c0 0).arrived ≠ [] ∧ (getBar barred c0 0).n ≠ 32 := by decide
theorem wit_SystemRegisters : Reaches base p0 g0 [3] [] ∧ Reaches base p0 g0 [1] [1] ∧ (getStrand base p0).tmmas < 256 ∧ (getStrand base p0).loads < 32 := ⟨reaches_base _ _, reaches_base _ _, by decide, by decide⟩
theorem wit_StrandControl : Reaches base p0 g0 [] [] ∧ (getStrand (one { st := .ready, inHandler := true }) p0).inHandler = true ∧ (getStrand base p0).inHandler = false ∧ (getStrand (one { st := .ready, skipBkpt := [.instr] }) p0).skipBkpt = [.instr] ∧ Reaches base p0 g0 [1, 2] [1, 2] ∧
    coreOf ⟨0, 0, 0, 31⟩ = coreOf p0 ∧ (31 : Nat) = (rd (getStrand (one (regs [(1, 31)])) p0) 1).toNat % 32 ∧ (getStrand base ⟨0, 0, 0, 31⟩).st = .free ∧ (rd (getStrand (one (regs [(2, 2)])) p0) 2).toNat % 4 ≠ 0 ∧ (getStrand base p0).st ≠ .free :=
  ⟨reaches_base _ _, by decide, by decide, by decide, reaches_base _ _, by decide, by decide, by decide, by decide, by decide⟩
def waits (w : WaitFor) : State := counted 1 { st := .wait, wait := w }
theorem wit_YieldsAndWakes : (getStrand (one { st := .ready, yielded := true }) p0).yielded = true ∧ (residentOn (one { st := .ready, yielded := true }) 0 0).isSome = true ∧ (getStrand (waits (.waitc 0 1 1)) p0).wait = .waitc 0 1 1 ∧ (1 : Word).toNat ≤ (counterVal (waits (.waitc 0 1 1)) 0 0).toNat ∧
    (getStrand (waits .fenceFull) p0).loads = 0 ∧ (getStrand (waits .fenceFull) p0).posted = 0 ∧ atomicsOut (waits .fenceFull) p0 = 0 ∧ (∀ r ∈ ([1] : List (BitVec 6)), r ∉ busyRegs (waits (.register [1])) p0) ∧ coreLoads (waits .loadLimit) c0 < 512 ∧
    (getEngine (waits (.engineQueue 0)) c0 (substituteOf (getCore (waits (.engineQueue 0)) c0).fenced 0)).queue.length < 8 ∧ creditFor (sender []) 0 5 = true ∧ getGather (waits .gatherSlot) 0 0 31 = none ∧ atFloor (waits .floor) = false := by decide
theorem wit_WaitcTimeout : (getStrand (counted 0 { st := .wait, wait := .waitc 0 1 1, deadline := some 0 }) p0).deadline = some 0 ∧ (counterVal (counted 0 { st := .wait, wait := .waitc 0 1 1, deadline := some 0 }) 0 0).toNat < (1 : Word).toNat := by decide
def poisonedCode : State := { base with mem := { base.mem with poison := [0] } }
theorem wit_FetchAndDecode : fetchOk (one { st := .ready, pc := 0x400000000 }) p0 = false ∧ fetchOk base p0 = true ∧ fetchPoisoned base p0 = false ∧ pcBkpt base p0 = none ∧ legalWord 0x48000000 = false ∧ fetchOk poisonedCode p0 = true ∧ fetchPoisoned poisonedCode p0 = true := by decide
def engaged (e : Engine) : State := { base with compute := { base.compute with cores := [(0, { engGated := 0, engines := [(0, e)] })] } }
def tmma0 : Tmma := { p := p0, gen := 0, pc := 0, td := td0, sa := 0x4000000000, sb := 0x80, init := false, final := true }
theorem wit_ClockGating : coreIdle (one {}) c0 = true ∧ (getCore (one {}) c0).gated = false ∧ coreIdle base c0 = false ∧ (getCore { base with compute := { base.compute with cores := [(0, { gated := true })] } } c0).gated = true ∧ (getEngine (engaged {}) c0 0).queue = [] ∧ (getEngine (engaged {}) c0 0).running = none ∧
    (getCore (engaged {}) c0).engGated.getLsbD 0 = false ∧ (getEngine (engaged { queue := [tmma0] }) c0 0).queue ≠ [] ∧ (getCluster base 0 0).pllDown = false := by decide
theorem wit_EngineRuns : engineRuns (engaged { queue := [tmma0] }) c0 0 = true ∧ (getEngine (engaged { queue := [tmma0] }) c0 0).queue = tmma0 :: [] ∧ operandBad (engaged { queue := [tmma0] }) c0 tmma0 = false ∧ anchorDiffers (engaged { queue := [tmma0] }) c0 tmma0 = false ∧
    engineRuns (engaged { running := some { tmma0 with execs := 3 } }) c0 0 = true ∧ (getEngine (engaged { running := some { tmma0 with execs := 2 } }) c0 0).running = some { tmma0 with execs := 2 } ∧ (getCore (engaged {}) c0).fenced.getLsbD 1 = false ∧ tdSten td0 = false ∧ selfOverlap td0 0x4000000000 0x80 true = false := by decide
theorem wit_EngineFailed : engineRuns { base with compute := { base.compute with cores := [(0, { engGated := 0, fenced := 14, engines := [(0, { running := some { tmma0 with execs := 3 } })] })] } } c0 0 = true ∧ (∀ k : Fin 4, k ≠ 0 → (14 : BitVec 4).getLsbD k.val = true) := by decide

/-! ## Witnesses: clusters and memory -/

def spare0 : State := { compute := { maps := [(0, { spare := 12, map := [(0, 0)], failedCl := [0] })] } }
theorem wit_SpareClusters : (getMap spare0 0).failedCl.contains 0 = true ∧ (getMap spare0 0).spare ≠ 0xF ∧ sliceOn spare0 0 0 = none ∧ Memory.wf spare0.mem.bytes ∧ spare0.compute.d2dFailed.getLsbD 3 = false ∧ (15 : BitVec 4).getLsbD 3 = true := by decide
def vacated : State := { compute := { maps := [(0, { map := [(0, 0xF), (1, 1)] })] } }
theorem wit_ClusterRenumber : physCluster vacated 0 1 ≠ 0xF ∧ (∀ k < 12, 1 < k → physCluster vacated 0 k = 0xF) ∧ physCluster vacated 0 0 = 0xF ∧ clusterNamed vacated 0 0 = false ∧ clusterNamed vacated 0 1 = false := by decide
def row0 : RowId := ⟨0, 0, 0, 0, 0⟩
def patrolled : State := { mem := { granules := [(0, { st := .free })], dies := [(0, { patrolOn := true, inUse := 15 })], rows := [{ row := row0, occasions := 1, repairDue := true }], stks := [(0, { link := 1, soft := some 0 })], repairQueue := [5] } }
theorem wit_HbmUpkeep : (getHbm patrolled 0).patrolOn = true ∧ (getGran patrolled 0 (granOf 0)).st ≠ .absent ∧ (getStack patrolled (stackOf patrolled 0 0)).link ≠ 2 ∧ patrolled.mem.poison.contains (memKey 0 0 / 32) = false ∧ (getRow patrolled row0).repairDue = true ∧ bankLeft (getStack patrolled 4) (bankIx row0) = 0 ∧
    trustDown patrolled = false ∧ patrolled.mem.repairQueue = 5 :: [] ∧ (getStack patrolled 0).therm ≤ 3 ∧ (0x18000000 : Word).extractLsb' 24 8 ≠ 0 := by decide
theorem wit_ErrorRecords : scrubRecord base (.tileStore c0) = some (.cd 0 0) ∧ scrubWordOk (.tileStore c0) 0x1FFFF = true ∧ scrubRecord base (.regFile p0) = some (.cd 0 0) ∧ scrubWordOk (.regFile p0) 63 = true ∧ (0x8000000000 : Word).getLsbD 39 = true := by decide
theorem wit_GranuleLife : (getGran { mem := { granules := [(0, { zeroing := true })] } } 0 0).st = .scrubbing ∧ (getGran { mem := { granules := [(0, { zeroing := true })] } } 0 0).zeroing = true ∧ (getStack patrolled 0).link = 1 ∧ (∀ e ∈ patrolled.ctl.slices, e.2.st ≠ .scrubbing) ∧
    (getGran base 0 0).st = .owned ∧ (findSlice base (getGran base 0 0).owner).isSome = true := by decide

/-! ## Witnesses: remote operations -/

/-- A store of 8 bytes to offset 0 of CD0 under deckle 0 with secret 0. -/
def st8 : Req := { src := 0x10, flow := 3, seq := 0, slice := 1, opcode := 0x09, addr := 0, key := 0, data := leBytes 8 1, comb := false, crowd := false, parts := [], flags := 0 }
def home0 : HomeFlow := { src := 0x10, flow := 3, slice := 1, recv := 0, n := 0 }
def homed (h : HomeFlow) : State :=
  { mem := { granules := [(0, { st := .owned, owner := 1 })] }
    fab := { eps := [(0, { homeFlows := [h], replay := [{ src := 0x10, flow := 3, seq := 0xFFFFFF, status := 0, flags := 0, isAtomic := true, data := [], made := 0, slice := 1 }] })], deckles := [(0, { owner := 1, log2size := 16, perm := 15, valid := true })] } }
theorem wit_HomeAdmission : findHome (homed home0) (homeEp 0 0) 0x10 3 = some home0 ∧ home0.closed = false ∧ isPending (homed home0) 0 home0 0 = false ∧ home0.window = [] ∧ home0.doneAhead = [] ∧ replayFull (homed home0) 0 = false ∧ isPending (homed { home0 with window := [st8] }) 0 { home0 with window := [st8] } 0 = true ∧
    (1023 - home0.n : BitVec 24).toNat < 1024 ∧ 1024 ≤ (1024 - home0.n : BitVec 24).toNat ∧ 2 ^ 23 ≤ (0x800000 - home0.n : BitVec 24).toNat ∧ (findReplay (homed home0) 0 0x10 3 0xFFFFFF).isSome = true ∧ findReplay (homed home0) 0 0x10 3 0xFFFFFE = none := by decide
def admitted0 : HomeFlow := { home0 with n := 1, admitted := [st8] }
theorem atHome_st8 : AtHome (homed admitted0) 0 0x10 3 0 admitted0 st8 := ⟨by decide, by decide, by decide, by decide, by decide, by decide, by decide⟩
theorem wit_HomeUpdates : AtHome (homed admitted0) 0 0x10 3 0 admitted0 st8 ∧ Memory.wf (homed admitted0).mem.bytes ∧ reqTarget 0 st8 = .hbm ∧ homeCheck (homed admitted0) 0 .hbm st8 = .pass ∧ poisonedAt (homed admitted0) (memKey 0 0) 8 = false ∧ homeCheck (homed admitted0) 0 .hbm { st8 with addr := 4 } = .early ∧ homeCheck (homed admitted0) 0 .hbm { st8 with key := 0x40000 } = .late :=
  ⟨atHome_st8, by decide, by decide, by decide, by decide, by decide, by decide⟩
def load8 : Req := { st8 with src := 0, flow := 5, seq := 7, opcode := 0x02, data := [] }
def outst0 : Outst := { id := 1, dst := 0, req := load8, master := .strand p0 0 0x100, dest := .reg 3 8, isLoad := true, sent := 0 }
def awaiting (o : Outst) (c : List Completion) (now : Nat) : State := { base with fab := { eps := [(0, { outst := [o], completed := c })] }, tb := { time := now } }
def done0 (status : BitVec 4) : Completion := { id := 1, master := .strand p0 0 0x100, dest := .reg 3 8, isLoad := true, addr := 0, status := status, data := leBytes 8 9 }
theorem wit_SourceResponses : (getEp (awaiting outst0 [] 200000) 0).outst.find? (fun x => x.req.flow = 5 && x.req.seq = 7) = some outst0 ∧ isEnded outst0.master = false ∧ outst0.sent + 200000 ≤ (awaiting outst0 [] 200000).tb.time ∧ (awaiting outst0 [] 199999).tb.time < outst0.sent + 200000 ∧ ({ outst0 with resends := 2 } : Outst).resends < 3 ∧
    (getEp (awaiting outst0 [done0 0] 0) 0).completed.find? (fun x => x.id = 1) = some (done0 0) ∧ (done0 0).master = .strand p0 0 0x100 ∧ (getStrand base p0).gen = 0 ∧ (done0 0).dest = .reg 3 8 ∧ (done0 4).status = 4 ∧ (done0 7).status = 7 := by decide
def gathering : State := { fab := { eps := [(0, { completed := [{ id := 1, master := .gather 0 0 0 (.line 0 0), dest := .gather, isLoad := true, addr := 0, status := 0, data := leBytes 64 9 }] })] }, compute := { clusters := [(0, { slots := [(0, { p := p0, gen := 0, pc := 0, slice := 1, counter := 0, desc := gdesc })] })] } }
theorem wit_GatherLines : ((getEp gathering 0).completed.find? (fun x => x.master = .gather 0 0 0 (.line 0 0))).isSome = true ∧ (getGather gathering 0 0 0).isSome = true ∧ gaDest gdesc + 0 * gaDstride gdesc + 64 * 0 + 64 ≤ 0x1800000 ∧ 0x1000000 ≤ gaDest gdesc := by decide +kernel

/-! ## Witnesses: rings, copies and flows -/

/-- The module at coordinate 0, with slice 1, at a fabric time. -/
def mod0 (fab : Fabric) (now : Nat) : State := { sender [] with fab := { fab with eps := [(0, { counterOwner := [(0, 1)] })] }, tb := { time := now } }
def ring0 : Ring := { st := .active, owner := 1, log2n := 6, piLine := 4096, ciLine := 8192, weight := 1 }
def ringed (x : Ring) : State := mod0 { rings := [(0, x)] } 0
/-- A FILL of 64 bytes at global address 0x10000, and a FENCE. -/
def fill0 : BitVec 512 := 0x20000000000000000000040000000000000000000000000000000000000000000010000aabbccdd00112233#512
def fence0 : BitVec 512 := 0x400000000000000000000000000000000000000000000000000000000000000000000000000000000000000#512
def ringFill : State := { ringed { ring0 with lastPi := 1 } with mem := { granules := [(0, { st := .owned, owner := 1 })], bytes := memWrite [] 0 (leBytes 64 fill0.toNat) } }
theorem wit_CouchRings : (getRing (ringed { ring0 with pendingBit := true }) 0).pendingBit = true ∧ ownsHbm (ringed ring0) 0 4096 8 1 = true ∧ poisonedAt (ringed ring0) (memKey 0 4096) 8 = false ∧ ownsHbm (ringed ring0) 0 4096 8 2 = false ∧ (0 : Nat) < 1 ∧
    (2 : Nat) ^ 6 < ((0 : Nat) + 2 ^ 64 - 1) % 2 ^ 64 ∧ ringReady { ring0 with lastPi := 1 } = true ∧ descsInProgress (ringed ring0) < 8192 ∧ ring0.granted < ring0.weight ∧ startCheck (ringed ring0) ring0 0 = none ∧ dOp 0 = 0 ∧ dOp fence0 = 4 ∧ startCheck (ringed ring0) ring0 fence0 = none ∧
    startCheck (ringed ring0) ring0 1 = some 0x0013 := by decide +kernel
theorem wit_CouchFill : BitVec.ofNat 512 (leNat (memRead ringFill.mem.bytes (memKey 0 (slotOff ring0 0)) 64)) = fill0 ∧ startCheck ringFill ring0 fill0 = none ∧ dOp fill0 = 2 ∧ decodeReq ringFill (dDst fill0) = .send ∧ isHere ringFill (addrNode (dDst fill0)) = true := by decide +kernel
def retiring : State := ringed { ring0 with prog := [{ index := 0, desc := 0, code := some 0 }] }
theorem wit_CouchRetire : (getRing retiring 0).prog.find? (fun p => p.index = 0) = some { index := 0, desc := 0, code := some 0 } ∧ dOp 0 ≠ 5 ∧ Memory.wf retiring.mem.bytes ∧ ownsHbm retiring 0 (slotOff ring0 0 + 56) 8 1 = true ∧ ownsHbm retiring 0 8192 64 1 = true ∧
    partialPoison retiring (memKey 0 8192) 64 = false ∧ memKey 0 (slotOff ring0 0 + 56) + 8 ≤ memKey 0 8192 := by decide +kernel
def copy0 : Copy := { tag := 0, atDest := true, peer := 0x14, issuer := 0x14, ring := 0, slot := 0, slice := 1, op := 1, src := 0, dst := 0x10000, skey := 0, dkey := 0, dctr := 0, dcen := false, cunit := 0, length := 64, mkh := 0 }
def recv0 : RecvFlow := { src := 0x14, flow := 5, slice := 1, recv := 0, cum := 7, uncovered := 1 }
def bflow0 : Flow := { bulk := true, slice := 1, src := 4, dst := 0x14, st := .opened, seqNext := 8, out := [{ seq := 7, tag := 0, offset := 0, len := 64 }] }
def copying (c : Copy) (now : Nat) : State :=
  mod0 { copies := [c], recvFlows := [recv0], flows := [(5, bflow0)], rings := [(0, { ring0 with prog := [{ index := 0, desc := 0 }] })], deckles := [(0, { owner := 1, log2size := 20, perm := 15, valid := true })] } now
theorem wit_CouchCopies : (findSlice (copying copy0 0) 1).isSome = true ∧ findSlice (copying copy0 0) 2 = none ∧ isHere (copying copy0 0) (addrNode 0x10000) = true ∧ decodeReq (copying copy0 0) 0x10000 = .send ∧ ownsCounter (copying copy0 0) 0 0 1 = true ∧
    (getDeckle (copying copy0 0) 0).endpoint = nodeEp (addrNode 0x10000) ∧ keySecret 0 = (getDeckle (copying copy0 0) 0).secret ∧ findRecv (copying copy0 0) 0x14 5 = some recv0 ∧ findDest (copying copy0 0) 0x14 0 = some copy0 ∧ 256 ≤ ((6 : BitVec 24) - recv0.cum).toNat ∧ ((262 : BitVec 24) - recv0.cum).toNat < 256 ∧
    copyKey (copying copy0 0) (copyReq 0x14 1 0x10000 0 true) 64 .store = .ok 0x10000 ∧ recv0.uncoveredSince + 8000 ≤ (copying copy0 8000).tb.time ∧ (1 : BitVec 16) ≠ 4 := by decide +kernel
theorem wit_CouchEnds : progOf (copying copy0 0) 0 0 = some { index := 0, desc := 0 } ∧ destOf { copying copy0 0 with fab := { (copying copy0 0).fab with copies := [] } } 1 0 0 0 0 = none ∧ findCopy (copying { copy0 with atDest := false, issuer := 4 } 0) 0 = some { copy0 with atDest := false, issuer := 4 } ∧ fdNode (copying copy0 0) = 4 ∧
    getFlow (copying copy0 0) 5 = some bflow0 ∧ ackCovers 8 0 7 = true ∧ ackCovers 7 0 7 = false ∧ bflow0.timerFrom + bflow0.rto ≤ (copying copy0 80000).tb.time ∧ (copyData (copying { copy0 with atDest := false } 0) { copy0 with atDest := false } 0 64).1 = 0 ∧
    bflow0.progress + 4000000 ≤ (copying copy0 4000000).tb.time := by decide +kernel
def flowing (f : Flow) (now : Nat) : State := mod0 { flows := [(5, f)], c4 := [{ id := 1, dst := 0x14, opcode := 0xB5, key := 0, resends := 3 }], rings := [(0, { ring0 with prog := [{ index := 0, desc := 0 }] })] } now
theorem wit_CouchFlows : isHere (flowing bflow0 0) 0 = true ∧ nodeEp 0 ≤ 4 ∧ findRecv (flowing bflow0 0) 0x14 5 = none ∧ findHome (flowing bflow0 0) 0 0x14 5 = none ∧ mayOpen (flowing bflow0 0) 1 = true ∧ findSlice (flowing bflow0 0) 2 = none ∧
    mayOpen { flowing bflow0 0 with ctl := { (flowing bflow0 0).ctl with slices := [(0, { sl0 with maxFlows := 0 })] } } 1 = false ∧ (getCluster (flowing bflow0 0) 0 0).slots = [] ∧ flowOutstanding (flowing flow0 40000000) 0 5 = 0 ∧ flow0.lastUse + 40000000 ≤ (flowing flow0 40000000).tb.time ∧ flow0.out = [] ∧
    ({ flow0 with st := .busy } : Flow).since + 40000 ≤ (flowing flow0 40000).tb.time ∧ (flowing flow0 199999).fab.c4.find? (fun c => c.id = 1 && c.hdr.isNone) = some { id := 1, dst := 0x14, opcode := 0xB5, key := 0, resends := 3 } ∧ progOf (flowing flow0 200000) 0 0 = some { index := 0, desc := 0 } := by decide +kernel

/-! ## Witnesses: groups and collective operations -/

/-- GID 5 of slice 1: two ranks, the quire of CD0 of 2^6 entries at 0x100000. -/
def gd0 : BitVec 512 := 0x2000800000000000200000000000000010000000000000000100006003010000010005#512
def bar0 : BitVec 512 := 0x600000000000000000000000000000000#512
def mem4 : Member := { node := 4, lead := 0, ranks := [0], level := 4, parent := 4 }
def mem14 : Member := { node := 0x14, lead := 1, ranks := [1], level := 0, parent := 4 }
def mem24 : Member := { node := 0x24, lead := 2, ranks := [2], level := 0, parent := 4 }
def op0 : CollOp := { index := 0, opseq := 0, entry := bar0, paramcrc := 0, started := 0, begun := true }
def root0 : Group := { st := .ready, gid := 5, desc := gd0, members := [mem4, mem14, mem24], map := [0, 0x10, 0x20] }
/-- The same group as a child of module 0x14 sees it. -/
def child0 : Group := { st := .ready, gid := 5, desc := gd0, members := [{ mem14 with level := 4, parent := 0x14, lead := 0 }, { mem4 with level := 0, parent := 0x14 }], map := [0, 0x10] }
def grouped (g : Group) (now : Nat) : State := mod0 { groups := [(3, g)] } now
def ch0 : CollHdr := { gid := 5, gepoch := 0, part := 0, opseq := 0, chunk := 0, paramcrc := 0 }
theorem wit_GroupsAndEntries : findGroup (grouped root0 0) 5 = some (3, root0) ∧ (childrenOf (grouped root0 0) root0).any (fun m => m.node = fdOf 0x14) = true ∧ root0.joined.contains 0x14 = false ∧ (∃ m ∈ childrenOf (grouped root0 0) root0, m.node ≠ fdOf 0x14 ∧ root0.joined.contains m.node = false) ∧
    (∀ m ∈ childrenOf (grouped root0 0) root0, m.node = fdOf 0x14 ∨ [0x24].contains m.node = true) ∧ isRoot (grouped root0 0) root0 = true ∧ 2 ≤ root0.members.length ∧ isRoot (grouped child0 0) child0 = false ∧ root0.committed + 40000000 ≤ (grouped root0 40000000).tb.time ∧
    ownsHbm (grouped root0 0) (gQdie gd0) (gPioff gd0) 8 (gOwner gd0) = true ∧ poisonedAt (grouped root0 0) (memKey (gQdie gd0) (gPioff gd0)) 8 = false ∧ (0 + 2 ^ 64 - root0.ci) % 2 ^ 64 ≤ 2 ^ gLog2n gd0 := by decide +kernel
theorem wit_EntryStart : child0.next < ({ child0 with lastPi := 1 } : Group).lastPi ∧ opsInProgress (grouped child0 0) < 512 ∧ ownsHbm (grouped child0 0) (gQdie gd0) (quireSlot child0 0) 64 (gOwner gd0) = true ∧ eOp bar0 = 6 ∧ entryCheck (grouped child0 0) child0 bar0 = none ∧ entryCheck (grouped child0 0) child0 0 = some 0x0013 ∧
    rootLost (grouped child0 0) child0 = false ∧ childrenOf (grouped child0 0) child0 = [] ∧ childrenOf (grouped root0 0) root0 ≠ [] ∧ gOpto gd0 ≠ 0 ∧ op0.started + gOpto gd0 * 4000000 ≤ 4000000000 := by decide +kernel
def operating (g : Group) (o : CollOp) (now : Nat) : State := grouped { g with op := some o } now
theorem inOp_root : InOp (operating root0 op0 0) ch0 3 { root0 with op := some op0 } op0 := ⟨by decide +kernel, by decide +kernel, rfl, rfl, rfl⟩
/-- ALLREDUCE of 64 bytes of FP32 at offset 0 in place. -/
def ar0 : BitVec 512 := 0x40000000000000000100000000000000000000000000000000#512
def opAr : CollOp := { op0 with entry := ar0 }
theorem inOp_child : InOp (operating child0 opAr 0) ch0 3 { child0 with op := some opAr } opAr := ⟨by decide +kernel, by decide +kernel, rfl, rfl, rfl⟩
theorem wit_CollOutcomes : InOp (operating root0 op0 0) ch0 3 { root0 with op := some op0 } op0 ∧ root0.reform = none ∧ op0.decided = false ∧ eOp op0.entry = 6 ∧ InOp (operating child0 opAr 0) ch0 3 { child0 with op := some opAr } opAr ∧ eOp opAr.entry ≠ 6 ∧ eOp opAr.entry ≠ 7 := ⟨inOp_root, rfl, rfl, by decide +kernel, inOp_child, by decide +kernel, by decide +kernel⟩
theorem wit_ChunksAndLanes : mem14 ∈ childrenOf (grouped root0 0) root0 ∧ heardHas op0 0x14 0 = false ∧ isTreeOp (eOp ar0) = true ∧ isRoot (operating child0 opAr 0) child0 = false ∧ localRanks (operating child0 opAr 0) child0 = [0] ∧ chunkFor ar0 0 0 = true ∧
    ownsHbm (operating child0 opAr 0) (rankDie child0 0) (chunkDst child0 ar0 0 0) 64 (gOwner gd0) = true ∧ partialPoison (operating child0 opAr 0) (memKey 0 0) 64 = false ∧ fdOf 0x14 = parentOf (operating child0 opAr 0) child0 ∧ totalChunks child0 ar0 ≤ 1 ∧
    laterHeard (grouped child0 80000) { opAr with heard := [(0x14, 1, 0)] } 0x14 0 = true ∧ ([] : List Nat).contains (63 : Nat) = false := by decide +kernel
theorem wit_CollectiveBarriers : InOp (operating root0 op0 0) ch0 3 { root0 with op := some op0 } op0 ∧ (∃ m ∈ childrenOf (operating root0 op0 0) root0, m.node ≠ fdOf 0x14 ∧ op0.arrived.contains m.node = false) ∧ (∀ m ∈ childrenOf (operating root0 op0 0) root0, m.node = fdOf 0x14 ∨ [0x24].contains m.node = true) ∧
    digestOf op0 0 = none ∧ isHere (operating root0 op0 0) 0x14 = false ∧ isHere (operating root0 op0 0) 4 = true ∧ barClusters (operating root0 op0 0) root0 = [(0, 0)] ∧ ownsHbm (operating root0 op0 0) 0 (quireSlot root0 0 + 56) 8 1 = true ∧ ownsHbm (operating root0 op0 0) 0 (gCioff gd0) 64 (gOwner gd0) = true ∧
    (∃ m ∈ surviving (operating root0 op0 0) root0, m.node ≠ fdNode (operating root0 op0 0) ∧ m.node ≠ fdOf 0x14) := ⟨inOp_root, by decide +kernel⟩

/-! ## Witnesses: fabric time -/

def timed (t : TimeBase) : State := { mod0 {} 0 with tb := t, net := { (mod0 {} 0).net with links := [(0, { st := .active })] } }
theorem wit_FabricTime : fdNode (timed {}) = 4 ∧ (getLink (timed {}) 0).st = .active ∧ ((timed {}).fab.groups = []) ∧ ((timed { prioInForce := 0xFF }).tb.prioInForce = 0xFF) ∧ (timed { lastAnnounce := 1, time := 4000000 }).tb.time < 1 + 4000000 ∧ parentGone (timed { st := .synced, time := 0 }) = true ∧
    (bestOffer (offers (timed { st := .holdover, prioInForce := 0xFF, heard := [(0, { gm := 0x14, prio := 0, hops := 0, state := 4, at_ := 0 })] }))).isSome = true ∧ bestOffer (offers (timed {})) = none ∧ (getLink (timed {}) 0).afterResume = false ∧
    ((2 : Int) - 0 + (2 - 0)) / 2 - Tab.getD (timed {}).ctl.records.asym 0 0 = 2 ∧ ((2 : Int) - 0 + (4 - 0)) / 2 = 3 := by decide
theorem test_tick : (after .fabricTimeTick (timed {})).map (fun t => t.tb.time) = some 128 := by decide

/-! ## Witnesses: the switch, losses and links -/

/-- Modules Z = 0 to 2 of a line; the group towards Z = 1 (OE 8) is up, with port 32 ACTIVE. -/
def bank0 : Bank := { nw := 1, nx := 1, ny := 1, nz := 3, expBudget := 0, portEn := BitVec.allOnes 64, epoch := 0, entries := List.replicate 576 0x4000 }
def lined (ports : Tab SwPort) (links : Tab LinkPort) (now : Nat) : State :=
  { net := { route := { w := 0, x := 0, y := 0, z := 0, cur := some bank0, groups := [(8, { st := .up })] }, ports := ports, links := links }, tb := { time := now } }
def up32 : Tab LinkPort := [(32, { st := .active })]
def away0 : Packet := { pkt0 with dst := 0x10 }
theorem wit_SwitchCore : routeOf (lined [] up32 0) { p := pkt0, vc := 0 } (isWale 0) = .take 64 0 ∧ mustWale (lined [] up32 0) pkt0 = false ∧ pkt0.dst ≠ 0xFFFFF ∧ pkt0.comb = false ∧ stagingOf (lined [(0, { staging := [(0, [{ p := pkt0, vc := 0 }])] })] up32 0) 0 0 = [{ p := pkt0, vc := 0 }] ∧
    (0 : Nat) / 2 ≠ 3 ∧ hasRoom (lined [] up32 0) 64 1 1 = true ∧ (0 : Nat) + 80000 ≤ 80000 ∧ Tab.find (getPort (lined [(0, { stuckSince := [(0, 0)] })] up32 0) 0).stuckSince 0 = some 0 := by decide +kernel
/-- Both outputs to the module's own FD are full. -/
def full88 : Tab SwPort := [88, 89].map (fun k => (k, { queues := [(0, List.replicate 2048 { p := pkt0, origin := none })] }))
theorem wit_SwitchWaits : routeOf (lined full88 up32 0) { p := { pkt0 with dst := 4 }, vc := 0 } false = .waitRoom ∧ isHere (lined [] up32 0) 0x10 = false ∧ forwards (lined [] up32 0) = true ∧ walePorts (lined [] up32 0) (nodeCoord 0x10) = [32] ∧
    routeOf (lined [] up32 0) { p := away0, vc := 0 } false = .noRoute ∧ routeOf (lined [] up32 0) { p := away0, vc := 0 } true = .take 32 1 := by decide +kernel
theorem wit_SwitchSends : (chooseNext (lined [(64, { queues := [(8, [{ p := { pkt0 with cls := 4 }, origin := none }])] })] up32 0) 64).isSome = true ∧ (chooseNext (lined [(32, { queues := [(8, [{ p := { away0 with cls := 4 }, origin := none }])] })] up32 0) 32).isSome = true ∧ pktBlocks away0 ≤ 256 ∧
    (queueOf (lined [(64, { queues := [(8, [{ p := pkt0, origin := none }])] })] up32 0) 64 8)[0]? = some { p := pkt0, origin := none } ∧
    Tab.find (getPort (lined [(0, { residue := [(3, { p := pkt0, vc := 0, outs := [(64, 0)] })] })] up32 0) 0).residue 3 = some { p := pkt0, vc := 0, outs := [(64, 0)] } ∧ ((0xF : Word).extractLsb' 0 16).toNat < 0x10 ∧ ¬ ((0x10 : Word).extractLsb' 0 16).toNat < 0x10 := by decide +kernel
def probing (links : Tab LinkPort) (now : Nat) : State := { lined [] links now with net := { (lined [] links now).net with route := { (lined [] links now).net.route with groups := [(8, { st := .down, probeSent := some 0 }), (9, { st := .up })], oldLive := true, notices := [(0xE2, [1], 0), (0xE3, [0, 1], 0), (0xE4, [1], 0)] } } }
theorem wit_LossNotices : (getOe (lined [] [] 0) 8).st = .up ∧ oePortsUp (lined [] [] 0) 8 = [] ∧ relayPaths (lined [] [] 0) 8 ≠ [] ∧ relayPaths { lined [] [] 0 with net := { (lined [] [] 0).net with route := { (lined [] [] 0).net.route with cur := some { bank0 with nz := 2 } } } } 8 = [] ∧ isHere (lined [] up32 0) 0x4 = true ∧
    (oePortsUp (lined [] up32 0) (oeTowards (lined [] up32 0) .z 1)).head? = some 32 ∧ diffDims (hereC (lined [] up32 0)) (nodeCoord 0x14) = [.z] ∧ replyHop (lined [] up32 0) 0x24 0x14 = some ⟨0, 0, 0, 1⟩ ∧ (getOe (probing [] 0) 8).probeSent = some 0 ∧ (getOe (probing [] 0) (oeTowards (probing [] 0) .z 1)).st = .down ∧
    seenNotice (probing [] 0) 0xE2 [entryIx ⟨0, 0, 0, 1⟩] = true ∧ seenNotice (probing [] 0) 0xE2 [entryIx ⟨0, 0, 0, 2⟩] = false ∧ seenNotice (probing [] 3999999) 0xE4 [entryIx ⟨0, 0, 0, 1⟩] = true ∧ seenNotice (probing [] 4000000) 0xE4 [entryIx ⟨0, 0, 0, 1⟩] = false ∧ (probing [] 800000).net.route.lastOld + 800000 ≤ (probing [] 800000).tb.time := by decide +kernel
def linked (l : LinkPort) (now : Nat) : State := { net := { links := [(0, l)], ports := [(0, { staging := [(0, [{ p := pkt0, vc := 0 }])] })], route := { w := 0, x := 0, y := 0, z := 0 } }, tb := { time := now } }
theorem wit_LinkRetry : (getLink (linked { st := .active } 0) 0).st = .active ∧ (getLink (linked { st := .active } 0) 0).waiting = none ∧ (getLink (linked { st := .active } 0) 0).rxSseq = 0 ∧ malformed 0 pkt0 = false ∧ malformed 2 pkt0 = true ∧ stagingOf (linked {} 0) 0 0 ≠ [] ∧ (([0, 1] : List Nat).filter (fun x => 4000000 < x + 4000000)).length = 1 ∧
    ackDrop 1 [{ sseq := 0, kph := false, blocks := 1, items := [] }] = [] ∧ creditsDue (getPort (linked {} 0) 0) = [] ∧ ([{ sseq := 5, kph := false, blocks := 1, items := [] }] : List Seg).findIdx? (fun g => g.sseq % 2 ^ 24 = 5) = some 0 ∧ ([] : List Seg).findIdx? (fun g => g.sseq % 2 ^ 24 = 5) = none ∧ (16777221 : Nat) % 2 ^ 24 = 5 := by decide
def lit (l : LinkPort) : State := { linked l 400000000 with pins := { transmitters := true } }
theorem wit_LinkTraining : portUsed (lit { st := .light }) 0 = true ∧ portUsed (linked { st := .light } 0) 0 = false ∧ (0 : Nat) + 40000000 ≤ (lit {}).tb.time ∧ (getLane (lit {}) 7).auto = true ∧ (∀ k < 25, (0x7F0 : BitVec 25).getLsbD k = (decide (4 ≤ k) && decide (k < 4 + 7))) ∧
    oePeer (lit { st := .ident }) (0 / 4) = ⟨0, 1, 0, 0⟩ ∧ engineOfHere (lit { st := .ident }) (0 / 4) = 0 ∧ timeOfDay (lit {}) = none ∧ (getOptic (lit {}) 0).mode = 0 ∧ (55 : Int) < 56 ∧ ((24 : Word).extractLsb' 0 5).toNat ≤ 24 ∧ 24 < ((25 : Word).extractLsb' 0 5).toNat := by decide
/-- TRAIN of lane 5 in DESKEW with counter 7: the fields stand at the places R349 gives. -/
theorem test_train : trainBlock .deskew 7 5 = .control 0x99 0x00000701040005 ∧ trainFields (trainBlock .deskew 7 5) = some (7, 1, 5) := by decide

/-- R339: AES-256-GCM of 16 zero bytes under a zero key and nonce, from the published test vectors of the mode. -/
theorem test_gcm : gcmSeal (List.replicate 32 0) (List.replicate 12 0) [] (List.replicate 16 0) =
    ([0xCE, 0xA7, 0x40, 0x3D, 0x4D, 0x60, 0x6B, 0x6E, 0x07, 0x4E, 0xC5, 0xD3, 0xBA, 0xF3, 0x9D, 0x18], [0xD0, 0xD1, 0xC8, 0xA7, 0x99, 0x99, 0x6B, 0xF0, 0x26, 0x5B, 0x98, 0xB5, 0xD4, 0x8A, 0xB9, 0x19]) := by decide +kernel
/-- R352: HMAC-SHA-384 of the first test case of IETF RFC 4231. -/
theorem test_hmac : (hmac384 (List.replicate 20 0x0B) [0x48, 0x69, 0x20, 0x54, 0x68, 0x65, 0x72, 0x65]).take 8 = [0xAF, 0xD0, 0x39, 0x44, 0xD8, 0x48, 0x95, 0x62] := by decide +kernel
theorem wit_LinkKeying : keyDigest (lit { st := .keying }).ctl.trust.opKey = keyDigest [] := by rfl

/-! ## Witnesses: commands of the host link -/

def hAdm : Hdr := hdr0
def hSig : Hdr := { hdr0 with isSigned := true, sigOk := true, ocount := 1 }
def hSl : Hdr := { hdr0 with channel := 0, slice := 1 }
def hSes : Hdr := { hSl with isSealed := true, scount := 1, sealOk := true }
def ses0 : Session := { th := [], releaseKey := [] }
def inSession : State := { base with ctl := { slices := [(0, { sl0 with session := some ses0 })], channels := [(0, { slice := 1 })] } }
theorem granted (s : State) (h : Hdr) (o : OpInfo) (x : (getLink s 64).st = .active ∧ rejects s h o = none ∧ (s.ctl.trust.recovery = true → o.recovery = true) ∧ unitBusy s o.code = false) : Granted s h o := ⟨x.1, x.2.1, x.2.2.1, x.2.2.2⟩

/-- The opcodes, by the channel each is accepted on. -/
def opsEither : List OpInfo := [{ code := 0x0000, chan := .any, recovery := true }, { code := 0x0001, chan := .any, reserve := 32, recovery := true }, { code := 0x0004, chan := .any, reserve := 4040, recovery := true }, { code := 0x0005, chan := .any, recovery := true }, { code := 0x0006, chan := .any, recovery := true }, { code := 0x0010, chan := .either, reserve := 2 }, { code := 0x0011, chan := .either, reserve := 2 }, { code := 0x0012, chan := .either, reserve := 16 }, { code := 0x0013, chan := .either }, { code := 0x1002, chan := .either, reserve := 64 }, { code := 0x1005, chan := .either }, { code := 0x2010, chan := .either }, { code := 0x2011, chan := .either, reserve := 4 }, { code := 0x2012, chan := .either }, { code := 0x2021, chan := .either }, { code := 0x2022, chan := .either, reserve := 32 }, { code := 0x2031, chan := .either }, { code := 0x4000, chan := .either }, { code := 0x4001, chan := .either }, { code := 0x4002, chan := .either }, { code := 0x4003, chan := .either, reserve := 12 }, { code := 0x5000, chan := .either, reserve := 16384, recovery := true }, { code := 0x5001, chan := .either, reserve := 16384, recovery := false }, { code := 0x5004, chan := .either, reserve := 16384 }, { code := 0x6001, chan := .either, reserve := 1024 }, { code := 0x7000, chan := .either, reserve := 2 }, { code := 0x7001, chan := .either }, { code := 0x7002, chan := .either }, { code := 0x7003, chan := .either }, { code := 0x7004, chan := .either }, { code := 0x7005, chan := .either }, { code := 0x7006, chan := .either }]
def opsAdm : List OpInfo := [{ code := 0x0002, chan := .admin, reserve := 512, recovery := true }, { code := 0x0003, chan := .admin }, { code := 0x3000, chan := .admin }, { code := 0x3001, chan := .admin }, { code := 0x3002, chan := .admin }, { code := 0x6000, chan := .admin, reserve := 4 }, { code := 0x7007, chan := .admin, reserve := 16384, recovery := true }, { code := 0x8000, chan := .admin, recovery := true }, { code := 0x8001, chan := .admin, recovery := true }, { code := 0x8002, chan := .admin, reserve := 1024, recovery := true }, { code := 0x8004, chan := .admin, reserve := 1024, recovery := true }]
def opsSig : List OpInfo := [{ code := 0x0007, chan := .adminSigned }, { code := 0x0008, chan := .adminSigned, recovery := false }, { code := 0x1000, chan := .adminSigned }, { code := 0x1001, chan := .adminSigned }, { code := 0x5005, chan := .adminSigned }, { code := 0x7008, chan := .adminSigned }, { code := 0x7009, chan := .adminSigned }, { code := 0x8003, chan := .adminSigned, recovery := true }]
def opsSlice : List OpInfo := [{ code := 0x1003, chan := .slice }, { code := 0x1004, chan := .slice }, { code := 0x1006, chan := .slice }, { code := 0x2000, chan := .slice }, { code := 0x2001, chan := .slice, reserve := 4032 }, { code := 0x2002, chan := .slice, reserve := 8 }, { code := 0x5002, chan := .unsealed, reserve := 4096 }, { code := 0x5003, chan := .slice }]
def opsSes : List OpInfo := [{ code := 0x2020, chan := .session, reserve := 8 }, { code := 0x2030, chan := .session }]
/-- For every command of the host link, a state and a header in which it is accepted and interpreted. -/
theorem wit_Granted :
    (∀ o ∈ opsAdm, Granted base hAdm o) ∧ (∀ o ∈ opsSig, Granted base hSig o) ∧
    (∀ o ∈ opsEither, Granted base hAdm o ∧ Granted base hSl o) ∧ (∀ o ∈ opsSlice, Granted base hSl o) ∧ (∀ o ∈ opsSes, Granted inSession hSes o) := by
  refine ⟨?_, ?_, ?_, ?_, ?_⟩ <;> intro o h
  · exact granted _ _ _ ((by decide +kernel : ∀ o ∈ opsAdm, (getLink base 64).st = .active ∧ rejects base hAdm o = none ∧ (base.ctl.trust.recovery = true → o.recovery = true) ∧ unitBusy base o.code = false) o h)
  · exact granted _ _ _ ((by decide +kernel : ∀ o ∈ opsSig, (getLink base 64).st = .active ∧ rejects base hSig o = none ∧ (base.ctl.trust.recovery = true → o.recovery = true) ∧ unitBusy base o.code = false) o h)
  · exact ⟨granted _ _ _ ((by decide +kernel : ∀ o ∈ opsEither, (getLink base 64).st = .active ∧ rejects base hAdm o = none ∧ (base.ctl.trust.recovery = true → o.recovery = true) ∧ unitBusy base o.code = false) o h),
      granted _ _ _ ((by decide +kernel : ∀ o ∈ opsEither, (getLink base 64).st = .active ∧ rejects base hSl o = none ∧ (base.ctl.trust.recovery = true → o.recovery = true) ∧ unitBusy base o.code = false) o h)⟩
  · exact granted _ _ _ ((by decide +kernel : ∀ o ∈ opsSlice, (getLink base 64).st = .active ∧ rejects base hSl o = none ∧ (base.ctl.trust.recovery = true → o.recovery = true) ∧ unitBusy base o.code = false) o h)
  · exact granted _ _ _ ((by decide +kernel : ∀ o ∈ opsSes, (getLink inSession 64).st = .active ∧ rejects inSession hSes o = none ∧ (inSession.ctl.trust.recovery = true → o.recovery = true) ∧ unitBusy inSession o.code = false) o h)

/-! ## Witnesses: what the host's commands act on -/

def hot (s : State) : State := { s with mem := { s.mem with stks := [(0, { therm := 3 }), (1, { therm := 3 }), (2, { therm := 3 }), (3, { therm := 3 })] } }
def chan64 (l : List Tag) : State := { base with ctl := { base.ctl with channels := [(0, { slice := 1 }), (64, { tags := l })] } }
theorem wit_HostAcceptance : rejects base { hAdm with version := 2 } { code := 0, chan := .any } = some 0x00FF ∧ rejects base { hAdm with channel := 65 } { code := 0, chan := .any } = some 0x0010 ∧ rejects (chan64 [{ tag := 1, opcode := 0, slice := 0xFFFF, version := 1 }]) hAdm { code := 0, chan := .any } = some 0x0011 ∧
    256 ≤ (getChan (chan64 (List.replicate 256 { tag := 2, opcode := 0, slice := 0xFFFF, version := 1 })) 64).tags.length ∧ (getChan (chan64 [{ tag := 1, opcode := 0, slice := 0xFFFF, version := 1 }]) 64).tags.find? (fun x => x.tag = 1) = some { tag := 1, opcode := 0, slice := 0xFFFF, version := 1 } ∧
    0 ∈ assignedOpcodes ∧ 0x00FF ∉ assignedOpcodes ∧ getSlice inSession 0 = some { sl0 with session := some ses0 } := by decide +kernel
theorem wit_HostGeneral : selOk 0x0300000000000000 1 = true ∧ selDown base 0x0300000000000000 1 = false ∧ selDown base 0x0100000000000000 1 = true ∧ selOk 0x0D00000000000000 1 = false ∧ selOk 0x0700000000000000 4 = true ∧ findTag (chan64 [{ tag := 2, opcode := 0, slice := 0xFFFF, version := 1, status := some 0, reply := [1] }]) 64 2 = some { tag := 2, opcode := 0, slice := 0xFFFF, version := 1, status := some 0, reply := [1] } ∧
    findTag (chan64 []) 64 2 = none ∧ base.net.route.joined = false ∧ (getLink base 63).st = .off ∧ base.ctl.trust.recovery = false ∧ rejects { base with ctl := { base.ctl with trust := { recovery := true } } } hSig { code := 7, chan := .adminSigned } = none := by decide +kernel
/-- R4: revision B1 with all dies in service. -/
theorem test_fd_ident : regRead { rst := { stepping := 1, variant := 2 } } 3 0 0 = 0x10102 := by decide
/-- A timesliced slice 2 in slot 1: cluster 1 of CD0, granule 1 of CD0. -/
def sd0 : List Byte := leBytes 2 2 ++ [1, 2] ++ leBytes 1 5 ++ leBytes 3 0 ++ List.replicate 184 0
def txn0 : Txn := { handle := 3, channel := 64, checked := true }
def transacting (l : List Txn) (now : Nat) : State := { base with ctl := { base.ctl with txns := l }, tb := { time := now } }
theorem wit_Transactions : findTxn (transacting [txn0] 0) hAdm 3 = some txn0 ∧ findTxn (transacting [] 0) hAdm 3 = none ∧ itemDenied base 64 (.slice sd0) = false ∧ sd0.length = 192 ∧ lockedElsewhere (transacting [txn0] 0) 3 (.slice sd0) = false ∧ 65536 < stagedBytes { txn0 with items := List.replicate 54 (.route (List.replicate 1216 0)) } + 192 ∧
    (checkItems true 64 0 base []).failed = none ∧ (checkItems true 64 0 base [.slice sd0]).failed = some (0, 0x0013) ∧ (7 : Nat) + 7 % 2 = 8 ∧ txn0.lastCmd + 2400000000000 ≤ (transacting [txn0] 2400000000000).tb.time ∧
    ([{ txn0 with commit := some (7, 1) }] : List Txn).find? (fun t => t.handle = 3) = some { txn0 with commit := some (7, 1) } ∧ (∀ x ∈ ([txn0] : List Txn), x.handle.toNat ≠ 65535) := by decide +kernel
theorem wit_SliceCommands : findSlice (accept base hSl { code := 0x1001, chan := .adminSigned }) 1 = some (0, { sl0 with usage := { hostBytes := 0 } }) ∧ concerned (accept base hSl { code := 0x1003, chan := .slice }) hSl = some (0, sl0) ∧ holdsClusters sl0 = true ∧ physCluster base 0 0 ≠ 0xF ∧ launchIxs sl0 ≠ [] ∧
    (∀ i ∈ launchIxs sl0, (sliceStrand (one {}) sl0 i).st = .free) ∧ (sliceStrand base sl0 0).st ≠ .free ∧ strandNamed sl0 0 0 15 31 = true ∧ strandNamed sl0 0 1 0 0 = false ∧ (sliceStrand (one { st := .trapped }) sl0 (strandIx 0 0 0 0)).st = .trapped ∧ countStrands (one { st := .stopped }) sl0 .stopped = 1 ∧ countStrands base sl0 .stopped = 0 ∧
    memCmdOk 0x3FFFFFFFC0 64 = true ∧ memCmdOk 0x20 64 = false ∧ memCmdKey base 0x3FFFFFFC0 64 1 = some 0x3FFFFFFC0 ∧ memCmdKey base 0x3FFFFFFC0 128 1 = none ∧ poisonedAt base 0 64 = false ∧ sramBad base 0 64 = false ∧ ownsCounter base 0 0 1 = true ∧ (2 ^ 63 - 1 : Nat) < 2 ^ 63 ∧
    memMustWait (accept base hSl { code := 0x2000, chan := .slice }) 0 sl0 (.write 0x3FFFFFFFC0 (List.replicate 64 0)) = false ∧ memMustWait (accept (hot base) hSl { code := 0x2001, chan := .slice }) 0 sl0 (.read 0x3FFFFFFFC0 64) = true ∧
    memMustWait (accept { base with ctl := { base.ctl with memWaits := [{ channel := 0, tag := 9, op := .write 0 (List.replicate 64 0) }] } } hSl { code := 0x2002, chan := .slice }) 0 sl0 (.add 0 0 1) = true ∧ memHeld base sl0 (.read 0x3FFFFFFFC0 64) = false := by decide +kernel
def slicing (a b : Slice) (now : Nat) : State := { base with ctl := { slices := [(0, a), (1, b)] }, tb := { time := now } }
def ts0 : Slice := { sl0 with timesliced := true }
theorem wit_SliceResidency : quantumPast (slicing ts0 { ts0 with id := 2, st := .out } 4000000) ts0 = true ∧ waiterFor (slicing ts0 { ts0 with id := 2, st := .out } 4000000) ts0 = true ∧ quantumPast (slicing ts0 sl0 3999999) ts0 = false ∧ needsSpare base sl0 = false ∧ drainedSlice (slicing { ts0 with st := .switching } sl0 0) { ts0 with st := .switching } = true ∧
    clustersFree { base with ctl := { slices := [(0, { ts0 with st := .out })] } } { ts0 with st := .out } = true ∧ snapDue 240000000000 ts0 = true ∧ (240000000128 : Nat) % 240000000000 < 129 ∧ getSlice base 0 = some sl0 := by decide +kernel
theorem wit_SliceObjects : ringParamsOk base 1 4095 0 4 15 0 0x1000 0x2000 = true ∧ ringParamsOk base 1 4095 0 3 15 0 0x1000 0x2000 = false ∧ (getRing base 4095).st = .undefined ∧ (ringsOf base 1).length < sl0.maxRings ∧ (getEp base 0).monitors.length < 4096 ∧ ringNamed (ringed ring0) hAdm 0 = true ∧ ringNamed (ringed ring0) hAdm 1 = false ∧
    deckleParamsOk 3 16 0x10000 = true ∧ deckleParamsOk 3 15 0 = false ∧ (validDeckles base).length < 262144 ∧ (getDeckle base 0).valid = false ∧ deckleNamed (copying copy0 0) hAdm 0 = true ∧ deckleNamed (copying copy0 0) hAdm 1 = false ∧ Tab.find base.fab.mouldKeys (511 % 256) = none ∧ concerned inSession hSes = some (0, { sl0 with session := some ses0 }) ∧
    mouldInUse (mod0 { mouldKeys := [(7, { slice := 1, keyId := 0 })], copies := [{ copy0 with op := 3, mkh := 7 }] } 0) 7 = true ∧ mouldInUse (mod0 { mouldKeys := [(7, { slice := 1, keyId := 0 })] } 0) 7 = false ∧ findGroup (operating root0 op0 0) 5 = some (3, { root0 with op := some op0 }) ∧ gOwner root0.desc = boundSlice base 0 := by decide +kernel
/-- Slice 1's descriptor names the digest of an owner key of 97 zero bytes. -/
def open0 : State := { base with ctl := { slices := [(0, { sl0 with clusters := [], desc := List.replicate 104 0 ++ sha384 (List.replicate 97 0) })], channels := [(0, { slice := 1 })] } }
theorem wit_TrustCommands : base.ctl.trust.noIdentity = false ∧ base.ctl.trust.batch = [] ∧ concerned open0 hSl = some (0, { sl0 with clusters := [], desc := List.replicate 104 0 ++ sha384 (List.replicate 97 0) }) ∧ sha384 (((List.replicate 336 (0 : Byte)).drop 136).take 97) = ((List.replicate 104 0 ++ sha384 (List.replicate 97 0)).drop 104).take 48 ∧
    sliceInUse open0 { sl0 with clusters := [] } = false ∧ sliceInUse base sl0 = true ∧ otherPending base hSl = false ∧ (65535 : Nat) < 65536 ∧ (6 : Nat) ≤ 6 := by decide +kernel

/-! ## Witnesses: power, debugging and observation -/

theorem wit_PowerCaps : capAt { base with pw := { capHist := [(0, 4400)] } } 4000000 = 4400 ∧ min 4400 (max 900 (min 4400 899)) * 10 < 4400 * 9 ∧ ¬ (3960 : Nat) * 10 < 4400 * 9 ∧ i3cAnswers base = false ∧ i3cAnswers { base with rst := { step := 1 }, pw := { i3cDyn := some 9 } } = true ∧ ((0x83 : Byte).toNat + 256 * (0x03 : Byte).toNat) = 899 := by decide
def powered (x : PwDie) (p : Power) : State := { base with pw := p, pwDies := [(0, x)], rst := { step := 10, dieOut := 15, dieUp := 15 } }
def read0 : RailRead := { current := 0, voltage := 850, fault := false, answered := true }
theorem wit_PowerControl : (getRail base 0).target * 95 ≤ read0.voltage * 100 ∧ read0.voltage * 100 ≤ (getRail base 0).target * 105 ∧ (99 : Nat) = 99 ∧ raiseDue { powered { pwr := 2, point := 1500 } {} with tb := { time := 4000000 } } 0 = true ∧ raiseDue (powered { pwr := 2 } {}) 0 = false ∧ lowerDue (powered { pwr := 2, cutW := 1 } { power := 4401 }) 0 = true ∧ lowerDue (powered { pwr := 2, point := 800 } {}) 0 = false ∧
    braked (powered { pwr := 2 } {}) = false ∧ lendOver (powered { pwr := 2 } {}) = true ∧ lendWanted base = [] ∧ barrierHolds base 0 0 = false ∧ barrierHolds (operating root0 op0 0) 0 0 = true ∧ dieIdle { rst := { step := 10 }, mem := { granules := (List.range 16).map (fun g => (g, { st := .free })) } } 0 = true ∧ dieIdle base 0 = false ∧ 780 * 9 / 10 = 702 := by decide +kernel
theorem test_pll_gate : (∀ k < 16, (Tab.getD (({ compute := { cores := (List.range 16).map (fun k => (k, { gated := true })) } } : State)).compute.cores (16 * clIx 0 0 + k) ({} : Core)).gated = true) := by decide
def bk0 : BkptCfg := { die := 0, cluster := 0, core := 0xFF, kind := 1, mask32 := 1, access := 1, scope := 1, value := 0, mask := 0 }
theorem wit_DebugCommands : debugDenied hAdm { sl0 with debugOk := false } = true ∧ debugDenied hAdm sl0 = false ∧ (bkptCores sl0 bk0).length = 16 ∧ bkptCores sl0 { bk0 with core := 16 } = [] ∧ (∀ c ∈ bkptCores sl0 bk0, (sliceCore base sl0 c).bkpts.length < 4) ∧ (bkptsInUse base).length < 3072 ∧ strandNamed sl0 0 0 0 0 = true ∧
    (sliceStrand base sl0 0).st = .ready ∧ (sliceStrand (one { st := .halted }) sl0 0).st = .halted ∧ strandSlice (one { st := .halted, drained := false }) p0 = some (0, sl0) ∧ haltEmpty (one { st := .halted, drained := false }) p0 = true ∧ haltEmpty (one { st := .halted, drained := false, loads := 1 }) p0 = false ∧ sourceDefined 0x1000 = true ∧ sourceDefined 0xFFFF = false := by decide +kernel
def sc0 : SamplerCfg := { sampler := 255, action := 1, set := 0, first := 0, count := 16, mode := 0, trigger := 0, event := 0, period := 10, buf := 0x10000, die := 0, log2size := 16, post := 0, t := 0 }
def wc0 : WatermarkCfg := { unit := 63, action := 1, tap := 1, cluster := 0, core := 15, gid := 0, start := 0xFFFC0, length := 64, elem := 10, anchor := 0, closeCtr := 0, doneCtr := 0, result := 0x20000, log2slots := 0, ref := 0 }
def sampling (x : Sampler) (now : Nat) : State := { base with ctl := { base.ctl with samplers := [(255, x)], watermarks := [(63, { owner := 1, cfg := some wc0, st := 1, closed := [(0, 0, {})] })] }, tb := { time := now } }
theorem wit_Observation : samplerAllowed base hSl sl0 sc0 = true ∧ samplerFieldsOk base sl0 sc0 = true ∧ samplerFieldsOk base sl0 { sc0 with period := 9 } = false ∧ samplerAllowed base hSl sl0 { sc0 with buf := 0x400000000 } = false ∧ (setInstances base sl0 0).isSome = true ∧ sampleDue 40000 {} sc0 = true ∧ sampleDue 40129 {} sc0 = false ∧
    findSlice (sampling { owner := 1, cfg := some sc0, st := 2 } 40000) 1 = some (0, sl0) ∧ ownsHbm (sampling {} 0) 0 0x10000 (2 ^ 16) 1 = true ∧ eventCame base { owner := 1 } { sc0 with trigger := 2, event := 9 } = false ∧ wmFieldsOk base sl0 wc0 = true ∧ wmFieldsOk base sl0 { wc0 with start := 0xFFFC1 } = false ∧ wmAllowed base sl0 wc0 = true ∧
    getWm (sampling {} 0) 63 = { owner := 1, cfg := some wc0, st := 1, closed := [(0, 0, {})] } ∧ partialPoison (sampling {} 0) (memKey 0 0x20000) 128 = false := by decide +kernel
def struck : State := { base with ctl := { base.ctl with slices := [(0, { sl0 with evRing := { kinds := [(9, 1)] } })] } }
theorem wit_SamplerEvent : eventCame struck { owner := 1 } { sc0 with trigger := 2, event := 9 } = true := by decide

/-! ## Witnesses: fleet, firmware and resets -/

theorem wit_FleetHealth : seenStop { fleet := { stops := [(4, 1, 0)] }, tb := { time := 3999999 } } 4 1 = true ∧ seenStop { fleet := { stops := [(4, 1, 0)] }, tb := { time := 4000000 } } 4 1 = false ∧ tenMs { tb := { time := 40000000 } } { lastRec := some 0 } = true ∧ tenMs { tb := { time := 39999999 } } { lastRec := some 0 } = false ∧ allSources ≠ [] ∧
    drillFieldsOk base { t := 0, kind := 1, port := 63, gid := 0, die := 0, amount := 0, id := 1 } = true ∧ drillFieldsOk base { t := 0, kind := 1, port := 64, gid := 0, die := 0, amount := 0, id := 1 } = false ∧ drillHolds base { t := 0, kind := 2, port := 0, gid := 0, die := 0, amount := 0, id := 1 } = false ∧
    drillHolds { net := { links := [(0, { st := .active }), (1, { st := .active })] } } { t := 0, kind := 2, port := 0, gid := 0, die := 0, amount := 0, id := 1 } = true ∧ drillGroup (grouped { root0 with desc := root0.desc ||| (1 <<< 100) } 0) 5 = some 3 := by decide +kernel
/-- An image for this module with a body of 64 bytes, as an OPCONFIG and as the first part of an unlock image: SCOPE 1, serial 1. -/
def body0 : List Byte := leBytes 2 1 ++ leBytes 6 0 ++ leBytes 8 1 ++ leBytes 48 0
def img0 (kind : Byte) : List Byte := leBytes 2 1 ++ [kind, 0] ++ leBytes 4 64 ++ leBytes 4 0 ++ [1] ++ leBytes 51 0 ++ sha384 body0 ++ leBytes 16 0 ++ body0 ++ leBytes 96 0 ++ leBytes 4 0
def stg0 : Staged := { kind := 6, slot := 0, length := 292, verified := true, opened := false, bytes := img0 6 }
def staged0 : State := { base with ctl := { base.ctl with slices := [], fw := { staged := some stg0 } } }
theorem wit_ImageVerified : imageOk base 5 (img0 5) true = true ∧ imageOk base 5 (img0 5) false = false ∧ imageOk base 6 (img0 6) true = false ∧ stg0.bytes.length = stg0.length := by decide +kernel
theorem wit_TestUnlock : unlockImage staged0 (sha384 body0) = some stg0 := by decide +kernel
theorem wit_FirmwareAndTest : runningSlot base 1 0 = true ∧ runningSlot base 1 1 = false ∧ beginParam 1 1 128 = false ∧ beginParam 2 1 128 = true ∧ beginParam 0 7 128 = true ∧ tapNext .exit1Ir true = .updateIr ∧ tapNext .selectDr false = .captureDr ∧ tapSelects 1 [true, true] = 0 ∧ unlockImage base [] = none := by decide +kernel
theorem wit_Resets : domainRefused base 5 = none ∧ domainRefused base 7 = some 0x0011 ∧ domainRefused base 9 = some 0x0013 ∧ slicesOnDie base 0 = [0] ∧ slicesOnDie base 1 = [] ∧ State.reset.rst.resetN = false ∧ State.reset.rst.refclk = true ∧ State.reset.rst.pwrOk = true ∧ railOrder[0]? = some 2 ∧ railOrder[4]? = some 1 ∧ railOrder[5]? = none ∧
    stepReady base 2 = true ∧ stepReady { rails := [(0, { st := 2 }), (1, { st := 3 }), (2, { st := 2 }), (3, { st := 2 }), (4, { st := 2 })] } 7 = true ∧ stepReady base 5 = false ∧ cdResetDue { pwDies := [(0, { tripped := true, temp := 94 })] } 0 .trip = true ∧ cdResetDue { pwDies := [(0, { tripped := true, temp := 95 })] } 0 .trip = false ∧ resetBusy base 5 = false ∧
    resetDone base 5 = true ∧ resetDone base 1 = false := by decide +kernel

/-! ## Witnesses: every step -/

def p31 : Pos := ⟨3, 11, 15, 31⟩
theorem wit_ResetRegisters : regExists 1 0 0 = true ∧ regExists 12 2 0x400000 = true ∧ regExists 11 3 0 = true ∧ getStrand State.reset p31 = {} := by decide +kernel
theorem wit_StepRunsFront : ({ base with pending := [.li p0 g0 3 5] } : State).pending = [.li p0 g0 3 5] ∧ State.reset.pending = [] := by decide
theorem test_step_runs : (match step { base with pending := [.li p0 g0 3 5] } with
    | .next t => some (rd (getStrand t p0) 3, t.pending.length)
    | _ => none) = some (5, 0) := by decide
theorem wit_EveryStepKeepsMemory : Memory.wf felt8.mem.bytes ∧ (after (.stlB p0 g0 1 1 0) felt8).isSome = true := by decide
theorem wit_StrandsStayWithin : strandOf (.stlB p0 g0 1 1 0) = some p0 ∧ strandOf (.nop hAdm) = none ∧ (after (.stlB p0 g0 1 1 0) felt8).isSome = true := by decide

/-! ## Witnesses: turns, pins, held memory, decoding and times -/

theorem wit_LocalTraps_edge : LocalIn (rd (getStrand (atAddr 0xFFFFD) p0) 1 + BitVec.ofInt 64 ((0 : BitVec 10).toInt * 8)) 1 ∧ (rd (getStrand (atAddr 0xFFFFD) p0) 1).toNat % 8 ≠ 0 ∧ Reaches (atAddr 0xFFFFD) p0 g0 [3, 1] [3, 1] :=
  ⟨by unfold LocalIn; decide, by decide, reaches_one _ _ _⟩
/-- Two READY strands of CD0.CL0.C0, the round-robin at strand `rr`. -/
def pair (a b : Strand) (k : Core) : State := { one a with compute := { strands := [(0, a), (1, b)], maps := [(0, { map := [(0, 0)] })], cores := [(0, k)] } }
def pin1 (n : Nat) : VecPin := { strand := 1, gen := 0, pc := 0, fails := n }
def pin0 (n : Nat) : VecPin := { strand := 0, gen := 0, pc := 0, fails := n }
def behind0 : State := pair { st := .ready } { st := .ready } { vecPin := some (pin1 1) }
theorem wit_VectorPins : Reaches behind0 p0 g0 [3, 1] [3, 1] ∧ UnitRuns behind0 p0 ∧ behindPin behind0 p0 = true ∧ VectorRuns base p0 ∧ canIssue base p0 = true ∧ pinned base p0 = false ∧
    (∀ n ∈ [1, 2], let s := pair { st := .ready } {} { vecPin := some (pin0 n) }
      canIssue s p0 = true ∧ VectorRuns s p0 ∧ (getCore s (coreOf p0)).vecPin = some (pin0 n)) :=
  ⟨⟨by decide, by decide, by decide, by decide, by decide, by decide, by decide, by decide, by decide, by decide,
    by have h : busyRegs behind0 p0 = [] := by decide
       simp [h],
    by have h : (getStrand behind0 p0).badRegs = [] := by decide
       simp [h]⟩, by unfold UnitRuns; decide, by decide, by unfold VectorRuns UnitRuns; decide, by decide, by decide, by unfold VectorRuns UnitRuns; decide⟩
theorem wit_TmmaWaits : (getEngine { base with compute := { base.compute with cores := [(0, { engines := [(0, { queue := List.replicate 8 { p := p0, gen := 0, pc := 0, td := 0, sa := 0, sb := 0, init := false, final := true } })] })] } } (coreOf p0) 0).queue.length = 8 ∧ (getCore base (coreOf p0)).fenced.getLsbD 0 = false := by decide
/-- A gather whose table is at CD0's global address 0, with an open flow to it: with credit, and without any. -/
def gathererTo (f : List (Nat × Flow)) : State := { gatherer 0 with net := (sender []).net, fab := { (gatherer 0).fab with flows := f } }
def gslot0 : GatherSlot := { p := p0, gen := 0, pc := 0, slice := 1, counter := 0, desc := gdesc }
theorem wit_GatherCredit : gatherCredit (gathererTo [(5, flow0)]) gslot0 = none ∧ (gatherCredit (gathererTo [(5, { flow0 with st := .opening })]) gslot0).isSome = true := by decide +kernel
theorem reaches_gathererTo (f : List (Nat × Flow)) : Reaches (gathererTo f) p0 g0 [1, 2] [1, 2] :=
  ⟨rfl, rfl, rfl, rfl, turn_first _ rfl, (by decide : fetchHeld (gathererTo []) p0 = false), (by decide : fetchOk (gathererTo []) p0 = true), rfl, rfl, rfl,
   by have h : busyRegs (gathererTo f) p0 = [] := rfl
      simp [h],
   by have h : (getStrand (gathererTo f) p0).badRegs = [] := rfl
      simp [h]⟩
def yielder : Strand := { st := .ready, yielded := true }
theorem wit_Turns : let p1 : Pos := ⟨0, 0, 0, 1⟩
    (let s := pair yielder { st := .ready } {}
     canRun s p0 = true ∧ yields s p0 = true ∧ candidate s p1 = true) ∧
    (let s := one yielder
     canRun s p0 = true ∧ yields s p0 = true ∧ ∀ k : Fin 32, candidate s ⟨0, 0, 0, k⟩ = false) ∧
    (let s := pair { st := .ready } yielder { rr := 1 }
     pinned s p0 = false ∧ yields s p1 = true ∧ searchIx (getCore s (coreOf p0)) p1 < searchIx (getCore s (coreOf p0)) p0 ∧ canIssue s p0 = true ∧ fetchOk s p0 = true ∧ fetchPoisoned s p0 = false) ∧
    (let s := pair { st := .ready } { st := .ready } { rr := 1 }
     canRun s p0 = true ∧ yields s p0 = false ∧ pinned s p0 = false ∧ candidate s p1 = true ∧ searchIx (getCore s (coreOf p0)) p1 < searchIx (getCore s (coreOf p0)) p0 ∧ fetchOk s p0 = true ∧ fetchPoisoned s p0 = false ∧ pcBkpt s p0 = none ∧ guardOk (getStrand s p0) ⟨0, true⟩ = false) := by decide
/-- R90's example, and a word of each of the other formats, written out from R74 and R77. -/
theorem test_decode : decodeWord p0 0x91853005 = some (.gld p0 ⟨3, false⟩ 5 12 0 1 1) ∧
    decodeWord p0 0b000000_000_0_000011_000001_000010_0000 = some (.add p0 g0 3 1 2) ∧
    decodeWord p0 0b001000_000_1_000011_000001_1111111111 = some (.addi p0 ⟨0, true⟩ 3 1 0x3FF) ∧
    decodeWord p0 0b001110_010_0_000101_1000000000000001 = some (.li p0 ⟨2, false⟩ 5 0x8001) ∧
    decodeWord p0 0x48000000 = none := by decide
theorem wit_Issues : canIssue base p0 = true ∧ yields base p0 = false ∧ decodeWord p0 0x48000000 = none := by decide
theorem wit_EngineLive : EngineLive (engaged { queue := [tmma0] }) c0 0 ∧ EngineLive (engaged { running := some { tmma0 with execs := 3 } }) c0 0 ∧ EngineLive (engaged { running := some tmma0, rows := [leBytes 4 0] }) c0 0 := by
  refine ⟨?_, ?_, ?_⟩ <;> constructor <;> decide
theorem wit_PatrolEnds : pchRun patrolled row0 < 15 ∧ 15 ≤ pchRun { patrolled with mem := { patrolled.mem with pchUe := [(0, 15)] } } row0 ∧ (getStack patrolled row0.stack.val).link = 1 ∧ (getStack { mem := { stks := [(0, { therm := 3 })] } } 0).therm = 3 := by decide
theorem wit_Rearmed : (getErr { mem := { errs := [(0, { firstValid := true, firstAt := 5 })] }, tb := { base := 6 } } (.hbm 0)).firstAt = 5 := by decide
theorem wit_ScrubStarts : (getHbm patrolled 0).patrolOn = true ∧ (getHbm base 0).patrolOn = false ∧ ({ rst := { busy := [(1, 0)] } } : State).rst.busy.any (fun b => b.1 = 0 + 1) = true ∧ base.rst.busy.any (fun b => b.1 = 0 + 1) = false := by decide
def comb8 : Req := { st8 with comb := true, parts := [(0x10, 3, 0), (0x20, 4, 0)] }
theorem wit_Combined : (∃ c ∈ constituents comb8, partSt (homed home0) 0 c = .fresh) ∧ (¬ ∃ c ∈ constituents comb8, partSt (homed home0) 0 c = .stale) ∧
    (∃ c ∈ constituents comb8, partSt (homed admitted0) 0 c = .stale) ∧ (¬ ∃ c ∈ constituents { comb8 with parts := [(0x30, 3, 0), (0x20, 4, 0)] }, partSt (homed home0) 0 c = .fresh) := by decide
theorem wit_RespOpcodes : ({ flow := 5, seq := 7, word := 0, data := [], crowd := false } : Resp).opcode = 0x80 ∨ ({ flow := 5, seq := 7, word := 0, data := [], crowd := false } : Resp).opcode = 0x81 := by decide
theorem wit_HeldRings : hbmHeld (hot (ringed ring0)) 0 4096 8 = true ∧ hbmHeld (ringed ring0) 0 4096 8 = false ∧ hbmHeld (ringed ring0) 0 (slotOff ring0 0) 64 = false ∧ hbmHeld (hot retiring) 0 (slotOff ring0 0) 64 = true ∧ hbmHeld retiring 0 8192 64 = false ∧
    (let x := { ring0 with lastPi := 1, prog := [{ index := 5, desc := 0 }] }
     ringReady x = true ∧ x.granted < x.weight ∧ x.prog ≠ []) ∧ poisonedAt { ringed ring0 with mem := { (ringed ring0).mem with poison := [memKey 0 0 / 32] } } (memKey 0 (slotOff ring0 0)) 64 = true := by decide +kernel
theorem wit_BulkArrivals : deliverHeld (copying copy0 0) copy0 0 64 = false ∧ deliverHeld (hot (copying copy0 0)) copy0 0 64 = true ∧ dataHeld (copying { copy0 with atDest := false } 0) { copy0 with atDest := false } 0 64 = false ∧
    bflow0.timerFrom + bflow0.rto ≤ 80000 ∧ findRecv (copying copy0 0) 0x14 5 = some recv0 ∧ recv0.arrived = [] ∧ (∀ c ∈ (copying copy0 0).fab.copies, c.atDest = true ∨ c.ended.isSome = true) := by decide +kernel
theorem wit_DelegatedEnds : destOf (copying copy0 0) 1 1 0x10000 0 64 = some copy0 := by decide +kernel
/-- Whatever number the draw gives, a context is free. -/
theorem wit_FlowContexts (w : Nat) : (pickContext (flowing bflow0 0) w).isSome = true := by
  unfold pickContext
  split
  · rfl
  · decide +kernel
theorem wit_ReceiveContext : getFlow (copying copy0 0) 0 = none ∧ (copying copy0 0).fab.recvFlows.find? (fun x => x.recv.toNat = 0) = some recv0 := by decide +kernel
theorem wit_HeldGroups : hbmHeld (hot (grouped root0 0)) (gQdie gd0) (gPioff gd0) 8 = true ∧ hbmHeld (grouped root0 0) (gQdie gd0) (gPioff gd0) 8 = false ∧ hbmHeld (grouped child0 0) (gQdie gd0) (quireSlot child0 0) 64 = false ∧
    quireHeld (operating root0 op0 0) { root0 with op := some op0 } 0 = false ∧ outcomeOf { root0 with op := some op0 } 0 = none ∧ quireHeld (operating child0 opAr 0) { child0 with op := some opAr } 0 = false ∧ outcomeOf { child0 with op := some opAr } 0 = none := by decide +kernel
theorem wit_HeldChunks : op0.refused = false ∧ op0.barHeld = none ∧ dstHeld (operating child0 opAr 0) { child0 with op := some opAr } ar0 0 = false ∧ dstHeld (hot (operating child0 opAr 0)) { child0 with op := some opAr } ar0 0 = true := by decide +kernel
/-- A barrier of the group whose time is 100 units ahead. -/
def opT : CollOp := { op0 with t := some 100 }
theorem wit_BarrierNear : barrierNear (operating root0 opT 0) 0 0 = true ∧ barrierNear base 0 0 = false ∧ barrierNear (one {}) 0 0 = false := by decide +kernel
theorem wit_BarrierTimes : disagrees { root0 with op := some op0 } ch0 = false ∧ op0.released = false ∧ (100 : Nat) < cycleEnd (operating root0 opT 0) + 200 ∧ cycleEnd (operating root0 opT 0) + 200 ≤ 1000 ∧ cycleEnd (operating root0 op0 0) = 128 ∧
    (operating root0 op0 0).fab.groups.all (fun e => match e.2.op with | some o => o.barHeld.isNone | none => true) = true := by decide +kernel
theorem wit_TimeServo : 549700838307 ≤ ({} : TimeBase).inc ∧ ({} : TimeBase).inc ≤ 549810789469 ∧ boundaryHere (timed { time := 3999999999, base := 3999999999 - 3999999999 % 128 }) = 4000000000 ∧ boundaryHere (timed {}) ≤ (timed {}).tb.time ∧
    parentGood (timed { st := .acquire, heard := [(0, { gm := 0x14, prio := 0, hops := 0, state := 4, at_ := 0 })] }) = true ∧ parentGood (timed { st := .acquire }) = false ∧ ({} : TimeBase).lastPpsIn = none := by decide

/-! ## Witnesses: the code of a line, and what a link carries -/

/-- A fold whose value is computed at every step. -/
def foldNow (f : Nat → Nat → Nat) : Nat → List Nat → Nat
  | acc, [] => acc
  | 0, x :: xs => foldNow f (f 0 x) xs
  | n + 1, x :: xs => foldNow f (f (n + 1) x) xs
theorem foldNow_eq (f : Nat → Nat → Nat) (a : Nat) (l : List Nat) : l.foldl f a = foldNow f a l := by
  induction l generalizing a with
  | nil => cases a <;> rfl
  | cons x xs ih => cases a <;> exact ih _

def word0 : List Nat := [181, 80, 0, 0, 90, 40, 877, 514, 716, 325, 163, 297, 395, 470, 535, 82, 1021, 309, 951, 244] ++ List.replicate 140 0 ++ [238, 573, 463, 906, 854, 790, 551, 889, 186, 346]
theorem syn0 : rsSyndromes word0 = List.replicate 10 0 := by
  unfold rsSyndromes
  simp only [foldNow_eq]
  decide +kernel
theorem dec_of (w : List Nat) (h : rsSyndromes w = List.replicate 10 0) : rsDecode w = some (w, 0) := by simp [rsDecode, h]
def zero0 : List Nat := List.replicate 170 0
theorem synz : rsSyndromes zero0 = List.replicate 10 0 := by
  unfold rsSyndromes
  simp only [foldNow_eq]
  decide +kernel
def words0 : List (List Nat) := [word0, zero0, zero0, zero0]
def good0 : SegVerdict := { groups := [(spread words0).map (fun l => l.flatMap symbolLevels)], first := 0, blocks := 3, before := 0, tagOk := true }
theorem lev0 : levelsWords ((spread words0).map (fun l => l.flatMap symbolLevels)) = words0 := by decide +kernel
theorem words_good0 : good0.words = [some (word0, 0), some (zero0, 0), some (zero0, 0), some (zero0, 0)] := by
  have h : good0.groups.flatMap levelsWords = words0 := by rw [← lev0]; simp [good0]
  unfold SegVerdict.words
  rw [h]
  simp only [words0, List.map_cons, List.map_nil, dec_of _ syn0, dec_of _ synz]
theorem rec0 : good0.received = [some (.control 0x2D 0x50), some (.control 0x4B 0x123456789), some (.control 0x55 0xABCDEF01234567)] := by
  unfold SegVerdict.received
  rw [words_good0]
  decide +kernel

theorem good0_ok : good0.codewordsOk = true ∧ good0.blocksOk = true ∧ good0.closingOk 0 false = true := by
  refine ⟨by simp [SegVerdict.codewordsOk, words_good0], ?_, ?_⟩
  · unfold SegVerdict.blocksOk
    rw [rec0]
    decide
  · unfold SegVerdict.closingOk
    rw [rec0]
    decide
/-- Six symbols in error: a multiple of five of the ten factors of the generator. -/
def wordBad : List Nat := List.replicate 164 0 ++ [1, 31, 198, 792, 969, 9]
theorem syn_bad : rsSyndromes wordBad = [0, 0, 0, 0, 0, 642, 294, 781, 992, 933] := by
  unfold rsSyndromes
  simp only [foldNow_eq]
  decide +kernel
theorem len_bad : (locatorOf [0, 0, 0, 0, 0, 642, 294, 781, 992, 933]).len = 6 := by decide +kernel
theorem dec_bad : rsDecode wordBad = none := by simp [rsDecode, syn_bad, len_bad]
def wordsBad : List (List Nat) := [wordBad, zero0, zero0, zero0]
def bad0 : SegVerdict := { good0 with groups := [(spread wordsBad).map (fun l => l.flatMap symbolLevels)] }
theorem lev_bad : levelsWords ((spread wordsBad).map (fun l => l.flatMap symbolLevels)) = wordsBad := by decide +kernel
theorem bad0_ok : bad0.codewordsOk = false := by
  have h : bad0.groups.flatMap levelsWords = wordsBad := by rw [← lev_bad]; simp [bad0]
  unfold SegVerdict.codewordsOk SegVerdict.words
  rw [h]
  simp [wordsBad, dec_bad]
theorem wit_LineCode : good0.codewordsOk = true ∧ good0.blocksOk = true ∧ good0.closingOk 0 false = true ∧ good0.tagOk = true ∧ bad0.codewordsOk = false ∧ ({ good0 with groups := [], blocks := 1 } : SegVerdict).blocksOk = false ∧ good0.closingOk 1 false = false :=
  ⟨good0_ok.1, good0_ok.2.1, good0_ok.2.2, rfl, bad0_ok, by decide +kernel, by unfold SegVerdict.closingOk; rw [rec0]; decide⟩
theorem wit_LinkEnds : (getLink (linked { st := .active } 0) 0).dropping = false ∧ outCells (linked { st := .active } 0) 0 = 0 ∧ inExtent bank0 (oePeer (lined [] up32 0) 12) = false ∧ outsideExtent (lined [] up32 0) = false ∧ outsideExtent base = false := by decide +kernel
/-- An internal input of class 0 holds 64 cells. -/
def inner0 (n : Nat) : State := lined [(64, { staging := [(0, List.replicate n { p := pkt0, vc := 0 })] })] up32 0
theorem wit_MayEnter : freeResidue (lined [] up32 0) 0 ≠ none ∧ freeResidue (lined [(0, { residue := (List.range 4).map (fun k => (k, { p := pkt0, vc := 5, outs := [(64, 0)] })) })] up32 0) 0 = none ∧ mayEnter (inner0 63) 64 0 pkt0 = true ∧ mayEnter (inner0 64) 64 0 pkt0 = false ∧ mayEnter (inner0 0) 0 0 pkt0 = true ∧ noWay (lined [] up32 0) 1 { p := { pkt0 with dst := 0x20 }, vc := 1 } = true ∧
    noWay (lined [] [] 0) 0 { p := away0, vc := 0 } = true ∧ noWay (lined [] up32 0) 0 { p := away0, vc := 0 } = false ∧ waitOf (lined [] up32 0) 0 0 ≤ 0x400 ∧ waitOf (lined [(0, { heldWait := [(0, 16)] })] up32 0) 0 0 = 16 := by decide +kernel
theorem wit_CommitTimes : cycleEnd (transacting [txn0] 0) = 128 ∧ (127 : Nat) < cycleEnd (transacting [txn0] 0) ∧ cycleEnd (transacting [txn0] 0) ≤ 128 := by decide
theorem wit_ResetTrains : (getHbm base 0).patrolOn = false := by decide

end Sys2Proof.Tests
end

/-! ## Instructions of a strand: completion and traps

What one instruction of a strand leaves when it completes, and what it leaves when it traps at issue, said once for every instruction (R75, R103). -/

namespace Sys2Proof.Machine

section

variable {s : State} {p : Pos}

/-! ### An instruction that completes -/

/-- A three-register row that reaches its effect writes the value of its operation. -/
theorem writes_opRR {g : Guard} {sd sa sb : BitVec 6} {i : Instr} {f : Word → Word → Word} {v : Word} (h : Reaches s p g [sd, sa, sb] [sa, sb])
    (hi : exec i s = .next (opRR p g true sd sa sb f s)) (hv : f (rd (getStrand s p) sa) (rd (getStrand s p) sb) = v) : Writes s p i sd v := by
  rw [opRR, issue_reaches h] at hi
  subst hv
  exact ⟨_, hi, finish_completed s p _⟩

/-- A register-immediate row that reaches its effect writes the value of its operation. -/
theorem writes_opRI {g : Guard} {sd sa : BitVec 6} {imm : BitVec 10} {legal : Bool} {i : Instr} {f : Word → Word → Word} {v : Word}
    (h : Reaches s p g [sd, sa] [sa]) (hi : exec i s = .next (opRI p g legal sd sa imm f s)) (hl : legal = true)
    (hv : f (rd (getStrand s p) sa) (sext imm) = v) : Writes s p i sd v := by
  subst hl hv
  rw [opRI, issue_reaches h] at hi
  exact ⟨_, hi, finish_completed s p _⟩

/-- A 16-bit immediate row that reaches its effect writes the value of its operation. -/
theorem writes_opRU {g : Guard} {sd : BitVec 6} {imm : BitVec 16} {reads : Bool} {i : Instr} {f : Word → BitVec 16 → Word} {v : Word}
    (h : Reaches s p g [sd] (if reads then [sd] else [])) (hi : exec i s = .next (opRU p g sd imm reads f s))
    (hv : f (rd (getStrand s p) sd) imm = v) : Writes s p i sd v := by
  subst hv
  rw [opRU, issue_reaches h] at hi
  exact ⟨_, hi, finish_completed s p _⟩

/-- A row that reaches its effect and goes on at a target leaves the strand there. -/
theorem leaves_of_finishTo {g : Guard} {regs reads : List (BitVec 6)} {body : State → State} {i : Instr} {target : Word} {f : Strand → Strand}
    (h : Reaches s p g regs reads) (hi : exec i s = .next (issue s p g true regs body reads)) (hb : body s = finishTo s p target f) :
    Leaves s p i (f (jump target (getStrand s p))) := by
  rw [issue_reaches h, hb] at hi
  exact ⟨_, hi, finishTo_completed s p target f⟩

/-- A row whose guard does not hold is passed by (R75). -/
theorem leaves_of_guard_false {g : Guard} {regs reads : List (BitVec 6)} {body : State → State} {i : Instr} (h : Fetches s p)
    (hg : guardOk (getStrand s p) g = false) (hi : exec i s = .next (issue s p g true regs body reads)) : Leaves s p i (advance (getStrand s p)) := by
  rw [issue_guard regs reads h hg] at hi
  exact ⟨_, hi, finish_completed s p id⟩

/-! ### An instruction that traps at issue (R103) -/

/-- A posted trap changes no strand. -/
@[simp] theorem getStrand_postStrand (s : State) (p q : Pos) (kind cause : Nat) (epc tval : Word) :
    getStrand (postStrand s p kind cause epc tval) q = getStrand s q := by
  obtain ⟨t, cs, n, f, ht, h⟩ := postStrand_only s p kind cause epc tval
  rw [h, ht]
  rfl

/-- What a trap or a freeze that is posted may change, apart from its strand: the compute side, memory, rings and groups, the slices, the recorder and the count of free values. -/
def TrapFrame (s t : State) : Prop :=
  t = { s with compute := t.compute, mem := t.mem, fab := { s.fab with rings := t.fab.rings, groups := t.fab.groups }, ctl := t.ctl, fleet := t.fleet, freeCtr := t.freeCtr }

theorem postStrand_frame (s : State) (p : Pos) (kind cause : Nat) (epc tval : Word) : TrapFrame s (postStrand s p kind cause epc tval) := by
  obtain ⟨t, cs, n, f, ht, h⟩ := postStrand_only s p kind cause epc tval
  rw [h, ht]
  rfl

theorem TrapFrame.trans {t u : State} (h : TrapFrame s t) (h' : TrapFrame t u) : TrapFrame s u := by
  unfold TrapFrame at *
  rw [h'] at *
  rw [h]

/-- A trap with a given TVAL is one with some TVAL. -/
theorem Trapped.forget {t : State} {cause : Nat} {v : Word} (h : Trapped s t p cause (some v)) : Trapped s t p cause none where
  handled hen hout := by
    obtain ⟨⟨w, _, hw⟩, hframe⟩ := h.handled hen hout
    exact ⟨⟨w, nofun, hw⟩, hframe⟩
  unhandled hen hout := by
    obtain ⟨w, _, hw⟩ := h.unhandled hen hout
    exact ⟨w, nofun, hw⟩
  double := h.double
  others := h.others
  rest := h.rest

/-- Taking a free value changes no strand. -/
@[simp] theorem getStrand_takeFree (s : State) (q : Pos) : getStrand (takeFree s).2 q = getStrand s q := rfl

/-- A trap that is not handled records its cause, stops the strand and is posted (R103). -/
def postTrapped (s : State) (p : Pos) (code : Nat) (epc tval : Word) : State :=
  postStrand (modStrand s p (fun st => { recordCause st code false epc tval with st := .trapped, wait := .nothing, deadline := none })) p 0x01 code epc tval

theorem takeTrap_handled {s : State} {p : Pos} (hen : (getStrand s p).tvec.getLsbD 0 = true) (hout : (getStrand s p).inHandler = false) (cause : Nat) (epc tval : Word) :
    takeTrap s p cause false epc tval = modStrand (barrierLeave s p) p (fun st =>
      { recordCause st cause false epc tval with inHandler := true, pc := st.tvec &&& ~~~ 3#64, st := .ready, wait := .nothing, deadline := none }) := by
  simp [takeTrap, handles, hen, hout]

theorem takeTrap_unhandled {s : State} {p : Pos} (hen : (getStrand s p).tvec.getLsbD 0 = false) (hout : (getStrand s p).inHandler = false) (cause : Nat) (epc tval : Word) :
    takeTrap s p cause false epc tval = postTrapped (barrierLeave s p) p cause epc tval := by
  have hh : handles (getStrand s p) = false := by rw [handles, hen, Bool.false_and]
  simp [takeTrap, hh, hout, postTrapped]

/-- A trap inside a handler is a double trap, with a free TVAL. -/
theorem takeTrap_double {s : State} {p : Pos} (hin : (getStrand s p).inHandler = true) (cause : Nat) (epc tval : Word) :
    takeTrap s p cause false epc tval = postTrapped (takeFree (barrierLeave s p)).2 p cDouble epc (takeFree (barrierLeave s p)).1 := by
  simp [takeTrap, handles, hin, postTrapped]

theorem getStrand_postTrapped (s : State) (p : Pos) (code : Nat) (epc tval : Word) :
    getStrand (postTrapped s p code epc tval) p = { recordCause (getStrand s p) code false epc tval with st := .trapped, wait := .nothing, deadline := none } := by
  simp [postTrapped]

theorem getStrand_postTrapped_ne {p q : Pos} (h : q ≠ p) (s : State) (code : Nat) (epc tval : Word) :
    getStrand (postTrapped s p code epc tval) q = getStrand s q := by
  simp [postTrapped, getStrand_modStrand_ne _ _ h]

theorem postTrapped_frame (s : State) (p : Pos) (code : Nat) (epc tval : Word) : TrapFrame s (postTrapped s p code epc tval) :=
  TrapFrame.trans (t := modStrand s p _) rfl (postStrand_frame _ _ _ _ _ _)

/-- The state in which a trap at issue is taken: the strand's passed breakpoints are forgotten, and free values may have been taken. -/
def atTrap (s : State) (p : Pos) (n : Nat) : State := modStrand { s with freeCtr := n } p (fun st => { st with skipBkpt := [] })

theorem getStrand_atTrap (s : State) (p : Pos) (n : Nat) : getStrand (atTrap s p n) p = { getStrand s p with skipBkpt := [] } :=
  getStrand_modStrand _ _ _

theorem getStrand_atTrap_ne {p q : Pos} (h : q ≠ p) (s : State) (n : Nat) : getStrand (atTrap s p n) q = getStrand s q :=
  getStrand_modStrand_ne _ _ h

/-- The entry of a cause at issue, one clause for each way of R103. -/
theorem takeTrap_trapped (s : State) (p : Pos) (cause n : Nat) (tval : Word) :
    Trapped s (takeTrap (atTrap s p n) p cause false (getStrand s p).pc tval) p cause (some tval) := by
  have hst := getStrand_atTrap s p n
  cases hin : (getStrand s p).inHandler with
  | true =>
    rw [takeTrap_double (by rw [hst]; exact hin)]
    exact {
      handled := fun _ hout => nomatch hin.symm.trans hout
      unhandled := fun _ hout => nomatch hin.symm.trans hout
      double := fun _ => ⟨_, by rw [getStrand_postTrapped, getStrand_takeFree, getStrand_barrierLeave, hst]; rfl⟩
      others := fun q hq => (getStrand_postTrapped_ne hq _ _ _ _).trans (getStrand_atTrap_ne hq s n)
      rest := TrapFrame.trans (t := (takeFree (barrierLeave (atTrap s p n) p)).2) rfl (postTrapped_frame _ _ _ _ _) }
  | false =>
    cases hen : (getStrand s p).tvec.getLsbD 0 with
    | true =>
      rw [takeTrap_handled (by rw [hst]; exact hen) (by rw [hst]; exact hin)]
      exact {
        handled := fun _ _ => ⟨⟨tval, fun w hw => Option.some.inj hw, by rw [getStrand_modStrand, getStrand_barrierLeave, hst]; rfl⟩, rfl⟩
        unhandled := fun hen' => nomatch hen.symm.trans hen'
        double := fun hin' => nomatch hin.symm.trans hin'
        others := fun q hq => (getStrand_modStrand_ne _ _ hq).trans (getStrand_atTrap_ne hq s n)
        rest := rfl }
    | false =>
      rw [takeTrap_unhandled (by rw [hst]; exact hen) (by rw [hst]; exact hin)]
      exact {
        handled := fun hen' => nomatch hen.symm.trans hen'
        unhandled := fun _ _ => ⟨tval, fun w hw => Option.some.inj hw, by rw [getStrand_postTrapped, getStrand_barrierLeave, hst]; rfl⟩
        double := fun hin' => nomatch hin.symm.trans hin'
        others := fun q hq => (getStrand_postTrapped_ne hq _ _ _ _).trans (getStrand_atTrap_ne hq s n)
        rest := TrapFrame.trans (t := barrierLeave (atTrap s p n) p) rfl (postTrapped_frame _ _ _ _ _) }

/-- A trap at issue with an address: TVAL takes it. -/
theorem trapAt_trapped (s : State) (p : Pos) (cause : Nat) (tval : Word) : Trapped s (trapAt s p cause tval) p cause (some tval) :=
  takeTrap_trapped s p cause s.freeCtr tval

/-- A trap at issue with no address: TVAL is free (log entry 13). -/
theorem trapFree_trapped (s : State) (p : Pos) (cause : Nat) : Trapped s (trapFree s p cause) p cause none :=
  (takeTrap_trapped s p cause (s.freeCtr + 1) _).forget

/-- A row that reaches its effect and traps there with an address. -/
theorem traps_of_trapAt {g : Guard} {regs reads : List (BitVec 6)} {body : State → State} {i : Instr} {cause : Nat} {tval : Word} (h : Reaches s p g regs reads)
    (hi : exec i s = .next (issue s p g true regs body reads)) (hb : body s = trapAt s p cause tval) : Traps s p i cause (some tval) := by
  rw [issue_reaches h, hb] at hi
  exact ⟨_, hi, trapAt_trapped s p cause tval⟩

/-- A row whose encoding is not legal traps with ILLEGAL_OP. -/
theorem traps_of_illegal {g : Guard} {legal : Bool} {regs reads : List (BitVec 6)} {body : State → State} {i : Instr} (h : Fetches s p)
    (hl : legal = false) (hi : exec i s = .next (issue s p g legal regs body reads)) : Traps s p i 0x01 none := by
  subst hl
  rw [issue_illegal g regs reads h] at hi
  exact ⟨_, hi, trapFree_trapped s p cIllegal⟩

end

end Sys2Proof.Machine

/-! ## The integer operations in numbers (R78, R79)

Each operation of the model's words as arithmetic on the signed or unsigned values of its operands. -/

namespace Sys2Proof.Machine

/-! ### Shifts, minima and maxima -/

theorem sllW_eq_mul (a b : Word) : sllW a b = BitVec.ofNat 64 (a.toNat * 2 ^ (b.toNat % 64)) := by
  apply BitVec.eq_of_toNat_eq
  simp [sllW, shAmt, Nat.shiftLeft_eq]

theorem srlW_eq_div (a b : Word) : srlW a b = BitVec.ofNat 64 (a.toNat / 2 ^ (b.toNat % 64)) := by
  apply BitVec.eq_of_toNat_eq
  have hlt : a.toNat / 2 ^ (b.toNat % 64) < 2 ^ 64 := (Nat.div_le_self _ _).trans_lt a.isLt
  rw [srlW, shAmt, BitVec.toNat_ushiftRight, Nat.shiftRight_eq_div_pow, BitVec.toNat_ofNat, Nat.mod_eq_of_lt hlt]

/-- The arithmetic shift is the quotient rounded down. -/
theorem sraW_eq_div (a b : Word) : sraW a b = BitVec.ofInt 64 (a.toInt / 2 ^ (b.toNat % 64)) := by
  rw [← BitVec.ofInt_toInt (x := sraW a b), sraW, shAmt, BitVec.toInt_sshiftRight, Int.shiftRight_eq_div_pow]
  norm_cast

theorem minW_eq_min (a b : Word) : minW a b = BitVec.ofInt 64 (min a.toInt b.toInt) := by
  by_cases h : a.toInt < b.toInt
  · rw [minW, BitVec.slt_iff_toInt_lt.mpr h, if_pos rfl, min_eq_left h.le, BitVec.ofInt_toInt]
  · rw [minW, if_neg (fun hs => h (BitVec.slt_iff_toInt_lt.mp hs)), min_eq_right (not_lt.mp h), BitVec.ofInt_toInt]

theorem maxW_eq_max (a b : Word) : maxW a b = BitVec.ofInt 64 (max a.toInt b.toInt) := by
  by_cases h : a.toInt < b.toInt
  · rw [maxW, BitVec.slt_iff_toInt_lt.mpr h, if_pos rfl, max_eq_right h.le, BitVec.ofInt_toInt]
  · rw [maxW, if_neg (fun hs => h (BitVec.slt_iff_toInt_lt.mp hs)), max_eq_left (not_lt.mp h), BitVec.ofInt_toInt]

theorem minuW_eq_min (a b : Word) : minuW a b = BitVec.ofNat 64 (min a.toNat b.toNat) := by
  by_cases h : a.toNat < b.toNat
  · rw [minuW, BitVec.ult_iff_toNat_lt.mpr h, if_pos rfl, min_eq_left h.le, BitVec.ofNat_toNat, BitVec.setWidth_eq]
  · rw [minuW, if_neg (fun hs => h (BitVec.ult_iff_toNat_lt.mp hs)), min_eq_right (not_lt.mp h), BitVec.ofNat_toNat, BitVec.setWidth_eq]

theorem maxuW_eq_max (a b : Word) : maxuW a b = BitVec.ofNat 64 (max a.toNat b.toNat) := by
  by_cases h : a.toNat < b.toNat
  · rw [maxuW, BitVec.ult_iff_toNat_lt.mpr h, if_pos rfl, max_eq_right h.le, BitVec.ofNat_toNat, BitVec.setWidth_eq]
  · rw [maxuW, if_neg (fun hs => h (BitVec.ult_iff_toNat_lt.mp hs)), max_eq_left (not_lt.mp h), BitVec.ofNat_toNat, BitVec.setWidth_eq]

/-! ### Counts of bits -/

/-- CLZ counts the zeros above the highest set bit, 64 of zero. -/
theorem clzN_spec (a : Word) : ∃ n : Nat, n ≤ 64 ∧ a.toNat < 2 ^ (64 - n) ∧ (n < 64 → 2 ^ (63 - n) ≤ a.toNat) ∧ clzN a = BitVec.ofNat 64 n := by
  by_cases h : a = 0
  · exact ⟨64, le_rfl, by simp [h], fun hlt => absurd hlt (lt_irrefl 64), if_pos h⟩
  · have hne : a.toNat ≠ 0 := fun h0 => h (BitVec.eq_of_toNat_eq h0)
    have hlog : a.toNat.log2 < 64 := (Nat.log2_lt hne).mpr a.isLt
    refine ⟨63 - a.toNat.log2, by omega, ?_, fun _ => ?_, by rw [clzN, if_neg h]⟩
    · rw [show 64 - (63 - a.toNat.log2) = a.toNat.log2 + 1 by omega]
      exact Nat.lt_log2_self
    · rw [show 63 - (63 - a.toNat.log2) = a.toNat.log2 by omega]
      exact Nat.log2_self_le hne

/-- CTZ counts the zeros below the lowest set bit, 64 of zero. -/
theorem ctzN_spec (a : Word) :
    ∃ n : Nat, n ≤ 64 ∧ (∀ i < n, a.getLsbD i = false) ∧ (n < 64 → a.getLsbD n = true) ∧ ctzN a = BitVec.ofNat 64 n := by
  cases hf : (List.range 64).find? (fun i => a.getLsbD i) with
  | none =>
    refine ⟨64, le_rfl, fun i hi => ?_, fun hlt => absurd hlt (lt_irrefl 64), by rw [ctzN, hf, Option.getD_none]⟩
    simpa using List.find?_eq_none.mp hf i (List.mem_range.mpr hi)
  | some n =>
    obtain ⟨hn, hlt, hbelow⟩ := List.find?_range_eq_some.mp hf
    have hn64 : n < 64 := List.mem_range.mp hlt
    exact ⟨n, hn64.le, fun i hi => by simpa using hbelow i hi, fun _ => hn, by rw [ctzN, hf, Option.getD_some]⟩

/-- POPC is the sum of the bits. -/
theorem popcN_eq_sum (a : Word) : popcN a = BitVec.ofNat 64 (∑ i ∈ Finset.range 64, if a.getLsbD i then 1 else 0) := by
  have hcount : ((List.range 64).filter (fun i => a.getLsbD i)).length = ∑ i ∈ Finset.range 64, if a.getLsbD i then 1 else 0 := by
    rw [← Finset.card_filter, ← List.toFinset_range, ← List.toFinset_filter, List.toFinset_card_of_nodup (List.nodup_range.filter _)]
  rw [popcN, hcount]

/-! ### Multiplication and division -/

theorem mul_eq_ofNat (a b : Word) : a * b = BitVec.ofNat 64 (a.toNat * b.toNat) := by
  apply BitVec.eq_of_toNat_eq
  simp

/-- The one quotient that does not fit wraps to the dividend. -/
theorem divW_overflow {a b : Word} (ha : a.toInt = -2 ^ 63) (hb : b.toInt = -1) : divW a b = BitVec.ofInt 64 (-2 ^ 63) := by
  have hb0 : b ≠ 0 := by
    rintro rfl
    exact absurd hb (by decide)
  rw [divW, if_neg hb0, ha, hb]
  decide

/-- Every other quotient by a divisor that is not zero fits, and is the truncated one. -/
theorem toInt_divW {a b : Word} (hb : b ≠ 0) (h : ¬(a.toInt = -2 ^ 63 ∧ b.toInt = -1)) : (divW a b).toInt = a.toInt.tdiv b.toInt := by
  have hne : a ≠ BitVec.intMin 64 ∨ b ≠ -1#64 := by
    by_contra hc
    obtain ⟨rfl, rfl⟩ : a = BitVec.intMin 64 ∧ b = -1#64 := by simpa using hc
    exact h (by decide)
  rw [divW, if_neg hb, ← BitVec.toInt_sdiv_of_ne_or_ne a b hne, BitVec.ofInt_toInt]

/-- A remainder by a divisor that is not zero is the truncated one, with the sign of the dividend. -/
theorem toInt_remW {a b : Word} (hb : b ≠ 0) : (remW a b).toInt = a.toInt.tmod b.toInt := by
  rw [remW, if_neg hb, ← BitVec.toInt_srem, BitVec.ofInt_toInt]

end Sys2Proof.Machine

/-! ## INT and MULDIV (R78, R79) -/

namespace Sys2Proof.Machine

/-- Settles O1: every INT row is `opRR` with its operation, and each operation has its value in numbers; CLZ, CTZ and POPC with an SB that is not 0 are not legal. -/
theorem integerResults : Obligations.IntegerResults := by
  unfold Obligations.IntegerResults
  intro s p g sd sa sb h a b
  refine ⟨writes_opRR h rfl rfl, writes_opRR h rfl rfl, writes_opRR h rfl rfl, writes_opRR h rfl rfl, writes_opRR h rfl rfl, writes_opRR h rfl rfl,
    writes_opRR h rfl (sllW_eq_mul a b), writes_opRR h rfl (srlW_eq_div a b), writes_opRR h rfl (sraW_eq_div a b),
    writes_opRR h rfl (minW_eq_min a b), writes_opRR h rfl (maxW_eq_max a b), writes_opRR h rfl (minuW_eq_min a b), writes_opRR h rfl (maxuW_eq_max a b),
    ?clz, ?ctz, ?popc, ?reserved⟩
  case clz =>
    rintro rfl
    obtain ⟨n, hn, hbelow, hset, hv⟩ := clzN_spec a
    exact ⟨n, hn, hbelow, hset, writes_opRR h rfl hv⟩
  case ctz =>
    rintro rfl
    obtain ⟨n, hn, hbelow, hset, hv⟩ := ctzN_spec a
    exact ⟨n, hn, hbelow, hset, writes_opRR h rfl hv⟩
  case popc =>
    rintro rfl
    exact writes_opRR h rfl (popcN_eq_sum a)
  case reserved =>
    intro hsb
    have hillegal : (sb == 0) = false := beq_false_of_ne hsb
    exact ⟨traps_of_illegal h.fetches hillegal rfl, traps_of_illegal h.fetches hillegal rfl, traps_of_illegal h.fetches hillegal rfl⟩

/-- Settles O2: every MULDIV row is `opRR` with its operation, whose corners are its value at a divisor of zero and at the one quotient that does not fit. -/
theorem mulDivResults : Obligations.MulDivResults := by
  unfold Obligations.MulDivResults
  intro s p g sd sa sb h a b
  exact ⟨writes_opRR h rfl (mul_eq_ofNat a b), writes_opRR h rfl rfl, writes_opRR h rfl rfl,
    fun hb => writes_opRR h rfl (if_pos hb),
    fun ha hb => writes_opRR h rfl (divW_overflow ha hb),
    fun hb => ⟨divW a b, writes_opRR h rfl rfl, toInt_divW hb⟩,
    fun hb => writes_opRR h rfl (if_pos hb),
    fun hb => writes_opRR h rfl (if_neg hb),
    fun hb => writes_opRR h rfl (if_pos hb),
    fun hb => ⟨remW a b, writes_opRR h rfl rfl, toInt_remW hb⟩,
    fun hb => writes_opRR h rfl (if_pos hb),
    fun hb => writes_opRR h rfl (if_neg hb)⟩

end Sys2Proof.Machine

/-! ## Immediates and inserts (R80, R81) -/

namespace Sys2Proof.Machine

/-! ### The fields of SHI's immediate -/

/-- IMM10[9:8] is the quarter of the immediate's range. -/
theorem toNat_imm_select (imm : BitVec 10) : (imm.extractLsb' 8 2).toNat = imm.toNat / 256 := by
  have := imm.isLt
  simp [BitVec.extractLsb', Nat.shiftRight_eq_div_pow]
  omega

/-- IMM10[7:6] are the two bits below. -/
theorem toNat_imm_reserved (imm : BitVec 10) : (imm.extractLsb' 6 2).toNat = imm.toNat / 64 % 4 := by
  simp [BitVec.extractLsb', Nat.shiftRight_eq_div_pow]

/-- The encodings of SHI that are not reserved. -/
theorem shiLegal_iff (imm : BitVec 10) : shiLegal imm = true ↔ imm.toNat / 256 ≠ 3 ∧ imm.toNat / 64 % 4 = 0 := by
  rw [shiLegal, Bool.and_eq_true, decide_eq_true_eq, decide_eq_true_eq, ne_eq, ← BitVec.toNat_inj, ← BitVec.toNat_inj, toNat_imm_select, toNat_imm_reserved]
  rfl

/-- SHI's amount, as the operand its shift takes. -/
theorem toNat_shi_amount (imm : BitVec 10) : (BitVec.ofNat 64 (imm.toNat % 64)).toNat % 64 = imm.toNat % 64 := by
  rw [BitVec.toNat_ofNat]
  omega

theorem shiW_left {imm : BitVec 10} (h : imm.toNat / 64 = 0) (a : Word) : shiW imm a = BitVec.ofNat 64 (a.toNat * 2 ^ (imm.toNat % 64)) := by
  have hsel : imm.extractLsb' 8 2 = 0 := BitVec.eq_of_toNat_eq (by rw [toNat_imm_select]; change _ = 0; omega)
  rw [shiW, if_pos hsel, sllW_eq_mul, toNat_shi_amount]

theorem shiW_right {imm : BitVec 10} (h : imm.toNat / 64 = 4) (a : Word) : shiW imm a = BitVec.ofNat 64 (a.toNat / 2 ^ (imm.toNat % 64)) := by
  have hsel : imm.extractLsb' 8 2 = 1 := BitVec.eq_of_toNat_eq (by rw [toNat_imm_select]; change _ = 1; omega)
  rw [shiW, hsel, if_neg (by decide), if_pos rfl, srlW_eq_div, toNat_shi_amount]

theorem shiW_arith {imm : BitVec 10} (h : imm.toNat / 64 = 8) (a : Word) : shiW imm a = BitVec.ofInt 64 (a.toInt / 2 ^ (imm.toNat % 64)) := by
  have hsel : imm.extractLsb' 8 2 = 2 := BitVec.eq_of_toNat_eq (by rw [toNat_imm_select]; change _ = 2; omega)
  rw [shiW, hsel, if_neg (by decide), if_neg (by decide), sraW_eq_div, toNat_shi_amount]

/-- An insert replaces the 16 bits from its position upward and leaves the others. -/
theorem getLsbD_insW (lo : Nat) (w : Word) (imm : BitVec 16) {i : Nat} (hi : i < 64) :
    (insW lo w imm).getLsbD i = if lo ≤ i ∧ i < lo + 16 then imm.getLsbD (i - lo) else w.getLsbD i := by
  have hmask : (0xFFFF#64).getLsbD (i - lo) = decide (i - lo < 16) := by
    rw [show (0xFFFF#64) = (BitVec.allOnes 16).setWidth 64 by decide, BitVec.getLsbD_setWidth, BitVec.getLsbD_allOnes]
    simp [show i - lo < 64 by omega]
  simp only [insW, BitVec.getLsbD_or, BitVec.getLsbD_and, BitVec.getLsbD_not, BitVec.getLsbD_shiftLeft, BitVec.getLsbD_setWidth, hmask]
  by_cases hlo : i < lo
  · simp [hi, hlo]
  · by_cases h16 : i - lo < 16
    · simp [hi, hlo, h16, show i - lo < 64 by omega, show lo ≤ i ∧ i < lo + 16 by omega]
    · simp [hi, hlo, h16, BitVec.getLsbD_of_ge imm (i - lo) (by omega), show ¬(lo ≤ i ∧ i < lo + 16) by omega]

/-- Settles O4: the rows are `opRI` and `opRU` with their operation; SHI by the fields of its immediate, the inserts bit by bit. -/
theorem immediateResults : Obligations.ImmediateResults := by
  unfold Obligations.ImmediateResults
  intro s p g sd sa imm i16 a old k replaced
  refine ⟨fun h => ⟨writes_opRI h rfl rfl rfl, writes_opRI h rfl rfl rfl, writes_opRI h rfl rfl rfl, writes_opRI h rfl rfl rfl, ?left, ?right, ?arith, ?reserved⟩,
    fun h => writes_opRU h rfl rfl, fun h => ⟨?ins16, ?ins32, ?ins48⟩⟩
  case left => exact fun himm => writes_opRI h rfl ((shiLegal_iff imm).mpr (by omega)) (shiW_left himm a)
  case right => exact fun himm => writes_opRI h rfl ((shiLegal_iff imm).mpr (by omega)) (shiW_right himm a)
  case arith => exact fun himm => writes_opRI h rfl ((shiLegal_iff imm).mpr (by omega)) (shiW_arith himm a)
  case reserved =>
    intro himm
    have hillegal : shiLegal imm = false := Bool.eq_false_iff.mpr (fun hl => by have := (shiLegal_iff imm).mp hl; omega)
    exact traps_of_illegal h.fetches hillegal rfl
  case ins16 => exact ⟨insW 16 old i16, fun i hi => getLsbD_insW 16 old i16 hi, writes_opRU h rfl rfl⟩
  case ins32 => exact ⟨insW 32 old i16, fun i hi => getLsbD_insW 32 old i16 hi, writes_opRU h rfl rfl⟩
  case ins48 => exact ⟨insW 48 old i16, fun i hi => getLsbD_insW 48 old i16 hi, writes_opRU h rfl rfl⟩

end Sys2Proof.Machine

/-! ## Branches (R84) -/

namespace Sys2Proof.Machine

/-- The displacement counts words from the branch itself. -/
theorem branchTarget_eq (pc : Word) (disp : BitVec 22) : branchTarget pc disp = BitVec.ofInt 64 ((pc.toNat : Int) + 4 * disp.toInt) := by
  have hsext : sext disp = BitVec.ofInt 64 disp.toInt := by
    rw [sext, BitVec.signExtend]
  rw [branchTarget, hsext, BitVec.ofInt_add, BitVec.ofInt_mul, BitVec.ofInt_natCast, BitVec.ofNat_toNat, BitVec.setWidth_eq, BitVec.mul_comm]
  rfl

/-- Settles O5: BR, CALL and JR go on at their target; JR to a target that is not a multiple of 4 traps before it writes. -/
theorem branchResults : Obligations.BranchResults := by
  unfold Obligations.BranchResults
  intro s p g disp sd sa st target
  have htarget : branchTarget st.pc disp = target := branchTarget_eq st.pc disp
  refine ⟨fun h => ?br, fun h => ?call, fun h hal => ?jr, fun h hal => ?jrTrap, fun h hg => ?passed⟩
  case br =>
    rw [← htarget]
    exact leaves_of_finishTo (f := id) h rfl rfl
  case call =>
    rw [← htarget]
    exact leaves_of_finishTo (f := fun st' => wr st' 63 (st.pc + 4)) h rfl rfl
  case jr => exact leaves_of_finishTo (f := fun st' => wr st' sd (st.pc + 4)) h rfl (if_neg (not_not.mpr hal))
  case jrTrap => exact traps_of_trapAt h rfl (if_pos hal)
  case passed => exact ⟨leaves_of_guard_false h hg rfl, leaves_of_guard_false h hg rfl, leaves_of_guard_false h hg rfl⟩

end Sys2Proof.Machine

/-! ## System registers (R70 to R72, R102, R253) -/

namespace Sys2Proof.Machine

/-! ### The words that registers read as -/

/-- STRAND_ID fits its word: the node above the 15 bits of the strand's position (R71). -/
theorem toNat_strandIdWord (s : State) (p : Pos) :
    (strandIdWord s p).toNat = (nodeOf s p.die.val).toNat * 2 ^ 32 + p.die.val * 2 ^ 13 + p.cluster.val * 2 ^ 9 + p.core.val * 2 ^ 5 + p.strand.val := by
  have hnode := (nodeOf s p.die.val).isLt
  rw [strandIdWord, strandIdLow, BitVec.toNat_ofNat]
  omega

/-- SLICE_ID fits its word. -/
theorem toNat_sliceIdWord (s : State) (p : Pos) : (sliceIdWord s p).toNat = (strandSliceId s p).toNat + (if isExact s p then 2 ^ 16 else 0) := by
  have hid := (strandSliceId s p).isLt
  rw [sliceIdWord, BitVec.toNat_ofNat]
  split <;> omega

/-- CAUSE fits its word (R72). -/
theorem toNat_causeWord (st : Strand) : (causeWord st).toNat = st.code.toNat + (if st.async then 2 ^ 8 else 0) + (if st.inHandler then 2 ^ 9 else 0) := by
  have hcode := st.code.isLt
  rw [causeWord, BitVec.toNat_ofNat]
  split <;> split <;> omega

/-- OUTSTANDING, within the limits of its two fields. -/
theorem outstandingWord_eq {st : Strand} (ht : st.tmmas < 256) (hl : st.loads < 32) : outstandingWord st = BitVec.ofNat 64 (st.tmmas * 2 ^ 8 + st.loads) := by
  rw [outstandingWord, putN, putN, Nat.mod_eq_of_lt (b := 2 ^ 8) ht, Nat.mod_eq_of_lt (b := 2 ^ 5) hl, Nat.shiftLeft_eq, Nat.shiftLeft_zero]

/-- EPC holds bits [63:2]: clearing the low two bits rounds down to a multiple of 4. -/
theorem toNat_clear_low_two (v : Word) : (v &&& ~~~ 3#64).toNat = v.toNat / 4 * 4 := by
  have hmask : ∀ i : Fin 64, (~~~ 3#64).getLsbD i.val = decide (2 ≤ i.val) := by decide
  have hshift : v &&& ~~~ 3#64 = (v >>> 2) <<< 2 := by
    refine BitVec.eq_of_getLsbD_eq fun i hi => ?_
    rw [BitVec.getLsbD_and, hmask ⟨i, hi⟩, BitVec.getLsbD_shiftLeft, BitVec.getLsbD_ushiftRight]
    by_cases hlow : i < 2
    · simp [hlow]
    · simp [hi, hlow, show 2 + (i - 2) = i by omega, not_lt.mp hlow]
  have hv := v.isLt
  rw [hshift, BitVec.toNat_shiftLeft, BitVec.toNat_ushiftRight, Nat.shiftLeft_eq, Nat.shiftRight_eq_div_pow]
  omega

/-- TVEC takes every bit of a write but the reserved bit 1. -/
theorem getLsbD_clear_bit_one (v : Word) {i : Nat} (hi : i < 64) : (v &&& ~~~ 2#64).getLsbD i = (v.getLsbD i && i ≠ 1) := by
  have hmask : ∀ i : Fin 64, (~~~ 2#64).getLsbD i.val = decide (i.val ≠ 1) := by decide
  rw [BitVec.getLsbD_and, hmask ⟨i, hi⟩]

/-- The four key registers have the numbers 8 to 11 (R70). -/
theorem key_number (k : Fin 4) :
    (BitVec.ofNat 10 (8 + k.val)).toNat = 8 + k.val ∧ srReadable (8 + k.val) = true ∧ srWritable (8 + k.val) = true ∧
    BitVec.ofNat 10 (8 + k.val) ≠ 2 ∧ BitVec.ofNat 10 (8 + k.val) ≠ 3 := by
  revert k
  decide

theorem srRead_key (s : State) (p : Pos) (k : Fin 4) (lag : Word) : srRead s p (8 + k.val) lag = rdKey (getStrand s p) (BitVec.ofFin k) := by
  fin_cases k <;> rfl

theorem srWrite_key (k : Fin 4) (v : Word) (st : Strand) : srWrite (8 + k.val) v st = { st with keys := Tab.set st.keys k.val v } := by
  fin_cases k <;> rfl

/-- A key register reads what was written to it, and the others what they held. -/
theorem rdKey_set (st : Strand) (k : Nat) (v : Word) (j : BitVec 2) :
    rdKey { st with keys := Tab.set st.keys k v } j = if j.toNat = k then v else rdKey st j := by
  by_cases h : j.toNat = k
  · rw [if_pos h, rdKey, h]
    exact Tab.getD_set_self _ _ _ _
  · rw [if_neg h]
    exact Tab.getD_set_ne _ _ _ (Ne.symm h)

/-! ### CYCLE and FTIME -/

/-- A core's count rises when it is brought up to date (log entry 12). -/
theorem cycle_le_touchCycle (s : State) (c : CorePos) : (getCore s c).cycle ≤ (getCore (touchCycle s c) c).cycle := by
  unfold touchCycle
  dsimp only
  split
  · exact le_rfl
  · rw [getCore_modCore]
    exact Nat.le_add_right _ _

/-- Bringing a core's count up to date changes no strand. -/
@[simp] theorem getStrand_touchCycle (s : State) (c : CorePos) (q : Pos) : getStrand (touchCycle s c) q = getStrand s q := by
  obtain ⟨cs, n, h⟩ := touchCycle_only s c
  rw [h]
  rfl

/-- A completed instruction leaves its core's count. -/
theorem cycle_finish (s : State) (p : Pos) (f : Strand → Strand) : (getCore (finish s p f) (coreOf p)).cycle = (getCore s (coreOf p)).cycle := by
  obtain ⟨rr, ps, ic, cs, h⟩ := (finish_completed s p f).core
  rw [h]

theorem cycleWord_finish (s : State) (p : Pos) (f : Strand → Strand) :
    cycleWord (getCore (finish s p f) (coreOf p)) = cycleWord (getCore s (coreOf p)) := by
  rw [cycleWord, cycle_finish, cycleWord]

/-- Every lag of FTIME is less than one arithmetic cycle of the die (R253). -/
theorem ftime_lag_lt (s : State) (d lag : Nat) : lag % ftimeLags s d * dieFreq s d < 4000 := by
  have hpos : 0 < ftimeLags s d := lt_of_lt_of_le one_pos (le_max_left _ _)
  have hlag := Nat.mod_lt lag hpos
  rcases Nat.eq_zero_or_pos (dieFreq s d) with hf | hf
  · rw [hf]; norm_num
  · have hlags : ftimeLags s d * dieFreq s d ≤ 3999 + dieFreq s d := by
      rw [ftimeLags, max_eq_right (a := 1) (b := dieFreq s d) hf]
      rcases max_choice 1 ((4000 + dieFreq s d - 1) / dieFreq s d) with h1 | h1
      · rw [h1]; omega
      · rw [h1]; exact (Nat.div_mul_le_self _ _).trans (by omega)
    have hstep : (lag % ftimeLags s d + 1) * dieFreq s d ≤ ftimeLags s d * dieFreq s d := Nat.mul_le_mul_right _ hlag
    rw [Nat.succ_mul] at hstep
    omega

/-! ### RSR and WSR -/

section

variable {s : State} {p : Pos} {g : Guard}

/-- RSR of a register that is neither CYCLE nor FTIME writes what the register reads as. -/
theorem writes_rsr {sd : BitVec 6} {imm : BitVec 10} {v : Word} (h : Reaches s p g [sd] []) (hr : srReadable imm.toNat = true) (h2 : imm ≠ 2) (h3 : imm ≠ 3)
    (hv : srRead s p imm.toNat (takeFree s).1 = v) : Writes s p (.rsr p g sd imm) sd v := by
  have hi : exec (.rsr p g sd imm) s = .next (finish s p (fun st => wr st sd v)) := by
    change execRsr p g sd imm s = _
    rw [execRsr, hr, issue_reaches h]
    simp only [if_neg h2, if_neg h3, hv]
  exact ⟨_, hi, finish_completed s p _⟩

/-- RSR of CYCLE brings the core's count up to date and writes it. -/
theorem exec_rsr_cycle {sd : BitVec 6} (h : Reaches s p g [sd] []) :
    exec (.rsr p g sd 2) s = .next (finish (touchCycle s (coreOf p)) p (fun st => wr st sd (cycleWord (getCore (touchCycle s (coreOf p)) (coreOf p))))) := by
  change execRsr p g sd 2 s = _
  rw [execRsr, show srReadable (2 : BitVec 10).toNat = true by decide, issue_reaches h]
  rfl

/-- Fabric time less the lag that FTIME shows: the lag is a free value (log entry 17). -/
def ftimeRead (s : State) (p : Pos) : Nat := s.tb.time - (takeFree s).1.toNat % ftimeLags s p.die.val

/-- RSR of FTIME lets fabric time pass within its cycle and writes it with its lag. -/
theorem exec_rsr_ftime {sd : BitVec 6} (h : Reaches s p g [sd] []) :
    exec (.rsr p g sd 3) s = .next (finish (takeFree (passTime s)).2 p (fun st => wr st sd (BitVec.ofNat 64 (ftimeRead (passTime s) p)))) := by
  change execRsr p g sd 3 s = _
  rw [execRsr, show srReadable (3 : BitVec 10).toNat = true by decide, issue_reaches h]
  rfl

theorem ftimeRead_le (s : State) (p : Pos) : ftimeRead s p ≤ s.tb.time := Nat.sub_le _ _

/-- FTIME lags fabric time by less than one arithmetic cycle of the strand's die (R253). -/
theorem ftimeRead_lag (s : State) (p : Pos) : (s.tb.time - ftimeRead s p) * dieFreq s p.die.val < 4000 := by
  have hlag : s.tb.time - ftimeRead s p ≤ (takeFree s).1.toNat % ftimeLags s p.die.val := by
    rw [ftimeRead]
    omega
  exact (Nat.mul_le_mul_right _ hlag).trans_lt (ftime_lag_lt s p.die.val _)

/-- WSR of a writable register has its effect on the strand and nothing else. -/
theorem leaves_wsr {sa : BitVec 6} {imm : BitVec 10} (h : Reaches s p g [sa] [sa]) (hw : srWritable imm.toNat = true) :
    Leaves s p (.wsr p g sa imm) (srWrite imm.toNat (rd (getStrand s p) sa) (advance (getStrand s p))) := by
  have hi : exec (.wsr p g sa imm) s = .next (finish s p (srWrite imm.toNat (rd (getStrand s p) sa))) := by
    change execWsr p g sa imm s = _
    rw [execWsr, hw, issue_reaches h]
  exact ⟨_, hi, finish_completed s p _⟩

end

/-- Settles O19: RSR register by register through `srRead`, with CYCLE and FTIME after their readout, and WSR through `srWrite`. -/
theorem systemRegisters : Obligations.SystemRegisters := by
  unfold Obligations.SystemRegisters
  intro s p g sd sa st v
  refine ⟨fun h => ⟨?strandId, ?sliceId, ?cycle, ?ftime, writes_rsr h rfl (by decide) (by decide) rfl, ?readKey, writes_rsr h rfl (by decide) (by decide) rfl,
      writes_rsr h rfl (by decide) (by decide) rfl, writes_rsr h rfl (by decide) (by decide) rfl, ?cause, writes_rsr h rfl (by decide) (by decide) rfl, ?outstanding⟩,
    fun h => ⟨leaves_wsr h rfl, ?writeKey, leaves_wsr h rfl, ?tvec, ?epc⟩⟩
  case strandId => exact ⟨strandIdWord s p, writes_rsr h rfl (by decide) (by decide) rfl, toNat_strandIdWord s p⟩
  case sliceId => exact ⟨sliceIdWord s p, writes_rsr h rfl (by decide) (by decide) rfl, toNat_sliceIdWord s p⟩
  case cycle =>
    refine ⟨_, exec_rsr_cycle h, ?_, ?_⟩
    · rw [(finish_completed _ p _).strand, getStrand_touchCycle, cycleWord_finish]
    · rw [cycle_finish]
      exact cycle_le_touchCycle s (coreOf p)
  case ftime =>
    exact ⟨_, ftimeRead (passTime s) p, exec_rsr_ftime h, (finish_completed _ p _).strand, ftimeRead_le (passTime s) p, ftimeRead_lag (passTime s) p⟩
  case readKey =>
    intro k
    obtain ⟨hnum, hread, _, h2, h3⟩ := key_number k
    exact writes_rsr h (by rw [hnum, hread]) h2 h3 (by rw [hnum, srRead_key])
  case cause => exact ⟨causeWord st, writes_rsr h rfl (by decide) (by decide) rfl, toNat_causeWord st⟩
  case outstanding => exact fun ht hl => writes_rsr h rfl (by decide) (by decide) (outstandingWord_eq ht hl)
  case writeKey =>
    intro k
    obtain ⟨hnum, _, hwrite, _, _⟩ := key_number k
    have hleaves := leaves_wsr h (imm := BitVec.ofNat 10 (8 + k.val)) (by rw [hnum, hwrite])
    rw [hnum, srWrite_key] at hleaves
    exact ⟨_, hleaves, rdKey_set (advance st) k.val v, rfl⟩
  case tvec => exact ⟨v &&& ~~~ 2#64, leaves_wsr h rfl, fun i hi => getLsbD_clear_bit_one v hi⟩
  case epc => exact ⟨v &&& ~~~ 3#64, leaves_wsr h rfl, toNat_clear_low_two v⟩

end Sys2Proof.Machine

/-! ## Commands of the host link: acceptance, interpretation and status packets (R362, R370 to R379)

What a command that is accepted and interpreted does, said once for every opcode: what acceptance changes, that the command's row runs on the accepted state, and what a status packet that goes out may change. -/

namespace Sys2Proof.Machine

/-! ### What acceptance changes (R377) -/

/-- What may differ after acceptance: the host link's counts, the channels, the operator's count and the slices. -/
def AcceptFrame (s t : State) : Prop :=
  t = { s with ctl := { s.ctl with hl := t.ctl.hl, channels := t.ctl.channels, trust := { s.ctl.trust with ocount := t.ctl.trust.ocount }, slices := t.ctl.slices } }

theorem AcceptFrame.trans {s t u : State} (h : AcceptFrame s t) (h' : AcceptFrame t u) : AcceptFrame s u := by
  unfold AcceptFrame at *
  rw [h'] at *
  rw [h]

theorem modSlice_acceptFrame (s : State) (k : Nat) (f : Slice → Slice) : AcceptFrame s (modSlice s k f) := by
  obtain ⟨sl, h⟩ := modSlice_only s k f
  rw [h]
  rfl

theorem accept_frame (s : State) (h : Hdr) (o : OpInfo) : AcceptFrame s (accept s h o) := by
  unfold accept countHost
  refine .trans ?_ (.trans (modSlice_acceptFrame _ _ _) rfl)
  cases h.isSigned <;> cases h.isSealed
  case false.false => rfl
  case true.false => rfl
  case false.true => exact .trans (t := modHl s _) rfl (modSlice_acceptFrame _ _ _)
  case true.true => refine .trans ?_ (modSlice_acceptFrame _ _ _); rfl

section

variable (s : State) (h : Hdr) (o : OpInfo)

theorem accept_only : ∃ hl ch oc sl,
    accept s h o = { s with ctl := { s.ctl with hl := hl, channels := ch, trust := { s.ctl.trust with ocount := oc }, slices := sl } } :=
  ⟨_, _, _, _, accept_frame s h o⟩

@[simp] theorem accept_tb : (accept s h o).tb = s.tb := by rw [accept_frame s h o]
@[simp] theorem accept_net : (accept s h o).net = s.net := by rw [accept_frame s h o]
@[simp] theorem accept_fab : (accept s h o).fab = s.fab := by rw [accept_frame s h o]
@[simp] theorem accept_rst : (accept s h o).rst = s.rst := by rw [accept_frame s h o]
@[simp] theorem accept_out : (accept s h o).out = s.out := by rw [accept_frame s h o]
@[simp] theorem accept_ctl_txns : (accept s h o).ctl.txns = s.ctl.txns := by rw [accept_frame s h o]
@[simp] theorem accept_ctl_memWaits : (accept s h o).ctl.memWaits = s.ctl.memWaits := by rw [accept_frame s h o]
@[simp] theorem accept_ctl_records : (accept s h o).ctl.records = s.ctl.records := by rw [accept_frame s h o]
@[simp] theorem accept_recovery : (accept s h o).ctl.trust.recovery = s.ctl.trust.recovery := by rw [accept_frame s h o]

@[simp] theorem getLink_accept (p : Nat) : getLink (accept s h o) p = getLink s p := by simp [getLink]

@[simp] theorem getLane_accept (i : Nat) : getLane (accept s h o) i = getLane s i := by simp [getLane, laneDefault]

/-- The command takes its tag on its channel. -/
theorem getChan_accept : getChan (accept s h o) h.channel.toNat = { getChan s h.channel.toNat with
    tags := (getChan s h.channel.toNat).tags ++ [{ tag := h.tag, opcode := o.code, slice := h.slice, version := h.version, reserve := o.reserve, rel := h.rel, isSealed := h.isSealed }] } := by
  unfold accept
  dsimp only
  rw [getChan_modChan]
  cases h.isSigned <;> cases h.isSealed <;> simp [getChan, countHost, modHl]

end

/-! ### Other entries of the host link's tables -/

theorem getLink_modLink_ne (s : State) {i j : Nat} (f : LinkPort → LinkPort) (h : i ≠ j) : getLink (modLink s i f) j = getLink s j :=
  Tab.getD_upd_ne _ _ _ _ h

theorem getChan_modChan_ne (s : State) {c d : Nat} (f : Channel → Channel) (h : c ≠ d) : getChan (modChan s c f) d = getChan s d :=
  Tab.getD_upd_ne _ _ _ _ h

theorem getSlice_modSlice_ne (s : State) {k j : Nat} (f : Slice → Slice) (h : k ≠ j) : getSlice (modSlice s k f) j = getSlice s j := by
  unfold modSlice
  split
  · exact Tab.find_set_ne _ _ h
  · rfl

/-- A change of a slice that neither opens nor closes its session leaves what the channels see of sessions. -/
theorem chanSession_modSlice (s : State) (k : Nat) {f : Slice → Slice} (hf : ∀ sl, (f sl).session.isSome = sl.session.isSome) (c : Nat) :
    chanSession (modSlice s k f) c = chanSession s c := by
  unfold chanSession
  by_cases hc : k = c
  · subst hc
    rw [getSlice_modSlice]
    cases getSlice s k with
    | none => rfl
    | some sl => exact hf sl
  · rw [getSlice_modSlice_ne _ _ hc]

/-- Acceptance opens and closes no session. -/
@[simp] theorem chanSession_accept (s : State) (h : Hdr) (o : OpInfo) (c : Nat) : chanSession (accept s h o) c = chanSession s c := by
  unfold accept countHost
  refine (chanSession_modSlice _ _ (fun sl => ?_) c).trans ?_
  · rfl
  · cases h.isSealed with
    | false => cases h.isSigned <;> rfl
    | true =>
      refine (chanSession_modSlice _ _ (fun sl => Option.isSome_map) c).trans ?_
      cases h.isSigned <;> rfl

/-- Acceptance binds and unbinds no channel. -/
@[simp] theorem boundSlice_accept (s : State) (h : Hdr) (o : OpInfo) (c : Nat) : boundSlice (accept s h o) c = boundSlice s c := by
  unfold boundSlice
  by_cases hc : h.channel.toNat = c
  · rw [← hc, getChan_accept]
  · unfold accept
    dsimp only
    rw [getChan_modChan_ne _ _ hc]
    cases h.isSigned <;> cases h.isSealed <;> simp [getChan, countHost, modHl]

/-- A tag other than the command's own is what it was before acceptance. -/
theorem findTag_accept (s : State) {h : Hdr} (o : OpInfo) {tag : BitVec 16} (hne : tag ≠ h.tag) :
    findTag (accept s h o) h.channel.toNat tag = findTag s h.channel.toNat tag := by
  unfold findTag
  rw [getChan_accept, List.find?_append]
  simp [hne.symm]

/-! ### Interpretation (R378, R379) -/

section

variable {s t : State} {h : Hdr} {o : OpInfo} {run : State → State × Reply}

theorem unitBusy_accept (code : BitVec 16) : unitBusy (accept s h o) code = unitBusy s code := by simp [unitBusy]

/-- An opcode that neither the memory engine nor trust firmware executes is the steward's (R378). -/
theorem unitBusy_steward (s : State) {code : BitVec 16} (hmem : (isMemOp code || code = 0x5000) = false) (htrust : isTrustOp code = false) :
    unitBusy s code = s.rst.busy.any (fun b => b.1 = 5) := by
  rw [unitBusy, hmem, htrust, if_neg Bool.false_ne_true, if_neg Bool.false_ne_true]

/-- What a command leaves by what its row answers: its tag at a terminal status, or still open. -/
def settled (h : Hdr) (r : State × Reply) : State :=
  match r.2 with
  | .done st bytes => finishTag r.1 h.channel.toNat h.tag st bytes
  | .pend => r.1

/-- A granted command runs its row on the accepted state. -/
theorem command_granted (hg : Granted s h o) : command s h o run = settled h (run (accept s h o)) := by
  have hallowed : (s.ctl.trust.recovery && !o.recovery) = false := by
    cases hr : s.ctl.trust.recovery with
    | false => rfl
    | true => rw [hg.allowed hr]; rfl
  unfold command
  rw [if_neg (not_not.mpr hg.link), hg.checks]
  dsimp only
  rw [accept_recovery, hallowed, if_neg Bool.false_ne_true, unitBusy_accept, hg.ready, if_neg Bool.false_ne_true]
  rfl

/-- A granted command whose row is done ends its tag. -/
theorem ends_of_done {i : Instr} {st : BitVec 16} {bytes : List Byte} (hg : Granted s h o) (hi : exec i s = .next (command s h o run))
    (hr : run (accept s h o) = (t, .done st bytes)) : Ends s i t h st bytes := by
  rw [command_granted hg, hr] at hi
  exact hi

/-- A granted command whose row stays pending leaves its tag open. -/
theorem exec_of_pend {i : Instr} (hg : Granted s h o) (hi : exec i s = .next (command s h o run))
    (hr : run (accept s h o) = (t, .pend)) : exec i s = .next t := by
  rw [command_granted hg, hr] at hi
  exact hi

/-- In recovery an opcode that R470 does not name ends DENIED. -/
theorem ends_of_recovery {i : Instr} (hi : exec i s = .next (command s h o run)) (hl : (getLink s 64).st = .active) (hc : rejects s h o = none)
    (hr : s.ctl.trust.recovery = true) (ho : o.recovery = false) : Ends s i (accept s h o) h stDenied [] := by
  have hdenied : command s h o run = finishTag (accept s h o) h.channel.toNat h.tag stDenied [] := by simp [command, hl, hc, hr, ho]
  rwa [hdenied] at hi

/-- While the core that executes it is in its own reset, a command ends BUSY. -/
theorem ends_of_busy {i : Instr} (hi : exec i s = .next (command s h o run)) (hl : (getLink s 64).st = .active) (hc : rejects s h o = none)
    (hr : s.ctl.trust.recovery = false) (hb : unitBusy s o.code = true) : Ends s i (accept s h o) h stBusy [] := by
  have hbusy : command s h o run = finishTag (accept s h o) h.channel.toNat h.tag stBusy [] := by simp [command, hl, hc, hr, unitBusy_accept, hb]
  rwa [hbusy] at hi

end

/-! ### Status packets (R362, R370, R372, R379) -/

/-- What goes out on the host link alone: segments of port 64, with its outbox, the notices of its tags, its replay buffer and its counts. -/
structure HostSent (s t : State) : Prop where
  out : ∃ l, t.out = s.out ++ l ∧ ∀ x ∈ l, ∃ g, x = .segment 64 g
  rest : t = { s with ctl := { s.ctl with hl := t.ctl.hl, channels := t.ctl.channels }, net := { s.net with links := t.net.links, portCtrs := t.net.portCtrs }, out := t.out }

theorem HostSent.refl (s : State) : HostSent s s := ⟨⟨[], (List.append_nil _).symm, nofun⟩, rfl⟩

theorem HostSent.trans {s t u : State} (h : HostSent s t) (h' : HostSent t u) : HostSent s u where
  out := by
    obtain ⟨l, hl, hseg⟩ := h.out
    obtain ⟨l', hl', hseg'⟩ := h'.out
    exact ⟨l ++ l', by rw [hl', hl, List.append_assoc], fun x hx => (List.mem_append.mp hx).elim (hseg x) (hseg' x)⟩
  rest := by
    have h₁ := h.rest
    have h₂ := h'.rest
    rw [h₂] at *
    rw [h₁]

/-- What is no packet leaves a module outside the extent too (R268). -/
theorem emit_out (s : State) {e : Emit} (he : e.isPacket = false) : (emit s e).out = s.out ++ [e] := by
  unfold emit emitAll sends
  split <;> simp [he]

theorem sendSegment_hostSent (s : State) (blocks : Nat) (items : List SegItem) : HostSent s (sendSegment s 64 blocks items) where
  out := ⟨[.segment 64 _], emit_out _ rfl, fun _ hx => ⟨_, List.mem_singleton.mp hx⟩⟩
  rest := rfl

theorem sendSegments_hostSent (i : SegItem) (fuel blocks : Nat) (s : State) : HostSent s (sendSegments 64 i fuel blocks s) := by
  induction fuel generalizing blocks s with
  | zero => exact .refl s
  | succ fuel ih =>
    unfold sendSegments
    split
    · exact sendSegment_hostSent s blocks [i]
    · exact (sendSegment_hostSent s 256 []).trans (ih _ _)

/-- A change that emits nothing and touches only the host link's own parts. -/
theorem HostSent.silent {s t : State} (hout : t.out = s.out)
    (hrest : t = { s with ctl := { s.ctl with hl := t.ctl.hl, channels := t.ctl.channels }, net := { s.net with links := t.net.links, portCtrs := t.net.portCtrs }, out := t.out }) :
    HostSent s t := ⟨⟨[], by rw [hout, List.append_nil], nofun⟩, hrest⟩

theorem sendHostPkt_hostSent (s : State) (x : HostPkt) : HostSent s (sendHostPkt s x) := by
  have hsent : HostSent s (sendSegments 64 (.host x.bytes false) 4 (hostBlocks x.bytes.length) (bumpPort s 64 0 x.bytes.length)) :=
    HostSent.trans (t := bumpPort s 64 0 x.bytes.length) (.silent rfl rfl) (sendSegments_hostSent _ _ _ _)
  unfold sendHostPkt
  cases x.notice with
  | none => exact hsent
  | some n => exact hsent.trans (.silent rfl rfl)

theorem pumpHost_hostSent (fuel : Nat) (s : State) : HostSent s (pumpHost fuel s) := by
  induction fuel generalizing s with
  | zero => exact .refl s
  | succ fuel ih =>
    unfold pumpHost
    split
    · exact .refl s
    · split
      · refine .trans ?_ ((sendHostPkt_hostSent _ _).trans (ih _))
        exact .silent rfl rfl
      · exact .refl s

/-- What a status packet changes, a slice's counts and the host link's parts. -/
def StatusFrame (s t : State) : Prop :=
  t = { s with ctl := { s.ctl with hl := t.ctl.hl, channels := t.ctl.channels, slices := t.ctl.slices }, net := { s.net with links := t.net.links, portCtrs := t.net.portCtrs }, out := t.out }

theorem StatusFrame.trans {s t u : State} (h : StatusFrame s t) (h' : StatusFrame t u) : StatusFrame s u := by
  unfold StatusFrame at *
  rw [h'] at *
  rw [h]

theorem HostSent.statusFrame {s t : State} (h : HostSent s t) : StatusFrame s t := by
  have hslices : t.ctl.slices = s.ctl.slices := congrArg (·.ctl.slices) h.rest
  unfold StatusFrame
  rw [hslices]
  exact h.rest

theorem modSlice_statusFrame (s : State) (k : Nat) (f : Slice → Slice) : StatusFrame s (modSlice s k f) := by
  obtain ⟨sl, h⟩ := modSlice_only s k f
  rw [h]
  rfl

section

variable (s : State) (c : Nat) (opcode tag slice : BitVec 16) (version : BitVec 4) (st : BitVec 16) (more rejected : Bool) (len : Nat) (bytes : List Byte)
  (notice : Option (BitVec 16))

/-- The state in which a status packet is issued: its bytes and its number are counted for the slice of its channel (R374, R434). -/
def statusCounted : State :=
  modSlice (countHost s c (bytes.length + (if chanSession s c then 24 else 0))) c
    (fun sl => { sl with session := sl.session.map (fun x => { x with scountOut := x.scountOut + 1 }) })

theorem statusCounted_frame : StatusFrame s (statusCounted s c bytes) := (modSlice_statusFrame _ _ _).trans (modSlice_statusFrame _ _ _)

theorem sendStatus_frame : StatusFrame s (sendStatus s c opcode tag slice version st more rejected len bytes notice) := by
  unfold sendStatus
  split
  · rfl
  · refine (statusCounted_frame s c bytes).trans (.trans ?_ (pumpHost_hostSent _ _).statusFrame)
    rfl

/-- On a host link in service the packet is issued, and segments follow it. -/
theorem sendStatus_sent (hl : (getLink s 64).st = .active) : StatusSent s (sendStatus s c opcode tag slice version st more rejected len bytes notice)
    (.status c opcode tag slice version st (hlFlags more false rejected (chanSession s c)) len bytes s.tb.time) := by
  have hcounted : (statusCounted s c bytes).out = s.out := by simp [statusCounted, countHost]
  have htime : (statusCounted s c bytes).tb = s.tb := by simp [statusCounted, countHost]
  unfold sendStatus
  rw [if_neg (not_not.mpr hl)]
  obtain ⟨l, hout, hseg⟩ := (pumpHost_hostSent _ _).out
  refine ⟨l, hout.trans ?_, hseg⟩
  change (emit (statusCounted s c bytes) (.status c opcode tag slice version st _ len bytes (statusCounted s c bytes).tb.time)).out ++ l = _
  rw [emit_out _ rfl, hcounted, htime, List.append_assoc]
  rfl

end

theorem finishTag_frame (s : State) (c : Nat) (tag st : BitVec 16) (bytes : List Byte) : StatusFrame s (finishTag s c tag st bytes) := by
  unfold finishTag
  split
  · rfl
  · exact .trans (t := modChan s c _) rfl (sendStatus_frame _ _ _ _ _ _ _ _ _ _ _ _)

/-- A tag that ends on a host link in service has its status packet issued. -/
theorem finishTag_sent {s : State} {c : Nat} {tag : BitVec 16} {x : Tag} (hl : (getLink s 64).st = .active) (hx : findTag s c tag = some x)
    (st : BitVec 16) (bytes : List Byte) : StatusSent s (finishTag s c tag st bytes)
      (.status c x.opcode tag x.slice x.version st (hlFlags (decide (4032 < bytes.length)) false false (chanSession s c)) bytes.length (bytes.take 4032) s.tb.time) := by
  unfold findTag at hx
  unfold finishTag
  rw [hx]
  exact sendStatus_sent (modChan s c _) _ _ _ _ _ _ _ _ _ _ _ hl

end Sys2Proof.Machine

/-! ## The general commands of the host link (R7 to R9, R260, R273, R380 to R382, R389, R392, R470) -/

namespace Sys2Proof.Machine

/-! ### Registers (R7 to R9, R392) -/

theorem selDown_accept (s : State) (h : Hdr) (o : OpInfo) (sel : Word) (n : Nat) : selDown (accept s h o) sel n = selDown s sel n := by
  simp only [selDown, accept_rst]

theorem getLane_modLane (s : State) (i j : Nat) (f : Lane → Lane) : getLane (modLane s i f) j = if i = j then f (getLane s i) else getLane s j := by
  change ((Tab.find (Tab.set s.net.lanes i _) j).getD (laneDefault s)) = _
  rw [Tab.find_set]
  split <;> rfl

/-- A measurement of lanes changes what was measured and the count of free values: a lane's own settings stay. -/
structure Measured (s t : State) : Prop where
  rest : t = { s with net := { s.net with lanes := t.net.lanes }, freeCtr := t.freeCtr }
  lanes : ∀ i, (getLane t i).peak = (getLane s i).peak ∧ (getLane t i).auto = (getLane s i).auto ∧ (getLane t i).cdrLock = (getLane s i).cdrLock

theorem Measured.refl (s : State) : Measured s s := ⟨rfl, fun _ => ⟨rfl, rfl, rfl⟩⟩

theorem Measured.trans {s t u : State} (h : Measured s t) (h' : Measured t u) : Measured s u where
  rest := by
    have h₁ := h.rest
    have h₂ := h'.rest
    rw [h₂] at *
    rw [h₁]
  lanes i := by
    obtain ⟨hp, ha, hc⟩ := h.lanes i
    obtain ⟨hp', ha', hc'⟩ := h'.lanes i
    exact ⟨hp'.trans hp, ha'.trans ha, hc'.trans hc⟩

theorem measureLane_measured (s : State) (i : Nat) : Measured s (measureLane s i) := by
  unfold measureLane
  split
  · exact .refl s
  · refine ⟨rfl, fun j => ?_⟩
    rw [getLane_modLane]
    split
    · next hij => subst hij; exact ⟨rfl, rfl, rfl⟩
    · exact ⟨rfl, rfl, rfl⟩

theorem measureLanes_measured (s : State) (lane : Nat → Nat) (l : List Nat) : Measured s (l.foldl (fun s k => measureLane s (lane k)) s) :=
  List.foldlRecOn l _ (.refl s) (fun _ h _ _ => h.trans (measureLane_measured _ _))

/-- A readout comes within the present always-on cycle, and not before the last one. -/
theorem passTime_time (s : State) : (passTime s).tb.time = s.tb.time ∨ s.tb.time < (passTime s).tb.time ∧ (passTime s).tb.time < cycleEnd s := by
  have hpos : 0 < max 1 (cycleEnd s - s.tb.time) := by omega
  have hlt := Nat.mod_lt (takeFree s).1.toNat hpos
  change s.tb.time + _ % _ = _ ∨ s.tb.time < s.tb.time + _ % _ ∧ s.tb.time + _ % _ < _
  omega

/-- What a register read changes: measured lanes, the instant of a read of the time base, and the count of free values. -/
structure ReadOut (s t : State) (sel : Word) : Prop where
  rest : t = { s with net := { s.net with lanes := t.net.lanes }, tb := { s.tb with time := t.tb.time }, freeCtr := t.freeCtr }
  time : t.tb.time = s.tb.time ∨ s.tb.time < t.tb.time ∧ t.tb.time < cycleEnd s
  still : selBlock sel ≠ 8 ∨ selNumber sel ≠ 0 → t.tb.time = s.tb.time
  lanes : ∀ i, (getLane t i).peak = (getLane s i).peak ∧ (getLane t i).auto = (getLane s i).auto ∧ (getLane t i).cdrLock = (getLane s i).cdrLock

theorem Measured.readOut {s t : State} (h : Measured s t) (sel : Word) : ReadOut s t sel := by
  have htime : t.tb.time = s.tb.time := congrArg (·.tb.time) h.rest
  exact ⟨by rw [htime]; exact h.rest, .inl htime, fun _ => htime, h.lanes⟩

theorem measureFor_readOut (s : State) (sel : Word) (n : Nat) : ReadOut s (measureFor s sel n) sel := by
  unfold measureFor
  split
  · exact (measureLanes_measured s (selIndex sel + ·) _).readOut sel
  · split
    · exact (measureLanes_measured s (512 + selIndex sel + ·) _).readOut sel
    · split
      · next hsel =>
        have hsel' : selBlock sel = 8 ∧ selNumber sel = 0 := by simpa using hsel
        exact ⟨rfl, passTime_time s, fun hne => absurd hsel' (not_and_or.mpr hne), fun _ => ⟨rfl, rfl, rfl⟩⟩
      · exact (Measured.refl s).readOut sel

theorem readRegs_badParam {s : State} {sel : Word} {n : Nat} (hbad : n = 0 ∨ 64 < n ∨ selOk sel n = false) : readRegs s sel n = ends s stBadParam :=
  if_pos (by simpa [or_assoc] using hbad)

theorem readRegs_down {s : State} {sel : Word} {n : Nat} (h1 : 1 ≤ n) (h64 : n ≤ 64) (hok : selOk sel n = true) (hdown : selDown s sel n = true) :
    readRegs s sel n = ends s stBadState := by
  have hgood : ¬(n = 0 || 64 < n || !selOk sel n) = true := by simp [hok]; omega
  rw [readRegs, if_neg hgood, if_pos hdown]

theorem readRegs_ok {s : State} {sel : Word} {n : Nat} (h1 : 1 ≤ n) (h64 : n ≤ 64) (hok : selOk sel n = true) (hdown : selDown s sel n = false) :
    readRegs s sel n = (measureFor s sel n, .done stOk
      ((List.range n).flatMap (fun k => leBytes 8 (regRead (measureFor s sel n) (selBlock sel) (selNumber sel) (selIndex sel + k)).toNat))) := by
  have hgood : ¬(n = 0 || 64 < n || !selOk sel n) = true := by simp [hok]; omega
  rw [readRegs, if_neg hgood, if_neg (Bool.eq_false_iff.mp hdown)]

theorem writeReg_badParam {s : State} {sel : Word} (value : Word) (hok : selOk sel 1 = false) : writeReg s sel value = ends s stBadParam :=
  if_pos (by rw [hok]; rfl)

theorem writeReg_down {s : State} {sel : Word} (value : Word) (hok : selOk sel 1 = true) (hdown : selDown s sel 1 = true) : writeReg s sel value = ends s stBadState := by
  simp [writeReg, hok, hdown]

theorem writeReg_refused {s : State} {sel value : Word} (hok : selOk sel 1 = true) (hdown : selDown s sel 1 = false)
    (hw : regWrite s (selBlock sel) (selNumber sel) (selIndex sel) value = none) : writeReg s sel value = ends s stBadParam := by
  simp [writeReg, hok, hdown, hw]

theorem writeReg_ok {s t : State} {sel value : Word} (hok : selOk sel 1 = true) (hdown : selDown s sel 1 = false)
    (hw : regWrite s (selBlock sel) (selNumber sel) (selIndex sel) value = some t) : writeReg s sel value = ends t stOk := by
  simp [writeReg, hok, hdown, hw]

/-! ### Results (R380, R381) -/

section

variable {s : State} {c : Nat} {tag : BitVec 16} {part : Nat} {x : Tag}

theorem findTag_tag (hx : findTag s c tag = some x) : x.tag = tag := by
  simpa using List.find?_some hx

/-- A change of the tags with one number, which they keep, is found under that number. -/
theorem findTag_modChan_map {f : Tag → Tag} (hf : ∀ y, (f y).tag = y.tag) (hx : findTag s c tag = some x) :
    findTag (modChan s c (fun k => { k with tags := k.tags.map (fun y => if y.tag = tag then f y else y) })) c tag = some (f x) := by
  have hkeep : (fun y : Tag => decide (y.tag = tag)) ∘ (fun y => if y.tag = tag then f y else y) = fun y => decide (y.tag = tag) := by
    funext y
    by_cases hy : y.tag = tag <;> simp [hy, hf]
  have htag := findTag_tag hx
  unfold findTag at *
  rw [getChan_modChan, List.find?_map, hkeep, hx]
  simp [htag]

theorem readResult_none (hx : findTag s c tag = none) : readResult s c tag part = ends s stBadState := by
  rw [readResult, hx]

theorem readResult_pending (hx : findTag s c tag = some x) (hst : x.status = none) :
    readResult s c tag part = (s, .done stNotReady (leBytes 2 tag.toNat ++ leBytes 2 x.opcode.toNat ++ leBytes 2 0x0001 ++ leBytes 1 part ++ leBytes 1 0)) := by
  simp [readResult, hx, hst, resultPrefix, findTag_tag hx, stNotReady, bitN]

theorem readResult_past {st : BitVec 16} (hx : findTag s c tag = some x) (hst : x.status = some st) (hpart : 0 < part) (hlen : x.reply.length ≤ 4032 * part) :
    readResult s c tag part = ends s stBadParam := by
  simp [readResult, hx, hst, partBytes, hpart, hlen]

/-- The tag's part is delivered. -/
def delivers (s : State) (c : Nat) (tag : BitVec 16) (part : Nat) : State :=
  modChan s c (fun k => { k with tags := k.tags.map (fun y => if y.tag = tag then { y with delivered := y.delivered ++ [part] } else y) })

theorem readResult_part {st : BitVec 16} (hx : findTag s c tag = some x) (hst : x.status = some st) (hpart : part = 0 ∨ 4032 * part < x.reply.length) :
    readResult s c tag part = (delivers s c tag part, .done stOk
      (leBytes 2 tag.toNat ++ leBytes 2 x.opcode.toNat ++ leBytes 2 st.toNat ++ leBytes 1 part ++
        leBytes 1 ((if part ∈ x.delivered then 1 else 0) + (if 4032 * (part + 1) < x.reply.length then 2 else 0)) ++ (x.reply.drop (4032 * part)).take 4032)) := by
  have hin : ¬(0 < part && decide (x.reply.length ≤ partBytes * part)) = true := by
    simp only [Bool.and_eq_true, decide_eq_true_eq]
    rw [partBytes]
    omega
  have hrepeated : bitN (x.delivered.contains part) = if part ∈ x.delivered then 1 else 0 := by
    by_cases h : part ∈ x.delivered <;> simp [bitN, h]
  have hmore : 2 * bitN (decide (partBytes * (part + 1) < x.reply.length)) = if 4032 * (part + 1) < x.reply.length then 2 else 0 := by
    by_cases h : 4032 * (part + 1) < x.reply.length <;> simp [bitN, partBytes, h]
  rw [readResult, hx]
  simp only [hst]
  rw [if_neg hin, resultPrefix, findTag_tag hx, hst, hrepeated, hmore]
  rfl

theorem releaseResult_refused (hx : findTag s c tag = none ∨ ∃ x, findTag s c tag = some x ∧ x.status = none) : releaseResult s c tag = ends s stBadState := by
  obtain hx | ⟨x, hx, hst⟩ := hx
  · rw [releaseResult, hx]
  · simp [releaseResult, hx, hst]

theorem releaseResult_ok {st : BitVec 16} (hx : findTag s c tag = some x) (hst : x.status = some st) : releaseResult s c tag = ends (freeTag s c tag) stOk := by
  simp [releaseResult, hx, hst]

/-! ### ABORT (R382, R383) -/

theorem abortTag_none {own : BitVec 16} (hx : findTag s c tag = none) : abortTag s c tag own = ends s stBadState := by
  rw [abortTag, hx]

theorem abortTag_done {own st : BitVec 16} (hx : findTag s c tag = some x) (hst : x.status = some st) : abortTag s c tag own = ends s stAlreadyDone := by
  simp [abortTag, hx, hst]

theorem abortTag_pending {own : BitVec 16} (hne : tag ≠ own) (hx : findTag s c tag = some x) (hst : x.status = none) :
    abortTag s c tag own = ends (abortPending s c tag) stOk := by
  simp [abortTag, hx, hst, hne]

end

theorem mem_abortWait_of_ne {ws : List MemWait} {c : Nat} {tag : BitVec 16} {w : MemWait} (hw : w ∈ ws) (hne : w.channel ≠ c ∨ w.tag ≠ tag) :
    w ∈ abortWait ws c tag := by
  refine List.mem_filterMap.mpr ⟨w, hw, if_neg ?_⟩
  simp only [Bool.and_eq_true, decide_eq_true_eq]
  exact fun hall => hne.elim (fun hc => hc hall.1.1) (fun ht => ht hall.1.2)

/-- What is still waiting under an aborted tag is under way: it was marked now, or had been. -/
theorem of_mem_abortWait {ws : List MemWait} {c : Nat} {tag : BitVec 16} {w : MemWait} (hw : w ∈ abortWait ws c tag) (hc : w.channel = c) (ht : w.tag = tag) :
    w.aborted = true ∧ ((∃ v ∈ ws, w = { v with aborted := true } ∧ ∃ x d, v.op = .write x d) ∨ w ∈ ws) := by
  obtain ⟨v, hv, hvw⟩ := List.mem_filterMap.mp hw
  split at hvw
  · cases hop : v.op with
    | write x d =>
      rw [hop] at hvw
      have hmark : { v with aborted := true } = w := Option.some.inj (hvw.symm ▸ by rw [hop])
      exact ⟨by rw [← hmark], .inl ⟨v, hv, hmark.symm, x, d, hop⟩⟩
    | read x n => rw [hop] at hvw; cases hvw
    | add d k v' => rw [hop] at hvw; cases hvw
  · next hkeep =>
    obtain rfl : v = w := Option.some.inj hvw
    have haborted : v.aborted = true := by simpa [hc, ht] using hkeep
    exact ⟨haborted, .inr hv⟩

/-- The state in which the aborted tag ends: nothing pends under it any more. -/
def abortCleared (s : State) (c : Nat) (tag : BitVec 16) : State :=
  { s with ctl := { s.ctl with
    memWaits := abortWait s.ctl.memWaits c tag
    txns := s.ctl.txns.map (fun t => if t.channel = c then { t with commit := t.commit.filter (fun x => x.2 ≠ tag) } else t)
    trust := { s.ctl.trust with batch := s.ctl.trust.batch.filter (fun e => !(e.channel = c && e.tag = tag)) } } }

theorem abortPending_frame (s : State) (c : Nat) (tag : BitVec 16) : StatusFrame (abortCleared s c tag) (abortPending s c tag) := finishTag_frame _ _ _ _ _

/-- No commit of the channel pends under the aborted tag. -/
theorem abortCleared_commit {s : State} {c : Nat} {tag : BitVec 16} {y : Txn} (hy : y ∈ (abortCleared s c tag).ctl.txns) (hc : y.channel = c)
    {p : Nat × BitVec 16} (hp : y.commit = some p) : p.2 ≠ tag := by
  obtain ⟨t, _, rfl⟩ := List.mem_map.mp hy
  split at hc
  · next htc =>
    rw [if_pos htc] at hp
    have hkeep := (Option.filter_eq_some_iff.mp hp).2
    simpa using hkeep
  · next htc => exact absurd hc htc

theorem abortCleared_batch {s : State} {c : Nat} {tag : BitVec 16} {e} (he : e ∈ (abortCleared s c tag).ctl.trust.batch) (hc : e.channel = c) : e.tag ≠ tag := by
  have hkeep := (List.mem_filter.mp he).2
  simpa [hc] using hkeep

/-- ABORT of a command that pends: its tag ends ABORTED, and nothing pends under it any more. -/
theorem abortPending_accept {s : State} {h : Hdr} {tag : BitVec 16} {x : Tag} {o : OpInfo} (hl : (getLink s 64).st = .active) (hne : tag ≠ h.tag)
    (hx : findTag s h.channel.toNat tag = some x) :
    let t := abortPending (accept s h o) h.channel.toNat tag
    StatusSent s t (.status h.channel.toNat x.opcode tag x.slice x.version 0x0003 (hlFlags false false false (chanSession s h.channel.toNat)) 0 [] s.tb.time) ∧
      (∀ y ∈ t.ctl.txns, y.channel = h.channel.toNat → ∀ p, y.commit = some p → p.2 ≠ tag) ∧ (∀ e ∈ t.ctl.trust.batch, e.channel = h.channel.toNat → e.tag ≠ tag) ∧
      t.ctl.memWaits = abortWait s.ctl.memWaits h.channel.toNat tag ∧
      t = { s with ctl := { s.ctl with hl := t.ctl.hl, channels := t.ctl.channels, memWaits := t.ctl.memWaits, slices := t.ctl.slices, txns := t.ctl.txns, trust := t.ctl.trust }, net := { s.net with links := t.net.links, portCtrs := t.net.portCtrs }, out := t.out } := by
  intro t
  have hframe : StatusFrame (abortCleared (accept s h o) h.channel.toNat tag) t := abortPending_frame _ _ _
  have htxns : t.ctl.txns = (abortCleared (accept s h o) h.channel.toNat tag).ctl.txns := congrArg (·.ctl.txns) hframe
  have hbatch : t.ctl.trust = (abortCleared (accept s h o) h.channel.toNat tag).ctl.trust := congrArg (·.ctl.trust) hframe
  have hwaits : t.ctl.memWaits = abortWait (accept s h o).ctl.memWaits h.channel.toNat tag := congrArg (·.ctl.memWaits) hframe
  refine ⟨?sent, ?commits, ?batch, ?waits, ?rest⟩
  case sent =>
    have hx' : findTag (abortCleared (accept s h o) h.channel.toNat tag) h.channel.toNat tag = some x := (findTag_accept s o hne).trans hx
    have hl' : (getLink (abortCleared (accept s h o) h.channel.toNat tag) 64).st = .active := by
      rw [← hl, ← getLink_accept s h o]
      rfl
    obtain ⟨l, hout, hseg⟩ := finishTag_sent hl' hx' stAborted []
    refine ⟨l, hout.trans ?_, hseg⟩
    rw [← accept_out s h o, ← accept_tb s h o, ← chanSession_accept s h o]
    rfl
  case commits =>
    rw [htxns]
    exact fun y hy hc p hp => abortCleared_commit hy hc hp
  case batch =>
    rw [hbatch]
    exact fun e he hc => abortCleared_batch he hc
  case waits => rw [hwaits, accept_ctl_memWaits]
  case rest =>
    obtain ⟨hl, ch, oc, sl, ha⟩ := accept_only s h o
    unfold StatusFrame at hframe
    rw [ha] at hframe
    clear_value t
    rw [hframe]
    rfl

/-! ### TIME_SET, COORD_SET (R260, R273) -/

theorem setTime_joined {s : State} (hj : s.net.route.joined = true) (seconds : Word) : setTime s seconds = ends s stBadState := if_pos hj

theorem setTime_ok {s : State} (hj : s.net.route.joined = false) (seconds : Word) :
    setTime s seconds = ends { s with tb := { s.tb with tod := some seconds.toNat } } stOk := if_neg (Bool.eq_false_iff.mp hj)

theorem setCoords_joined {s : State} (hj : s.net.route.joined = true) (w x y z : Nat) : setCoords s w x y z = ends s stBadState := if_pos hj

theorem setCoords_badParam {s : State} {w x y z : Nat} (hj : s.net.route.joined = false) (hout : 3 < w ∨ 3 < x ∨ 5 < y ∨ 5 < z) :
    setCoords s w x y z = ends s stBadParam := by
  rw [setCoords, if_neg (Bool.eq_false_iff.mp hj), if_pos (by simpa [or_assoc] using hout)]

theorem setCoords_ok {s : State} {w x y z : Nat} (hj : s.net.route.joined = false) (hw : w ≤ 3) (hx : x ≤ 3) (hy : y ≤ 5) (hz : z ≤ 5) :
    setCoords s w x y z = ends (modRoute s (fun r => { r with w := w, x := x, y := y, z := z, source := 2 })) stOk := by
  rw [setCoords, if_neg (Bool.eq_false_iff.mp hj), if_neg (by simp; omega)]

/-! ### LINK_RETRAIN (R310, R344, R389)

When a port leaves service, what was queued on it moves or is discarded, and credits go out on other ports: no port's state, keys or count of losses changes by that. -/

/-- Every port's state, whether it holds keys, and its count of losses stand. -/
def LinksStand (s t : State) : Prop :=
  ∀ i, (getLink t i).st = (getLink s i).st ∧ (getLink t i).keyed = (getLink s i).keyed ∧ (getLink t i).losses = (getLink s i).losses

theorem LinksStand.refl (s : State) : LinksStand s s := fun _ => ⟨rfl, rfl, rfl⟩

theorem LinksStand.trans {s t u : State} (h : LinksStand s t) (h' : LinksStand t u) : LinksStand s u := fun i => by
  obtain ⟨hs, hk, hl⟩ := h i
  obtain ⟨hs', hk', hl'⟩ := h' i
  exact ⟨hs'.trans hs, hk'.trans hk, hl'.trans hl⟩

theorem LinksStand.of_links {s t : State} (h : t.net.links = s.net.links) : LinksStand s t := fun i => by
  rw [getLink, h]
  exact ⟨rfl, rfl, rfl⟩

theorem LinksStand.foldl {α : Type} {f : State → α → State} (hf : ∀ s a, LinksStand s (f s a)) (l : List α) (s : State) : LinksStand s (l.foldl f s) :=
  List.foldlRecOn l f (.refl s) (fun _ h a _ => h.trans (hf _ a))

theorem sendSegment_linksStand (s : State) (port blocks : Nat) (items : List SegItem) : LinksStand s (sendSegment s port blocks items) := fun i => by
  unfold sendSegment
  rw [getLink, emit_net]
  change (getLink (modLink s port _) i).st = _ ∧ (getLink (modLink s port _) i).keyed = _ ∧ (getLink (modLink s port _) i).losses = _
  by_cases hi : port = i
  · subst hi
    rw [getLink_modLink]
    exact ⟨rfl, rfl, rfl⟩
  · rw [getLink_modLink_ne _ _ hi]
    exact ⟨rfl, rfl, rfl⟩

theorem pushCredits_linksStand (s : State) (port : Nat) : LinksStand s (pushCredits s port) := by
  unfold pushCredits
  dsimp only
  split
  · exact .trans (t := modPort s port _) (.of_links rfl) (sendSegment_linksStand _ _ _ _)
  · exact .refl s

theorem returnCells_linksStand (s : State) (origin : Nat × Nat) (n : Nat) : LinksStand s (returnCells s origin n) := by
  unfold returnCells
  split
  · exact .trans (t := modPort s origin.1 _) (.of_links rfl) (pushCredits_linksStand _ _)
  · exact .refl s

theorem freeLinked_linksStand (s : State) (l : Linked) : LinksStand s (freeLinked s l) := by
  unfold freeLinked
  dsimp only
  refine .trans (t := if l.ext then { s with net := { s.net with poolUsed := s.net.poolUsed - 1 } } else s) (.of_links (by split <;> rfl)) ?_
  cases l.origin with
  | some o => exact returnCells_linksStand _ _ _
  | none => exact .of_links rfl

theorem dropQueue_linksStand (s : State) (port vc : Nat) : LinksStand s (dropQueue s port vc) :=
  .trans (t := countUnroutable (modPort s port (fun x => { x with queues := Tab.erase x.queues vc })) (queueOf s port vc).length) (.of_links rfl)
    (.foldl freeLinked_linksStand _ _)

theorem portLeaves_linksStand (s : State) (port : Nat) : LinksStand s (portLeaves s port) := by
  unfold portLeaves
  split
  · refine .foldl (fun s v => ?_) _ _
    split
    · exact .refl s
    · exact .of_links rfl
  · exact .foldl (fun s v => dropQueue_linksStand s port v) _ _

theorem putResidue_linksStand (s : State) (port slot : Nat) (r : Residue) (outs : List (Nat × BitVec 3)) : LinksStand s (putResidue s port slot r outs) := by
  unfold putResidue
  split
  · exact .trans (t := modPort s port _) (.of_links rfl) (returnCells_linksStand _ _ _)
  · exact .of_links rfl

theorem mendResidues_linksStand (s : State) (oe : Nat) : LinksStand s (mendResidues s oe) := by
  unfold mendResidues
  refine .foldl (fun s port => .foldl (fun s e => ?_) _ _) _ _
  dsimp only
  split
  · exact .refl s
  · exact .trans (t := countMcast s _) (.of_links rfl) (putResidue_linksStand _ _ _ _ _)

/-- The port as it stands out of service: cleared, with a loss counted if it was ACTIVE. -/
def portCleared (s : State) (port : Nat) (st : PortSt) (retryAt : Nat) : State :=
  modLink s port (fun l => { clearLink l st with
    losses := if (getLink s port).st = .active then satUp l.losses 1 0xFF else l.losses, since := s.tb.time, retryAt := retryAt })

theorem portTo_linksStand (s : State) (port : Nat) (st : PortSt) (retryAt : Nat) : LinksStand (portCleared s port st retryAt) (portTo s port st retryAt) := by
  have hleft : ∀ (b : Prop) [Decidable b] (u : State),
      LinksStand u (if b then mendResidues (portLeaves u port) (port / 4) else if port = 64 then hostLost u else u) := by
    intro b _ u
    split
    · exact (portLeaves_linksStand u port).trans (mendResidues_linksStand _ _)
    · split
      · exact .of_links rfl
      · exact .refl u
  have hmiswired : ∀ (b : Prop) [Decidable b] (u : State) (oe : Nat) (f : LinkGrp → LinkGrp), LinksStand u (if b then modOe u oe f else u) := by
    intro b _ u oe f
    split
    · exact .of_links rfl
    · exact .refl u
  exact .trans (t := dropLanes (portCleared s port st retryAt) port) (.of_links rfl) ((hmiswired _ _ _ _).trans (hleft _ _))

/-- A port sent to LIGHT is out of service without keys, and a loss is counted if it was ACTIVE. -/
theorem getLink_portTo_light (s : State) (port : Nat) :
    (getLink (portTo s port .light 0) port).st = .light ∧ (getLink (portTo s port .light 0) port).keyed = false ∧
    ((getLink s port).st = .active → (getLink (portTo s port .light 0) port).losses = min ((getLink s port).losses + 1) 0xFF) := by
  have hcleared : getLink (portCleared s port .light 0) port = { clearLink (getLink s port) .light with
      losses := if (getLink s port).st = .active then satUp (getLink s port).losses 1 0xFF else (getLink s port).losses, since := s.tb.time, retryAt := 0 } :=
    getLink_modLink _ _ _
  obtain ⟨hst, hkeyed, hlosses⟩ := portTo_linksStand s port .light 0 port
  rw [hst, hkeyed, hlosses, hcleared]
  exact ⟨rfl, rfl, fun hactive => if_pos hactive⟩

theorem retrain_badParam {s : State} {port : Nat} (hp : 63 < port) : retrain s port = ends s stBadParam := if_pos hp

theorem retrain_off {s : State} {port : Nat} (hp : port ≤ 63) (hoff : (getLink s port).st = .off) : retrain s port = ends s stOk := by
  rw [retrain, if_neg (by omega), if_pos hoff]

theorem retrain_ok {s : State} {port : Nat} (hp : port ≤ 63) (hoff : (getLink s port).st ≠ .off) : retrain s port = ends (portTo s port .light 0) stOk := by
  rw [retrain, if_neg (by omega), if_neg hoff]

/-! ### The commands in their cases -/

/-- Settles O44: each command's row on the accepted state, in the cases of the row. -/
theorem hostGeneral : Obligations.HostGeneral := by
  unfold Obligations.HostGeneral
  refine ⟨?identify, ?regRead, ?regWrite, ?resultRead, ?resultRelease, ?abort, ?timeSet, ?coordSet, ?linkRetrain⟩
  case identify =>
    intro s h o hg
    exact ends_of_done hg rfl rfl
  case regRead =>
    intro s h sel n o hg
    refine ⟨fun hbad => ends_of_done hg rfl (readRegs_badParam hbad),
      fun h1 h64 hok hdown => ends_of_done hg rfl (readRegs_down h1 h64 hok ((selDown_accept _ _ _ _ _).trans hdown)), fun h1 h64 hok hdown => ?_⟩
    obtain ⟨hrest, htime, hstill, hlanes⟩ := measureFor_readOut (accept s h o) sel n
    simp only [accept_net, accept_tb, getLane_accept, cycleEnd] at hrest htime hstill hlanes
    exact ⟨_, ends_of_done hg rfl (readRegs_ok h1 h64 hok ((selDown_accept _ _ _ _ _).trans hdown)), hrest, htime, hstill, hlanes⟩
  case regWrite =>
    intro s h sel value o hg
    have hdown' := selDown_accept s h o sel 1
    refine ⟨fun hok => ends_of_done hg rfl (writeReg_badParam value hok), fun hok hdown => ends_of_done hg rfl (writeReg_down value hok (hdown'.trans hdown)),
      fun hok hdown => ⟨fun hw => ends_of_done hg rfl (writeReg_refused hok (hdown'.trans hdown) hw), fun t hw => ends_of_done hg rfl (writeReg_ok hok (hdown'.trans hdown) hw)⟩⟩
  case resultRead =>
    intro s h tag part x o hg hne
    have hfind := findTag_accept s o hne
    exact ⟨fun hx => ends_of_done hg rfl (readResult_none (hfind.trans hx)), fun hx hst => ends_of_done hg rfl (readResult_pending (hfind.trans hx) hst),
      fun st hx hst hpart hlen => ends_of_done hg rfl (readResult_past (hfind.trans hx) hst hpart hlen), fun st hx hst hpart =>
        ⟨_, ends_of_done hg rfl (readResult_part (hfind.trans hx) hst hpart), findTag_modChan_map (fun _ => rfl) (hfind.trans hx), rfl⟩⟩
  case resultRelease =>
    intro s h tag o hg hne
    have hfind := findTag_accept s o hne
    rw [← hfind]
    refine ⟨fun hx => ends_of_done hg rfl (releaseResult_refused hx),
      fun x st hx hst => ⟨_, ends_of_done hg rfl (releaseResult_ok hx hst), ?_, rfl⟩⟩
    rw [freeTag, getChan_modChan]
  case abort =>
    intro s h tag x o hg hne
    have hfind := findTag_accept s o hne
    refine ⟨fun hx => ends_of_done hg rfl (abortTag_none (hfind.trans hx)), fun st hx hst => ends_of_done hg rfl (abortTag_done (hfind.trans hx) hst), fun hx hst => ?_⟩
    obtain ⟨hsent, hcommits, hbatch, hwaits, hrest⟩ := abortPending_accept (o := o) hg.link hne hx
    refine ⟨_, ends_of_done hg rfl (abortTag_pending hne (hfind.trans hx) hst), hsent, hcommits, hbatch, ?_, ?_, hrest⟩
    · rw [hwaits]
      exact fun w hw hother => mem_abortWait_of_ne hw hother
    · rw [hwaits]
      exact fun w hw hc ht => of_mem_abortWait hw hc ht
  case timeSet =>
    intro s h seconds o
    refine ⟨fun hg hj => ends_of_done hg rfl (setTime_joined (by rwa [accept_net]) seconds), fun hg hj => ?_,
      fun hl hc hr => ends_of_recovery rfl hl hc hr rfl, fun hl hc hr hb => ends_of_busy rfl hl hc hr ?_⟩
    · rw [← accept_tb s h o]
      exact ends_of_done hg rfl (setTime_ok (by rwa [accept_net]) seconds)
    · obtain ⟨b, hmem, hcore⟩ := hb
      rw [unitBusy_steward s (by decide) (by decide)]
      exact List.any_eq_true.mpr ⟨b, hmem, decide_eq_true hcore⟩
  case coordSet =>
    intro s h w x y z o hg
    refine ⟨fun hj => ends_of_done hg rfl (setCoords_joined (by rwa [accept_net]) w x y z),
      fun hj hout => ends_of_done hg rfl (setCoords_badParam (by rwa [accept_net]) hout), fun hj hw hx hy hz => ?_⟩
    rw [← accept_net s h o]
    exact ends_of_done hg rfl (setCoords_ok (by rwa [accept_net]) hw hx hy hz)
  case linkRetrain =>
    intro s h port o hg
    refine ⟨fun hp => ends_of_done hg rfl (retrain_badParam hp), fun hp hoff => ends_of_done hg rfl (retrain_off hp (by rwa [getLink_accept])), fun hp hoff => ?_⟩
    obtain ⟨hst, hkeyed, hlosses⟩ := getLink_portTo_light (accept s h o) port
    rw [getLink_accept] at hlosses
    exact ⟨_, ends_of_done hg rfl (retrain_ok hp (by rwa [getLink_accept])), hst, hkeyed, hlosses⟩

end Sys2Proof.Machine

/-! ## Configuration transactions (R385 to R388) -/

namespace Sys2Proof.Machine

/-! ### A free index of a table's own choosing -/

theorem Tab.find_eq_none_iff {α : Type} {t : Tab α} {i : Nat} : Tab.find t i = none ↔ ∀ e ∈ t, e.1 ≠ i := by
  induction t with
  | nil => simp
  | cons e t ih =>
    obtain ⟨k, v⟩ := e
    by_cases hk : k = i <;> simp [Tab.find, hk, ih]

/-- A table with fewer entries than indexes has a free one. -/
theorem Tab.freeIndex_isSome {α : Type} {t : Tab α} {n : Nat} (h : t.length < n) : (Tab.freeIndex t n).isSome = true := by
  rw [Tab.freeIndex, List.find?_isSome]
  by_contra hall
  push Not at hall
  have hsub : List.range (min n (t.length + 1)) ⊆ t.map Prod.fst := by
    intro i hi
    by_contra hfree
    refine hall i hi ?_
    rw [Option.isNone_iff_eq_none, Tab.find_eq_none_iff]
    exact fun e he hei => hfree (hei ▸ List.mem_map_of_mem he)
  have hlen := (List.nodup_range.subperm hsub).length_le
  rw [List.length_range, List.length_map] at hlen
  omega

/-- The unit finds a free index below `n` while the table has fewer entries than that. -/
theorem Tab.pickFree_free {α : Type} {t : Tab α} {n : Nat} (h : t.length < n) (wish : Nat) :
    ∃ k, Tab.pickFree t n wish = some k ∧ k < n ∧ Tab.find t k = none := by
  unfold Tab.pickFree
  rw [if_neg (by omega)]
  split
  · next hfree => exact ⟨_, rfl, Nat.mod_lt _ (by omega), Option.isNone_iff_eq_none.mp hfree⟩
  · obtain ⟨k, hk⟩ := Option.isSome_iff_exists.mp (Tab.freeIndex_isSome h)
    have hrange := List.mem_of_find?_eq_some hk
    have hfree := List.find?_some hk
    rw [List.mem_range] at hrange
    exact ⟨k, hk, by omega, Option.isNone_iff_eq_none.mp hfree⟩

/-! ### Finding a transaction -/

@[simp] theorem findTxn_accept (s : State) (h h' : Hdr) (o : OpInfo) (handle : BitVec 16) : findTxn (accept s h o) h' handle = findTxn s h' handle := by
  simp only [findTxn, accept_ctl_txns]

theorem findTxn_handle {s : State} {h : Hdr} {handle : BitVec 16} {x : Txn} (hx : findTxn s h handle = some x) : x.handle = handle := by
  have hboth := List.find?_some hx
  simp only [Bool.and_eq_true, decide_eq_true_eq] at hboth
  exact hboth.1

/-- A transaction that is dropped leaves no trace of a change made to it before. -/
theorem dropTxn_modTxn (s : State) (handle : BitVec 16) {f : Txn → Txn} (hf : ∀ t, (f t).handle = t.handle) :
    dropTxn (modTxn s handle f) handle = dropTxn s handle := by
  have hfilter : ∀ l : List Txn, (l.map (fun t => if t.handle = handle then f t else t)).filter (fun t => t.handle ≠ handle) = l.filter (fun t => t.handle ≠ handle) := by
    intro l
    induction l with
    | nil => rfl
    | cons t l ih => by_cases ht : t.handle = handle <;> simp_all
  simp only [dropTxn, modTxn, hfilter]

/-! ### Commands on a transaction -/

/-- A command on a transaction has come: it counts for the expiry. -/
def touchTxn (s : State) (handle : BitVec 16) : State := modTxn s handle (fun t => { t with lastCmd := s.tb.time })

theorem touchTxn_accept (s : State) (h : Hdr) (o : OpInfo) (handle : BitVec 16) :
    touchTxn (accept s h o) handle = modTxn (accept s h o) handle (fun t => { t with lastCmd := s.tb.time }) := by
  rw [touchTxn, accept_tb]

section

variable {s : State} {h : Hdr} {o : OpInfo} {i : Instr} {handle : BitVec 16} {x : Txn} {run : State → State × Reply} {f : State → Txn → State × Reply}

theorem onTxn_none (hx : findTxn s h handle = none) : onTxn s h handle f = ends s stBadParam := by
  rw [onTxn, hx]

theorem onTxn_pending (hx : findTxn s h handle = some x) (hc : x.commit.isSome = true) : onTxn s h handle f = ends (touchTxn s handle) stBusy := by
  simp [onTxn, hx, hc, touchTxn]

theorem onTxn_run (hx : findTxn s h handle = some x) (hc : x.commit = none) : onTxn s h handle f = f (touchTxn s handle) x := by
  simp [onTxn, hx, hc, touchTxn]

/-- A command on a handle that is not open on its channel ends BAD_PARAM. -/
theorem ends_of_notOpen (hg : Granted s h o) (hi : exec i s = .next (command s h o run)) (hr : run (accept s h o) = onTxn (accept s h o) h handle f)
    (hx : findTxn s h handle = none) : Ends s i (accept s h o) h stBadParam [] :=
  ends_of_done hg hi (hr.trans (onTxn_none ((findTxn_accept s h h o handle).trans hx)))

/-- A command on a transaction whose commit pends ends BUSY. -/
theorem ends_of_commitPending (hg : Granted s h o) (hi : exec i s = .next (command s h o run)) (hr : run (accept s h o) = onTxn (accept s h o) h handle f)
    (hx : findTxn s h handle = some x) (hc : x.commit.isSome = true) :
    Ends s i (modTxn (accept s h o) handle (fun t => { t with lastCmd := s.tb.time })) h stBusy [] := by
  rw [← touchTxn_accept]
  exact ends_of_done hg hi (hr.trans (onTxn_pending ((findTxn_accept s h h o handle).trans hx) hc))

/-- On an open transaction with no commit the row goes on. -/
theorem onTxn_accept (o : OpInfo) (hx : findTxn s h handle = some x) (hc : x.commit = none) :
    onTxn (accept s h o) h handle f = f (modTxn (accept s h o) handle (fun t => { t with lastCmd := s.tb.time })) x := by
  rw [← touchTxn_accept, onTxn_run ((findTxn_accept s h h o handle).trans hx) hc]

end

/-! ### TXN_OPEN (R385) -/

theorem openTxn_full {s : State} (h : Hdr) (hfull : 8 ≤ s.ctl.txns.length) : openTxn s h = ends s stBusy := if_pos hfull

/-- A transaction opens under a handle that no open one has. -/
theorem openTxn_free {s : State} (h : Hdr) (hroom : s.ctl.txns.length < 8) : ∃ k, k < 65536 ∧ (∀ x ∈ s.ctl.txns, x.handle.toNat ≠ k) ∧
    openTxn s h = ({ s with ctl := { s.ctl with txns := s.ctl.txns ++ [{ handle := BitVec.ofNat 16 k, channel := h.channel.toNat, lastCmd := s.tb.time }] }, freeCtr := s.freeCtr + 1 },
      .done stOk (leBytes 2 k)) := by
  have hlen : (s.ctl.txns.map (fun t => (t.handle.toNat, t.channel))).length < 65536 := by
    rw [List.length_map]
    omega
  obtain ⟨k, hpick, hk, hfree⟩ := Tab.pickFree_free hlen (takeFree s).1.toNat
  refine ⟨k, hk, fun x hx => Tab.find_eq_none_iff.mp hfree _ (List.mem_map_of_mem (f := fun t : Txn => (t.handle.toNat, t.channel)) hx), ?_⟩
  rw [openTxn, if_neg (by omega)]
  change (match Tab.pickFree (s.ctl.txns.map (fun t => (t.handle.toNat, t.channel))) 65536 (takeFree s).1.toNat with
    | none => _
    | some k => _) = _
  rw [hpick]
  rfl

/-! ### Staging (R385) -/

theorem itemDenied_congr {s t : State} {c : Nat} (hf : t.fab = s.fab) (hc : boundSlice t c = boundSlice s c) (i : Item) : itemDenied t c i = itemDenied s c i := by
  unfold itemDenied itemOwned findGroup
  rw [hf, hc]

/-- Acceptance and the command's count for the expiry change the owner of no item. -/
theorem itemDenied_touched (s : State) (h : Hdr) (o : OpInfo) (handle : BitVec 16) (f : Txn → Txn) (c : Nat) (i : Item) :
    itemDenied (modTxn (accept s h o) handle f) c i = itemDenied s c i :=
  itemDenied_congr (accept_fab s h o) (boundSlice_accept s h o c) i

/-- A change of other fields of a transaction leaves what it locks. -/
theorem lockedElsewhere_modTxn (s : State) (handle : BitVec 16) {f : Txn → Txn} (hf : ∀ t, (f t).handle = t.handle ∧ (f t).items = t.items) (handle' : BitVec 16) (i : Item) :
    lockedElsewhere (modTxn s handle f) handle' i = lockedElsewhere s handle' i := by
  unfold lockedElsewhere modTxn
  rw [List.any_map]
  congr 1
  funext t
  by_cases ht : t.handle = handle
  · obtain ⟨hhandle, hitems⟩ := hf t
    simp [ht, hhandle, hitems]
  · simp [ht]

theorem lockedElsewhere_accept (s : State) (h : Hdr) (o : OpInfo) (handle : BitVec 16) (i : Item) : lockedElsewhere (accept s h o) handle i = lockedElsewhere s handle i := by
  simp only [lockedElsewhere, accept_ctl_txns]

section

variable {s : State} {h : Hdr} {o : OpInfo} {i : Instr} {handle : BitVec 16} {x : Txn} {run : State → State × Reply} {lengthOk busy : Bool} {item : Item}

/-- What a staging command does on an open transaction with no commit. -/
def stageIn (s : State) (handle : BitVec 16) (lengthOk busy : Bool) (item : Item) (x : Txn) : State × Reply :=
  if !lengthOk then ends s stBadParam
  else if itemDenied s x.channel item then ends s stDenied
  else if busy || 64 ≤ x.items.length || decide (65536 < stagedBytes x + itemSize item) || lockedElsewhere s handle item then ends s stBusy
  else ends (modTxn s handle (fun t => { t with items := t.items ++ [item], checked := false })) stOk

theorem stage_eq : stage s h handle lengthOk busy item = onTxn s h handle (fun s x => stageIn s handle lengthOk busy item x) := rfl

/-- The cases of a staging command: each opcode has its length, and its own reason to be BUSY. -/
theorem stage_cases {fits full : Prop} (hfits : lengthOk = true ↔ fits) (hfull : busy = true ↔ full) (hi : exec i s = .next (command s h o run))
    (hr : run (accept s h o) = stage (accept s h o) h handle lengthOk busy item) (hg : Granted s h o) :
    let a' := modTxn (accept s h o) handle (fun t => { t with lastCmd := s.tb.time })
    (findTxn s h handle = none → Ends s i (accept s h o) h 0x0013 []) ∧
    (findTxn s h handle = some x → x.commit.isSome = true → Ends s i a' h 0x0015 []) ∧
    (findTxn s h handle = some x → x.commit = none → ¬ fits → Ends s i a' h 0x0013 []) ∧
    (findTxn s h handle = some x → x.commit = none → fits → itemDenied s x.channel item = true → Ends s i a' h 0x0010 []) ∧
    (findTxn s h handle = some x → x.commit = none → fits → itemDenied s x.channel item = false →
      (full ∨ 64 ≤ x.items.length ∨ 65536 < stagedBytes x + itemSize item ∨ lockedElsewhere s handle item = true → Ends s i a' h 0x0015 []) ∧
      (¬ full → x.items.length < 64 → stagedBytes x + itemSize item ≤ 65536 → lockedElsewhere s handle item = false →
        Ends s i (modTxn a' handle (fun t => { t with items := t.items ++ [item], checked := false })) h 0 [])) := by
  intro a'
  have hdenied : itemDenied a' x.channel item = itemDenied s x.channel item := itemDenied_touched s h o handle _ _ _
  have hlocked : lockedElsewhere a' handle item = lockedElsewhere s handle item := by
    refine (lockedElsewhere_modTxn _ _ ?_ _ _).trans (lockedElsewhere_accept s h o handle item)
    exact fun _ => ⟨rfl, rfl⟩
  have hrow : findTxn s h handle = some x → x.commit = none → run (accept s h o) = stageIn a' handle lengthOk busy item x :=
    fun hx hc => hr.trans (stage_eq.trans (onTxn_accept o hx hc))
  refine ⟨ends_of_notOpen hg hi (hr.trans stage_eq), ends_of_commitPending hg hi (hr.trans stage_eq), fun hx hc hbad => ?length, fun hx hc hfit hden => ?denied,
    fun hx hc hfit hown => ⟨fun hbusy => ?busy, fun hroom hitems hbytes hfree => ?staged⟩⟩
  case length =>
    have hlen : lengthOk = false := Bool.eq_false_iff.mpr (fun hl => hbad (hfits.mp hl))
    exact ends_of_done hg hi ((hrow hx hc).trans (by simp only [stageIn, hlen]; rfl))
  case denied => exact ends_of_done hg hi ((hrow hx hc).trans (by simp only [stageIn, hfits.mpr hfit, hdenied, hden]; rfl))
  case busy =>
    have hany : (busy || 64 ≤ x.items.length || decide (65536 < stagedBytes x + itemSize item) || lockedElsewhere a' handle item) = true := by
      simpa [hfull, hlocked, or_assoc] using hbusy
    exact ends_of_done hg hi ((hrow hx hc).trans (by simp only [stageIn, hfits.mpr hfit, hdenied, hown, hany]; rfl))
  case staged =>
    have hnone : (busy || 64 ≤ x.items.length || decide (65536 < stagedBytes x + itemSize item) || lockedElsewhere a' handle item) = false := by
      simpa [hlocked, hfree, Bool.eq_false_iff, hfull, hroom] using ⟨hitems, hbytes⟩
    exact ends_of_done hg hi ((hrow hx hc).trans (by simp only [stageIn, hfits.mpr hfit, hdenied, hown, hnone]; rfl))

end

/-! ### TXN_CHECK (R386) -/

/-- A failure that is not a refusal leaves nothing in the recorder. -/
theorem noteRefused_of_ne (s : State) (items : List Item) {f : Nat × BitVec 16} (hf : f.2 ≠ 0x0010) : noteRefused s items f = s := by
  unfold noteRefused
  split
  · exact if_neg hf
  · rfl

section

variable {s : State} {h : Hdr} {handle : BitVec 16} {x : Txn}

/-- What TXN_CHECK does on an open transaction with no commit. -/
def checkIn (s : State) (handle : BitVec 16) (x : Txn) : State × Reply :=
  let r := checkItems true x.channel 0 s x.items
  match r.failed with
  | some f => (noteRefused (modTxn s handle (fun t => { t with checked := false })) x.items f, .done f.2 (leBytes 2 f.1))
  | none => ends (modTxn s handle (fun t => { t with checked := true, items := r.items })) stOk

theorem checkTxn_eq : checkTxn s h handle = onTxn s h handle (fun s x => checkIn s handle x) := rfl

theorem checkIn_ok (hr : (checkItems true x.channel 0 s x.items).failed = none) :
    checkIn s handle x = ends (modTxn s handle (fun t => { t with checked := true, items := (checkItems true x.channel 0 s x.items).items })) stOk := by
  simp only [checkIn, hr]

theorem checkIn_failed {f : Nat × BitVec 16} (hr : (checkItems true x.channel 0 s x.items).failed = some f) (hf : f.2 ≠ 0x0010) :
    checkIn s handle x = (modTxn s handle (fun t => { t with checked := false }), .done f.2 (leBytes 2 f.1)) := by
  simp only [checkIn, hr, noteRefused_of_ne _ _ hf]

end

/-! ### TXN_COMMIT_AT and TXN_COMMIT_FIRE (R387) -/

/-- A minute and ten minutes of fabric time, in its units (R251). -/
theorem minute_units : 60 * secU = 240000000000 ∧ 600 * secU = 2400000000000 := ⟨rfl, rfl⟩

theorem commitBytes_congr {s t : State} (h : t.net = s.net) (now : Nat) (late : Bool) (index : Nat) : commitBytes t now late index = commitBytes s now late index := by
  unfold commitBytes
  rw [h]

section

variable {s : State} {h : Hdr} {handle : BitVec 16} {x : Txn} {due at_ : Nat}

theorem applyTxn_ok (hr : (checkItems false x.channel 0 s x.items).failed = none) : applyTxn s x due =
    (dropTxn (checkItems false x.channel 0 s x.items).after x.handle, stOk,
      commitBytes (checkItems false x.channel 0 s x.items).after s.tb.time (decide (due < s.tb.time)) 0) := by
  simp only [applyTxn, hr]

theorem applyTxn_failed {f : Nat × BitVec 16} (hr : (checkItems false x.channel 0 s x.items).failed = some f) (hf : f.2 ≠ 0x0010) : applyTxn s x due =
    (modTxn s x.handle (fun t => { t with checked := false, commit := none }), f.2, commitBytes s s.tb.time (decide (due < s.tb.time)) f.1) := by
  simp only [applyTxn, hr, noteRefused_of_ne _ _ hf]
  rfl

/-- What TXN_COMMIT_AT does on an open transaction with no commit. -/
def commitIn (s : State) (h : Hdr) (handle : BitVec 16) (at_ : Nat) (x : Txn) : State × Reply :=
  if !x.checked then ends s stBadState
  else if s.tb.time + 60 * secU < at_ then ends s stBadParam
  else if dueAt at_ ≤ s.tb.time then ((applyTxn s x (dueAt at_)).1, .done (applyTxn s x (dueAt at_)).2.1 (applyTxn s x (dueAt at_)).2.2)
  else (modTxn s handle (fun t => { t with commit := some (at_, h.tag) }), .pend)

theorem commitTxn_eq : commitTxn s h handle at_ = onTxn s h handle (fun s x => commitIn s h handle at_ x) := rfl

theorem commitIn_unchecked (hx : x.checked = false) : commitIn s h handle at_ x = ends s stBadState := by
  rw [commitIn, hx, if_pos (by decide)]

theorem commitIn_far (hx : x.checked = true) (hfar : s.tb.time + 240000000000 < at_) : commitIn s h handle at_ x = ends s stBadParam := by
  rw [commitIn, hx, if_neg (by decide), minute_units.1, if_pos hfar]

theorem commitIn_pending (hx : x.checked = true) (hnear : at_ ≤ s.tb.time + 240000000000) (hlater : s.tb.time < at_ + at_ % 2) :
    commitIn s h handle at_ x = (modTxn s handle (fun t => { t with commit := some (at_, h.tag) }), .pend) := by
  rw [commitIn, hx, if_neg (by decide), minute_units.1, if_neg (by omega), dueAt, if_neg (by omega)]

theorem commitIn_due (hx : x.checked = true) (hdue : at_ + at_ % 2 ≤ s.tb.time) : commitIn s h handle at_ x =
    ((applyTxn s x (at_ + at_ % 2)).1, .done (applyTxn s x (at_ + at_ % 2)).2.1 (applyTxn s x (at_ + at_ % 2)).2.2) := by
  rw [commitIn, hx, if_neg (by decide), minute_units.1, if_neg (by omega), dueAt, if_pos hdue]

/-- The count comes to an instant that is past, or within the present always-on cycle. -/
theorem reachTime_eq (hdue : due ≤ s.tb.time ∨ due < cycleEnd s) : reachTime s due = some { s with tb := { s.tb with time := max s.tb.time due } } := by
  unfold reachTime
  split
  · next hpast => rw [max_eq_left hpast]
  · next hlater => rw [if_pos (hdue.resolve_left hlater), max_eq_right (by omega)]

theorem reachTime_none (hlater : s.tb.time < due) (hend : cycleEnd s ≤ due) : reachTime s due = none := by
  rw [reachTime, if_neg (by omega), if_neg (by omega)]

end

section

variable {s : State} {handle : BitVec 16} {x : Txn} {T : Nat} {tag : BitVec 16}

/-- A pending commit whose time does not come in this always-on cycle waits. -/
theorem commitFire_waits (hx : s.ctl.txns.find? (fun t => t.handle = handle) = some x) (hc : x.commit = some (T, tag))
    (hlater : s.tb.time < T + T % 2) (hend : cycleEnd s ≤ T + T % 2) : exec (.txnCommitFire handle) s = .next s := by
  change execTxnCommitFire handle s = _
  simp only [execTxnCommitFire, hx, hc, dueAt, reachTime_none hlater hend]

/-- A pending commit whose time has come is applied, and its tag ends. -/
theorem commitFire_applies (hx : s.ctl.txns.find? (fun t => t.handle = handle) = some x) (hc : x.commit = some (T, tag))
    (hdue : T + T % 2 ≤ s.tb.time ∨ T + T % 2 < cycleEnd s) :
    let r := applyTxn { s with tb := { s.tb with time := max s.tb.time (T + T % 2) } } x (T + T % 2)
    exec (.txnCommitFire handle) s = .next (finishTag r.1 x.channel tag r.2.1 r.2.2) := by
  change execTxnCommitFire handle s = _
  simp only [execTxnCommitFire, hx, hc, dueAt, reachTime_eq hdue]

/-! ### TXN_EXPIRE (R385) -/

theorem expire_idle (hx : s.ctl.txns.find? (fun t => t.handle = handle) = some x) (hc : x.commit = none) (hidle : x.lastCmd + 2400000000000 ≤ s.tb.time) :
    exec (.txnExpire handle) s = .next (dropTxn s handle) := by
  change execTxnExpire handle s = _
  simp [execTxnExpire, hx, hc, minute_units, hidle]

theorem expire_not (hx : s.ctl.txns.find? (fun t => t.handle = handle) = some x) (hlive : x.commit.isSome = true ∨ s.tb.time < x.lastCmd + 2400000000000) :
    exec (.txnExpire handle) s = .next s := by
  have hkeep : (x.commit.isNone && decide (x.lastCmd + 600 * secU ≤ s.tb.time)) = false := by
    obtain hc | hearly := hlive
    · rw [← Option.not_isSome, hc]
      rfl
    · rw [minute_units.2, decide_eq_false (by omega), Bool.and_false]
  change execTxnExpire handle s = _
  simp only [execTxnExpire, hx, hkeep]
  rfl

end

/-! ### The slice that a commit defines (R400, R401, R404, R446) -/

/-- What one step of a fold establishes and every step keeps holds after the fold. -/
theorem foldl_establishes {σ α : Type} {P : σ → Prop} {f : σ → α → σ} {l : List α} {a : α} (ha : a ∈ l) (hset : ∀ s, P (f s a)) (hkeep : ∀ s b, P s → P (f s b)) (s : σ) :
    P (l.foldl f s) := by
  obtain ⟨l₁, l₂, rfl⟩ := List.append_of_mem ha
  rw [List.foldl_append, List.foldl_cons]
  exact List.foldlRecOn l₂ f (hset _) (fun u hu b _ => hkeep u b hu)

/-- A granule becomes the slice's. -/
def ownGranule (id : BitVec 16) (s : State) (g : Nat) : State := modGran s (g / 16) (g % 16) (fun x => { x with st := .owned, owner := id, zeroing := false })

/-- A counter block becomes the slice's, its counters at zero. -/
def ownBlock (id : BitVec 16) (s : State) (c : Nat × Nat) : State :=
  modEp s c.1 (fun e => { e with counterOwner := Tab.set e.counterOwner c.2 id, counters := e.counters.filter (fun x => x.1 / 256 ≠ c.2) })

theorem ownGranules_only (id : BitVec 16) (l : List Nat) (s : State) : ∃ m, l.foldl (ownGranule id) s = { s with mem := m } := by
  induction l generalizing s with
  | nil => exact ⟨s.mem, rfl⟩
  | cons g l ih =>
    obtain ⟨m, hm⟩ := ih (ownGranule id s g)
    exact ⟨m, hm.trans rfl⟩

theorem ownBlocks_only (id : BitVec 16) (l : List (Nat × Nat)) (s : State) : ∃ e, l.foldl (ownBlock id) s = { s with fab := { s.fab with eps := e } } := by
  induction l generalizing s with
  | nil => exact ⟨s.fab.eps, rfl⟩
  | cons c l ih =>
    obtain ⟨e, he⟩ := ih (ownBlock id s c)
    exact ⟨e, he.trans rfl⟩

theorem getGran_modGran_ne (s : State) {d g d' g' : Nat} (f : Granule → Granule) (h : 16 * d + g ≠ 16 * d' + g') : getGran (modGran s d g f) d' g' = getGran s d' g' :=
  Tab.getD_upd_ne _ _ _ _ h

theorem getEp_modEp_ne (s : State) {d d' : Nat} (f : Endpoint → Endpoint) (h : d ≠ d') : getEp (modEp s d f) d' = getEp s d' :=
  Tab.getD_upd_ne _ _ _ _ h

/-- A granule that is taken is the slice's, whatever else is taken after it. -/
theorem ownGranules_owned (id : BitVec 16) {l : List Nat} {g : Nat} (hg : g ∈ l) (s : State) :
    (getGran (l.foldl (ownGranule id) s) (g / 16) (g % 16)).st = .owned ∧ (getGran (l.foldl (ownGranule id) s) (g / 16) (g % 16)).owner = id := by
  have hset : ∀ u, (getGran (ownGranule id u g) (g / 16) (g % 16)).st = .owned ∧ (getGran (ownGranule id u g) (g / 16) (g % 16)).owner = id := by
    intro u
    rw [ownGranule, getGran_modGran]
    exact ⟨rfl, rfl⟩
  refine foldl_establishes (P := fun u => (getGran u (g / 16) (g % 16)).st = .owned ∧ (getGran u (g / 16) (g % 16)).owner = id) hg hset (fun u b hu => ?_) s
  by_cases hb : b = g
  · rw [hb]
    exact hset u
  · rw [ownGranule, getGran_modGran_ne _ _ (by omega)]
    exact hu

/-- A counter block that is taken is the slice's, whatever else is taken after it. -/
theorem ownBlocks_owned (id : BitVec 16) {l : List (Nat × Nat)} {k : Nat × Nat} (hk : k ∈ l) (s : State) :
    Tab.find (getEp (l.foldl (ownBlock id) s) k.1).counterOwner k.2 = some id := by
  have hset : ∀ u, Tab.find (getEp (ownBlock id u k) k.1).counterOwner k.2 = some id := by
    intro u
    rw [ownBlock, getEp_modEp]
    exact Tab.find_set_self _ _ _
  refine foldl_establishes (P := fun u => Tab.find (getEp u k.1).counterOwner k.2 = some id) hk hset (fun u b hu => ?_) s
  by_cases hdie : b.1 = k.1
  · rw [ownBlock, hdie, getEp_modEp, Tab.find_set]
    split
    · rfl
    · exact hu
  · rw [ownBlock, getEp_modEp_ne _ _ hdie]
    exact hu

/-- Dies that are not off stay as they are. -/
theorem powerDies_on {l : List Nat} {s : State} (h : ∀ d ∈ l, (getPwDie s d).pwr ≠ 0) : l.foldl powerDie s = s := by
  induction l with
  | nil => rfl
  | cons d l ih =>
    have hd : powerDie s d = s := if_neg (by simp [h d List.mem_cons_self])
    rw [List.foldl_cons, hd]
    exact ih (fun e he => h e (List.mem_cons_of_mem _ he))

/-- The four compute dies are the dies that a descriptor names. -/
theorem sdDies_lt {b : List Byte} {d : Nat} (h : d ∈ (((sdClusters b).map Prod.fst) ++ (sdGranules b).map (· / 16)).dedup) : d < 4 := by
  rw [List.mem_dedup, List.mem_append] at h
  obtain hc | hg := h
  · obtain ⟨⟨e, l⟩, hmem, rfl⟩ := List.mem_map.mp hc
    obtain ⟨e', hdie, hin⟩ := List.mem_flatMap.mp hmem
    obtain ⟨l', _, heq⟩ := List.mem_map.mp hin
    obtain ⟨rfl, rfl⟩ := Prod.mk.inj heq
    exact List.mem_range.mp hdie
  · obtain ⟨g, hmem, rfl⟩ := List.mem_map.mp hg
    obtain ⟨e, hdie, hin⟩ := List.mem_flatMap.mp hmem
    obtain ⟨k, hbit, rfl⟩ := List.mem_map.mp hin
    have hk := List.mem_range.mp (List.mem_filter.mp hbit).1
    have he := List.mem_range.mp hdie
    omega

/-- The granules and counter blocks that a descriptor names are the slice's. -/
def thingsOwned (s : State) (b : List Byte) : State := (sdBlocks b).foldl (ownBlock (sdId b)) ((sdGranules b).foldl (ownGranule (sdId b)) s)

theorem thingsOwned_only (s : State) (b : List Byte) : ∃ m e, thingsOwned s b = { s with mem := m, fab := { s.fab with eps := e } } := by
  obtain ⟨m, hm⟩ := ownGranules_only (sdId b) (sdGranules b) s
  obtain ⟨e, he⟩ := ownBlocks_only (sdId b) (sdBlocks b) { s with mem := m }
  exact ⟨m, e, by rw [thingsOwned, hm, he]⟩

theorem thingsOwned_granule {s : State} {b : List Byte} {g : Nat} (hg : g ∈ sdGranules b) :
    (getGran (thingsOwned s b) (g / 16) (g % 16)).st = .owned ∧ (getGran (thingsOwned s b) (g / 16) (g % 16)).owner = sdId b := by
  obtain ⟨e, he⟩ := ownBlocks_only (sdId b) (sdBlocks b) ((sdGranules b).foldl (ownGranule (sdId b)) s)
  rw [thingsOwned, he]
  exact ownGranules_owned (sdId b) hg s

/-- The slice stands in its slot, bound to its channel, with what its descriptor names. -/
def sliceTaken (s : State) (b : List Byte) : State :=
  let u := modChan (thingsOwned s b) (sdSlot b) (fun x => { x with slice := sdId b })
  { u with ctl := { u.ctl with slices := Tab.set u.ctl.slices (sdSlot b) (sliceOf u b), oldUsage := Tab.erase u.ctl.oldUsage (sdSlot b) } }

/-- A time-sliced slice on dies that are not off takes what its descriptor names, and nothing more is done yet. -/
theorem sliceApply_timesliced {s : State} {b : List Byte} (hts : sdTimesliced b = true) (hp : ∀ d < 4, (getPwDie s d).pwr ≠ 0) : sliceApply s b = sliceTaken s b := by
  change (if sdTimesliced b then List.foldl powerDie (sliceTaken s b) _ else _) = _
  rw [if_pos hts]
  refine powerDies_on (fun d hd => ?_)
  obtain ⟨m, e, honly⟩ := thingsOwned_only s b
  rw [sliceTaken, honly]
  exact hp d (sdDies_lt hd)

theorem getSlice_sliceTaken (s : State) (b : List Byte) : getSlice (sliceTaken s b) (sdSlot b) = some (sliceOf s b) := by
  obtain ⟨m, e, honly⟩ := thingsOwned_only s b
  rw [sliceTaken, honly]
  exact Tab.find_set_self _ _ _

theorem getChan_sliceTaken (s : State) (b : List Byte) : (getChan (sliceTaken s b) (sdSlot b)).slice = sdId b := by
  have hbound : (getChan (modChan (thingsOwned s b) (sdSlot b) (fun x => { x with slice := sdId b })) (sdSlot b)).slice = sdId b := by rw [getChan_modChan]
  exact hbound

/-- A transaction of the admin channel with one slice item whose descriptor passes applies it. -/
theorem checkItems_slice {s : State} {b : List Byte} (hc : sliceCheck s b = 0) :
    (checkItems false 64 0 s [.slice b]).after = sliceApply s b ∧ (checkItems false 64 0 s [.slice b]).failed = none := by
  have hcheck : itemCheck s (.slice b) = stOk := hc
  simp [checkItems, itemDenied, hcheck, itemApply]

/-! ### The transactions in their cases -/

/-- Settles O45: the transaction's commands through `onTxn`, the commit through `applyTxn`, and the slice that a commit defines. -/
theorem transactions : Obligations.Transactions := by
  unfold Obligations.Transactions
  refine ⟨?opens, ?stage, ?check, ?commit, ?fire, ?discard, ?slice⟩
  case opens =>
    intro s h o hg
    refine ⟨fun hfull => ends_of_done hg rfl (openTxn_full h (by rwa [accept_ctl_txns])), fun hroom => ?_⟩
    obtain ⟨k, hk, hnew, hopen⟩ := openTxn_free (s := accept s h o) h (by rwa [accept_ctl_txns])
    rw [accept_ctl_txns] at hnew
    refine ⟨_, k, hk, hnew, ends_of_done hg rfl hopen, ?_⟩
    rw [← accept_ctl_txns s h o, ← accept_tb s h o]
  case stage =>
    intro s h handle gid b x e he o item fits a a'
    simp only [List.mem_cons, List.not_mem_nil, or_false] at he
    obtain rfl | rfl | rfl | rfl := he
    · exact stage_cases decide_eq_true_iff (iff_of_false Bool.false_ne_true not_false) rfl rfl
    · exact stage_cases decide_eq_true_iff (by rw [accept_net]) rfl rfl
    · exact stage_cases decide_eq_true_iff (iff_of_false Bool.false_ne_true not_false) rfl rfl
    · exact stage_cases (iff_of_true rfl trivial) (iff_of_false Bool.false_ne_true not_false) rfl rfl
  case check =>
    intro s h handle x o a a' r hg
    exact ⟨ends_of_notOpen hg rfl checkTxn_eq, fun hx hc hr => ends_of_done hg rfl ((onTxn_accept o hx hc).trans (checkIn_ok hr)),
      fun f hx hc hr hf => ends_of_done hg rfl ((onTxn_accept o hx hc).trans (checkIn_failed hr hf))⟩
  case commit =>
    intro s h handle T x o a a' r late hg hx hc
    have htime : a'.tb.time = s.tb.time := congrArg (·.time) (accept_tb s h o)
    have hhandle := findTxn_handle hx
    have hrow : commitTxn a h handle T.toNat = commitIn a' h handle T.toNat x := commitTxn_eq.trans (onTxn_accept o hx hc)
    refine ⟨fun hck => ends_of_done hg rfl (hrow.trans (commitIn_unchecked hck)), fun hck hfar => ends_of_done hg rfl (hrow.trans (commitIn_far hck (by rwa [htime]))),
      fun hck hnear hlater => exec_of_pend hg rfl (hrow.trans (commitIn_pending hck (by rwa [htime]) (by rwa [htime]))), fun hck hdue => ⟨fun hr => ?_, fun f hr hf => ?_⟩⟩
    · have hdone := hrow.trans (commitIn_due hck (by rwa [htime]))
      rw [applyTxn_ok hr, hhandle, htime] at hdone
      exact ends_of_done hg rfl hdone
    · have hdone := hrow.trans (commitIn_due hck (by rwa [htime]))
      rw [applyTxn_failed hr hf, hhandle, htime, commitBytes_congr (s := s) (t := a') (accept_net s h o)] at hdone
      exact ends_of_done hg rfl hdone
  case fire =>
    intro s handle x T tag hx hc due u r
    have hhandle : x.handle = handle := by simpa using List.find?_some hx
    have hlate : decide (due < u.tb.time) = decide (due < s.tb.time) := by
      change decide (due < max s.tb.time due) = _
      simp
    refine ⟨commitFire_waits hx hc, fun hdue => ⟨fun hr => ?_, fun f hr hf => ?_⟩⟩
    · have happlied := commitFire_applies hx hc hdue
      rw [applyTxn_ok hr, hhandle] at happlied
      rw [← hlate]
      exact happlied
    · have happlied := commitFire_applies hx hc hdue
      rw [applyTxn_failed hr hf, hhandle] at happlied
      rw [← hlate]
      exact happlied
  case discard =>
    intro s h handle x o
    refine ⟨fun hg hx hc => ?_, fun hg hx => ends_of_notOpen hg rfl rfl hx, fun hg hx hc => ends_of_commitPending hg rfl rfl hx hc, expire_idle, expire_not⟩
    rw [← dropTxn_modTxn (accept s h o) handle (f := fun t => { t with lastCmd := s.tb.time }) (fun _ => rfl)]
    exact ends_of_done hg rfl (onTxn_accept o hx hc)
  case slice =>
    intro s b hts hp hc
    obtain ⟨hafter, hfailed⟩ := checkItems_slice hc
    rw [sliceApply_timesliced hts hp] at hafter
    refine ⟨_, rfl, hfailed, ?_⟩
    rw [hafter]
    exact ⟨getSlice_sliceTaken s b, getChan_sliceTaken s b, fun g hg => thingsOwned_granule hg, fun k hk => ownBlocks_owned (sdId b) hk _⟩

end Sys2Proof.Machine

/-! ## Caps, telemetry and the I3C target (R447, R448, R450, R458)

What a cap that is written does is said once, in `capsTo_written`, for the host's command and the rack's write alike. -/

namespace Sys2Proof.Machine

section

variable (s : State) (h : Hdr) (o : OpInfo)

@[simp] theorem accept_caps : (accept s h o).caps = s.caps := by rw [accept_frame s h o]
@[simp] theorem accept_pw : (accept s h o).pw = s.pw := by rw [accept_frame s h o]
@[simp] theorem accept_pwDies : (accept s h o).pwDies = s.pwDies := by rw [accept_frame s h o]
@[simp] theorem accept_pins : (accept s h o).pins = s.pins := by rw [accept_frame s h o]

end

/-! ### The self-brake (R450) -/

/-- The brake's duty is at most all sixteen of sixteen cycles. -/
theorem brakeDuty_le (s : State) : brakeDuty s ≤ 16 := by
  unfold brakeDuty
  cases hfound : ((List.range 16).reverse.map (· + 1)).find? (fun d => computeMw s * d / 16 + otherMw s ≤ s.caps.inForce * 1000) with
  | none => decide
  | some d =>
    obtain ⟨k, hk, rfl⟩ := List.mem_map.mp (List.mem_of_find?_eq_some hfound)
    exact List.mem_range.mp (List.mem_reverse.mp hk)

/-- Ending the lend changes the lend alone: its flag and the dies' shares. -/
theorem endLend_only (s : State) : ∃ dies, endLend s = { s with pwDies := dies, pw := { s.pw with lent := false } } := by
  unfold endLend
  split
  · exact ⟨_, rfl⟩
  · next hnot =>
    have hlent : s.pw.lent = false := eq_false_of_ne_true hnot
    exact ⟨s.pwDies, by rw [← hlent]⟩

/-- The self-brake ends the lend, is counted, limits the duty and drives ALERT_N. -/
theorem selfBrakeNow_only (s : State) : ∃ dies, selfBrakeNow s = setAlert { s with
    pwDies := dies, pw := { s.pw with lent := false, selfBrakes := min (s.pw.selfBrakes + 1) 0xFF, selfBrake := min s.pw.selfBrake (brakeDuty s) } } := by
  obtain ⟨dies, hends⟩ := endLend_only s
  refine ⟨dies, ?_⟩
  unfold selfBrakeNow
  rw [hends]
  rfl

/-- An in-band interrupt leaves the module and changes nothing in it. -/
theorem notifyI3c_only (before after : State) : ∃ out, notifyI3c before after = { after with out := out } := by
  unfold notifyI3c
  split
  · exact ⟨_, rfl⟩
  · exact ⟨_, rfl⟩

/-! ### A cap is written (R447) -/

/-- The caps `c`, once written, put a cap in force that is more than 10% below that of 1 ms earlier. -/
def CapFalls (s : State) (c : Caps) : Prop := min c.rack c.host * 10 < capAt s (s.tb.time - 4000000) * 9

/-- What the write of the caps `c` leaves: the lower of the two is in force, a fall brakes, and ALERT_N follows. -/
structure CapsWritten (s : State) (c : Caps) (t : State) : Prop where
  caps : t.caps = { c with inForce := min c.rack c.host }
  falls : CapFalls s c → t.pw.selfBrake = min s.pw.selfBrake (brakeDuty t) ∧ t.pw.selfBrakes = min (s.pw.selfBrakes + 1) 0xFF ∧ t.pw.lent = false
  stands : ¬ CapFalls s c → t.pw.selfBrake = s.pw.selfBrake ∧ t.pw.lent = s.pw.lent ∧ t.pwDies = s.pwDies
  index : t.pw.i3cIndex = s.pw.i3cIndex
  writes : t.pw.i3cWrites = s.pw.i3cWrites
  pins : t.pins = { s.pins with alertN := !alertHolds t }
  rest : t = { s with caps := t.caps, pw := t.pw, pwDies := t.pwDies, pins := t.pins, out := t.out }

theorem capsTo_written (s : State) (c : Caps) : CapsWritten s c (capsTo s c) := by
  unfold capsTo
  extract_lets now c' s1 s2
  by_cases hfalls : CapFalls s c
  · have hcond : c'.inForce * 10 < capAt s (now - msU) * 9 := hfalls
    obtain ⟨dies, hbrake⟩ := selfBrakeNow_only s2
    obtain ⟨out, hout⟩ := notifyI3c_only s (selfBrakeNow s2)
    rw [if_pos hcond, hout, hbrake]
    exact ⟨rfl, fun _ => ⟨rfl, rfl, rfl⟩, fun hnot => absurd hfalls hnot, rfl, rfl, rfl, rfl⟩
  · have hcond : ¬ c'.inForce * 10 < capAt s (now - msU) * 9 := hfalls
    obtain ⟨out, hout⟩ := notifyI3c_only s s2
    rw [if_neg hcond, hout]
    exact ⟨rfl, fun hf => absurd hf hfalls, fun _ => ⟨rfl, rfl, rfl⟩, rfl, rfl, rfl, rfl⟩

/-- A fall while no brake holds sets the duty to the largest that the cap allows. -/
theorem CapsWritten.brake {s t : State} {c : Caps} (hw : CapsWritten s c t) (hoff : s.pw.selfBrake = 16) (hfalls : CapFalls s c) : t.pw.selfBrake = brakeDuty t := by
  obtain ⟨hduty, -, -⟩ := hw.falls hfalls
  rw [hduty, hoff, min_eq_right (brakeDuty_le t)]

/-! ### The caps' two writers (R447, R448) -/

/-- The caps once the host has written. -/
def hostCaps (s : State) (cap : Nat) : Caps := { s.caps with host := heldCap cap, hostLow := decide (cap < 900) }

/-- The caps once the rack has written. -/
def rackCaps (s : State) (cap : Nat) : Caps := { s.caps with rack := heldCap cap, rackLow := decide (cap < 900) }

theorem setHostCap_eq (s : State) (cap : Nat) : setHostCap s cap =
    (capsTo s (hostCaps s cap), .done (if cap < 900 then 0x0016 else 0) (leBytes 4 (min s.caps.rack (heldCap cap)))) := by
  have hforce : (capsTo s (hostCaps s cap)).caps.inForce = min s.caps.rack (heldCap cap) := by
    rw [(capsTo_written s (hostCaps s cap)).caps]
    rfl
  rw [← hforce]
  rfl

/-- Acceptance lets the same falls of the host's cap brake. -/
theorem capFalls_accept (s : State) (h : Hdr) (o : OpInfo) (c : Caps) : CapFalls (accept s h o) c ↔ CapFalls s c := by simp [CapFalls, capAt]

section

variable {s : State}

theorem exec_rackCapWrite_silent (ha : i3cAnswers s = false) (lo hi : Option Byte) : exec (.rackCapWrite lo hi) s = .next s := by
  change execRackCapWrite lo hi s = _
  rw [execRackCapWrite, ha]
  rfl

/-- A transfer of one byte writes no cap. -/
theorem exec_rackCapWrite_partial (ha : i3cAnswers s = true) (lo : Option Byte) :
    exec (.rackCapWrite lo none) s = .next (modPw s (fun p => { p with i3cIndex := 0 })) := by
  change execRackCapWrite lo none s = _
  rw [execRackCapWrite, ha]
  cases lo <;> rfl

/-- A transfer of both bytes writes the rack's cap and is counted. -/
theorem exec_rackCapWrite_both (ha : i3cAnswers s = true) (l u : Byte) : exec (.rackCapWrite (some l) (some u)) s =
    .next (modPw (capsTo (modPw s (fun p => { p with i3cIndex := 0 })) (rackCaps s (l.toNat + 256 * u.toNat))) (fun p => { p with i3cWrites := (p.i3cWrites + 1) % 256 })) := by
  change execRackCapWrite (some l) (some u) s = _
  rw [execRackCapWrite, ha]
  rfl

theorem exec_entdaa_off (hoff : s.rst.step = 0) (addr : BitVec 7) : exec (.entdaa addr) s = .next s := by
  change execEntdaa addr s = _
  rw [execEntdaa, if_pos hoff]

theorem exec_entdaa_on (hon : s.rst.step ≠ 0) (addr : BitVec 7) : exec (.entdaa addr) s = .next { s with pw := { s.pw with i3cDyn := some addr } } := by
  change execEntdaa addr s = _
  rw [execEntdaa, if_neg hon]
  rfl

end

/-! ### The caps, telemetry and the target in their cases -/

/-- Settles O50: both writers through `capsTo_written`; telemetry and ENTDAA by their rows. -/
theorem powerCaps : Obligations.PowerCaps := by
  unfold Obligations.PowerCaps
  refine ⟨rfl, rfl, ?host, ?telemetry, ?rack⟩
  case host =>
    intro s h cap o a host hg
    have hw := capsTo_written a (hostCaps a cap.toNat)
    have hcaps : a.caps = s.caps := accept_caps s h o
    have hpw : a.pw = s.pw := accept_pw s h o
    have hfalls : CapFalls a (hostCaps a cap.toNat) ↔ min s.caps.rack host * 10 < capAt s (s.tb.time - 4000000) * 9 := by
      rw [capFalls_accept, hostCaps, hcaps]
      rfl
    refine ⟨capsTo a (hostCaps a cap.toNat), ends_of_done hg rfl ?_, ?_, fun hoff hf => ?_, fun hnot => ?_, ?_, hw.rest⟩
    · rw [← hcaps]
      exact setHostCap_eq a cap.toNat
    · rw [hw.caps, hostCaps, hcaps]
      rfl
    · have hf' := hfalls.mpr hf
      obtain ⟨-, hcount, hlent⟩ := hw.falls hf'
      rw [← hpw] at hoff ⊢
      exact ⟨hw.brake hoff hf', hcount, hlent⟩
    · obtain ⟨hduty, hlent, hdies⟩ := hw.stands (fun hf => not_lt.mpr hnot (hfalls.mp hf))
      rw [← hpw, ← accept_pwDies s h o]
      exact ⟨hduty, hlent, hdies⟩
    · rw [← accept_pins s h o]
      exact hw.pins
  case telemetry =>
    intro s h o hg
    refine ⟨fun hadmin => ends_of_done hg rfl ?_, fun hslice => ends_of_done hg rfl ?_⟩
    · rw [isAdmin, decide_eq_true hadmin, if_pos rfl]
      rfl
    · rw [isAdmin, decide_eq_false hslice, if_neg Bool.false_ne_true]
      rfl
  case rack =>
    intro s l u lo addr rack
    refine ⟨fun ha hi => exec_rackCapWrite_silent ha lo hi, fun ha => exec_rackCapWrite_partial ha lo, fun ha => ⟨_, exec_rackCapWrite_both ha l u, ?_⟩,
      fun hoff => exec_entdaa_off hoff addr, fun hon => exec_entdaa_on hon addr⟩
    have hw := capsTo_written (modPw s (fun p => { p with i3cIndex := 0 })) (rackCaps s (l.toNat + 256 * u.toNat))
    refine ⟨hw.caps, ?_, hw.index, hw.brake, fun hnot => ?_, hw.pins, congrArg (modPw · (fun p => { p with i3cWrites := (p.i3cWrites + 1) % 256 })) hw.rest⟩
    · exact congrArg (fun n => (n + 1) % 256) hw.writes
    · obtain ⟨hduty, -, -⟩ := hw.stands (not_lt.mpr hnot)
      exact hduty

end Sys2Proof.Machine
